-- ==== Sys2Proof/Word.lean ====
section
/-!
DEFINITION. Word.lean: the word types of the GLT-7216 and DWJ-2 manual, and the keyed table the State is
built from.  `Tab α` is plain data: a list of index and record pairs; an index that is not listed stands for
the record's reset value, which the reader of the table names.
-/

namespace Sys2Proof

/-- One byte. -/
abbrev Byte := BitVec 8
/-- A 16-bit quantity. -/
abbrev W16 := BitVec 16
/-- A register of a BAR0 region (R7). -/
abbrev W32 := BitVec 32
/-- A 64-bit quantity (a g register, a pair of registers under R8). -/
abbrev W64 := BitVec 64
/-- A place address (Table 1.4). -/
abbrev Place := BitVec 40
/-- Spine time in nanoseconds since second 0: ST_SEC × 10⁹ + ST_NSEC. -/
abbrev Ns := Nat
/-- Core-local or other byte memory in canonical form: addresses strictly rising, no entry equal to 0. -/
abbrev Memory := List Host.Cell
/-- A keyed table of records, keys strictly rising. -/
abbrev Tab (α : Type) := List (Nat × α)

end Sys2Proof
end

