-- ==== Sys2Proof/Syntax.lean ====
section
/-!
DEFINITION. Syntax.lean: the operands of the block's commands and the one inductive `Instr`, one constructor per
row of spec/opcode_table.json.  Operand records keep the manual's field names; a field that the manual gives a
fixed width is a bit vector of it or a bounded number, the rest is a natural number that WellFormed bounds.
-/

namespace Sys2Proof

/-! ## Sources and issuers -/

/-- Who performs a register access: a PF through its BAR0, or a VF through its window (R27, R28). -/
inductive Src where
  | pf (n : Fin 4)
  | vf (pf : Fin 4) (n : Fin 257)
  deriving DecidableEq, Repr

/-- A register access: its offset in the window and its width in bytes (R7). -/
structure Access where
  off : Nat
  width : Nat
  deriving DecidableEq, Repr

/-- The function, ring and tag of a host command, with the FLAGS of its packet (Table 13.3).
`vf` 0 is the PF itself; `edition` is the HOSTn edition under which the packet was fetched (R274). -/
structure Issuer where
  pf : Fin 4 := 0
  vf : Fin 257 := 0
  ring : Fin 16 := 0
  tag : BitVec 11 := 0
  tenant : Fin 1024 := 0
  edition : Byte := 0
  deriving DecidableEq, Repr

/-- A Kettle route (R278): a PF's window, the management port, or I3C. -/
inductive Route where
  | window (pf : Fin 4)
  | mgmtPort
  | i3c
  deriving DecidableEq, Repr

/-- A reader of spine time with a shadow of its own (R156). -/
inductive TimeReader where
  | pf (n : Fin 4)
  | mgmt
  | route (r : Route)
  deriving DecidableEq, Repr

/-! ## Collator instructions (chapter 3) -/

/-- Two-operand scalar operations of the class of opcodes 0x00-0x2F (Table 3.4). -/
inductive AluOp where
  | add | sub | and | or | xor | shl | shr | sar | mul | slt | sltu | seq
  deriving DecidableEq, Repr

/-- Conditions of the branch forms. -/
inductive BrCond where
  | eq | ne | lt | ge | ltu | geu
  deriving DecidableEq, Repr

/-- The scalar class of Table 3.4.  Table 3.4 lists the members and gives no code per member, so the members
are constructors and no number is invented for them.  `illegal` is a reserved opcode or form. -/
inductive ScalarOp where
  | alu (op : AluOp) (d a b : Fin 32)
  | aluImm (op : AluOp) (d a : Fin 32) (imm : BitVec 10)
  | loadImm (d : Fin 32) (imm : BitVec 20)
  | load (bytes : Fin 4) (signed : Bool) (d a : Fin 32) (imm : BitVec 10)
  | store (bytes : Fin 4) (a b : Fin 32) (imm : BitVec 10)
  | branch (c : BrCond) (a b : Fin 32) (imm : BitVec 20)
  | jump (d : Fin 32) (imm : BitVec 20)
  | jumpReg (d a : Fin 32) (imm : BitVec 10)
  | loop (d : Fin 32) (imm : BitVec 20)
  | illegal (word : W32)
  deriving DecidableEq, Repr

/-- Lane-wise integer operations of the vector unit. -/
inductive VIntOp where
  | add | sub | and | or | xor | shl | shr | min | max
  deriving DecidableEq, Repr

/-- Comparison predicates of VCMP. -/
inductive VCmpOp where
  | eq | lt | le | unordered
  deriving DecidableEq, Repr

/-- The vector class of Table 3.4.  A floating-point form names in `b` the g register that holds format,
rounding and FTZ (R57), and in `c` its second source vector. -/
inductive VectorOp where
  | vld (d : Fin 32) (a : Fin 32) (imm : BitVec 10)
  | vst (s : Fin 32) (a : Fin 32) (imm : BitVec 10)
  | vint (op : VIntOp) (laneBytes : Fin 4) (d a c : Fin 32)
  | vadd (d a c b : Fin 32)
  | vsub (d a c b : Fin 32)
  | vmul (d a c b : Fin 32)
  | vfma (d a c b : Fin 32)
  | vcvt (d a b : Fin 32) (srcFmt : BitVec 4)
  | vcmp (op : VCmpOp) (d a c b : Fin 32)
  | vunpk (fmt : BitVec 4) (d a : Fin 32)
  | laneToG (d : Fin 32) (s : Fin 32) (lane : Fin 8)
  | gToLane (d : Fin 32) (a : Fin 32) (lane : Fin 8)
  | illegal (word : W32)
  deriving DecidableEq, Repr

/-! ## Tap descriptors and tile records (chapter 4) -/

/-- Tap descriptor (Table 4.1).  `rsv` is the OR of its reserved fields. -/
structure TapDesc where
  cls : BitVec 3 := 0
  cFmt : BitVec 4 := 0
  aFmt : BitVec 4 := 0
  bFmt : BitVec 4 := 0
  unit : BitVec 12 := 0
  m : Nat := 1
  n : Nat := 1
  k : Nat := 1
  runSeq : W32 := 0
  accDesc : W64 := 0
  aAddr : W64 := 0
  bAddr : W64 := 0
  yAddr : W64 := 0
  cAddr : W64 := 0
  aStride : W32 := 0
  bStride : W32 := 0
  yStride : W32 := 0
  cStride : W32 := 0
  saAddr : W64 := 0
  sbAddr : W64 := 0
  rsv : W64 := 0
  deriving DecidableEq, Repr

/-- Tile record header (Table 4.2) without the constant fields REC_VER and HDR_LEN. -/
structure TileHdr where
  recLen : Nat := 256
  tenant : Fin 1024 := 0
  slot : Fin 16 := 0
  strict : Bool := false
  raised : Bool := false
  step : W32 := 0
  gathering : Nat := 0
  tapSeq : W32 := 0
  sampleTime : BitVec 48 := 0
  tap : TapDesc := {}
  edition : Byte := 0
  domain : Fin 64 := 0
  aOff : Nat := 0
  saOff : Nat := 0
  bOff : Nat := 0
  sbOff : Nat := 0
  cOff : Nat := 0
  yOff : Nat := 0
  subM : Nat := 1
  subN : Nat := 1
  rowOff : Nat := 0
  colOff : Nat := 0
  deriving DecidableEq, Repr

/-- Cause and sub-cause of a VOID or SKIPPED verdict (Table 4.5). -/
inductive Cause where
  | none
  | streamBroken | descriptor | eventOverflow | program | coreError | fetch | holdCut
  | sealA | sealB | sealOut | sealC
  | clockCpll | clockAccel
  | resetCluster | resetTether | resetAccel | resetDdr
  | queueFull | deadline | tileBudget | noCores
  | rolledBack
  deriving DecidableEq, Repr

/-- TILE_VOID notice (chapter 9, Tether streams). -/
structure TileVoid where
  tapSeq : W32 := 0
  step : W32 := 0
  runSeq : W32 := 0
  unit : BitVec 12 := 0
  cause : Cause := .fetch
  edition : Byte := 0
  domain : Fin 64 := 0
  deriving DecidableEq, Repr

/-! ## Program images and firmware images -/

/-- One SECTIONS entry (Table 3.11). -/
structure ImgSection where
  off : Nat := 0
  load : Nat := 0
  len : Nat := 0
  zeroFill : Bool := false
  deriving DecidableEq, Repr

/-- One MATCH entry (Table 3.11). -/
structure ImgMatch where
  aFmt : BitVec 4 := 0
  bFmt : BitVec 4 := 0
  bounded : Bool := true
  strict : Bool := false
  kMin : Nat := 0
  kMax : Nat := 0
  mnMax : Nat := 0
  deriving DecidableEq, Repr

/-- A collation program image as its header reads (Table 3.11), with all of its bytes. -/
structure ProgImage where
  magic : W32 := 0x50524743
  formatVer : W16 := 1
  imageLen : Nat := 0
  entry : Nat := 0
  shapeH : Nat := 1
  shapeW : Nat := 1
  instances : Nat := 0
  keySlot : Nat := 1
  svn : Nat := 0
  maxTileCycles : Nat := 4096
  sections : List ImgSection := []
  matches' : List ImgMatch := []
  bytes : List Byte := []
  deriving DecidableEq, Repr

/-- What a core specimen gave: its verdict, the first element that failed and the elements that do not match. -/
structure SpecOutcome where
  verdict : Byte := 0
  firstBad : W32 := 0
  notMatch : W32 := 0
  deriving DecidableEq, Repr

/-- Specimen entry (Table 13.20). -/
structure SpecEntry where
  accel : Bool := false
  dieId : W32 := 0
  off : Nat := 0
  len : Nat := 0
  addr : W64 := 0
  seed : W32 := 0
  firstUnit : BitVec 12 := 0
  lastUnit : BitVec 12 := 0
  deriving DecidableEq, Repr

/-- A firmware, microcode, sentinel or specimen image, byte by byte (Table 13.16). -/
structure FwImage where
  raw : List Byte := []
  deriving DecidableEq, Repr

/-- What an accelerator specimen brought back (R366): the CRC-32C of each area read, or, where no area matched, the CPL status
of each of its reads. -/
inductive SpecResult where
  | areas (crcs : List W32)
  | reads (statuses : List (BitVec 4))
  deriving DecidableEq, Repr

/-- A Kettle or clear token (Table 10.8). -/
structure Token where
  magic : W32 := 0x4E4B544B
  ops : W32 := 0
  serial : W64 := 0
  nonce : W64 := 0
  notAfter : Ns := 0
  keySlot : Nat := 0
  rsv : W64 := 0
  sig : List Byte := []
  deriving DecidableEq, Repr

/-- Device certificate (Table 13.9). -/
structure Cert where
  magic : W32 := 0x54524543
  formatVer : W16 := 1
  serial : W64 := 0
  key : List Byte := []
  sig : List Byte := []
  deriving DecidableEq, Repr

/-! ## Spine cells (chapters 5, 6, 10, 11) -/

/-- Control cell header (Table 5.1) without TYPE; `level` is FLAGS[1:0], `chan` is CHANNEL[10:0]. -/
structure CellHdr where
  level : Fin 4 := 0
  lap2 : Bool := false
  turned : Bool := false
  abort : Bool := false
  dual : Bool := false
  seq : W16 := 0
  chan : BitVec 11 := 0
  group : Fin 4 := 0
  part : Bool := false
  deriving DecidableEq, Repr

/-- A FOLD or UNFOLD cell: its header and the member east of the gap (R120, R122). -/
structure GapCell where
  hdr : CellHdr := {}
  gap : Fin 64 := 0
  deriving DecidableEq, Repr

/-- A FAILOVER cell: its header and, where it only proposes a failback, the time (R125, R127). -/
structure FailoverCell where
  hdr : CellHdr := {}
  at' : Option Ns := none
  deriving DecidableEq, Repr

/-- SYNC body (Table 6.1); stamps are in units of 2⁻¹⁶ ns. -/
structure SyncBody where
  t1 : Nat := 0
  state : Fin 5 := 0
  upHoldover : Bool := false
  ext : Bool := false
  stepCount : Byte := 0
  root : Place := 0
  depth : Byte := 0
  deriving DecidableEq, Repr

/-- Reduction cell body (Table 5.6). -/
structure RedBody where
  round : Nat := 0
  tenant : Fin 1024 := 0
  op : BitVec 4 := 0
  ty : BitVec 2 := 0
  count1 : BitVec 2 := 0
  overflow : Bool := false
  shape : Bool := false
  short : Bool := false
  timeout : Bool := false
  count : Nat := 0
  values : List W64 := []
  deriving DecidableEq, Repr

/-- BARRIER body (Table 5.9). -/
structure BarBody where
  round : Nat := 0
  tenant : Fin 1024 := 0
  count : Nat := 0
  release : Ns := 0
  deriving DecidableEq, Repr

/-- VOTE and SEWN bodies (Table 5.9); the tenant is the header's fixed-order channel. -/
structure VoteBody where
  gathering : Nat := 0
  pass : Bool := true
  tagMismatch : Bool := false
  host : Bool := false
  count : Nat := 0
  tag : W64 := 0
  completion : Ns := 0
  deriving DecidableEq, Repr

/-- HOLD, RELEASE, MARK and CANCEL bodies (Table 10.3). -/
structure HoldBody where
  holdId : W32 := 0
  tenant : Fin 1024 := 0
  collateInHold : Bool := true
  time : Ns := 0
  place : Place := 0
  deriving DecidableEq, Repr

/-- Kinds of suspect report (Table 11.1). -/
inductive RepKind where
  | tileFail | hang | seal | divergence | reach | tetherLost | slotAlert | slotAbsent | domainLimit
  | gltDomain | pageCrc | spineSilent | hopLost | trimTimeout | reporter | thermal
  deriving DecidableEq, Repr

/-- REPORT and SUMMARY bodies (Table 11.2). -/
structure RepBody where
  kind : RepKind := .tileFail
  self : Bool := false
  conclusive : Bool := false
  distinct : Nat := 1
  target : Place := 0
  reporter : Place := 0
  count : Nat := 1
  time : BitVec 48 := 0
  deriving DecidableEq, Repr

/-- PROBE and PROBE_ACK bodies (Table 11.2). -/
structure ProbeBody where
  fwAlive : Bool := false
  target : Place := 0
  arbiter : Place := 0
  probeId : W16 := 0
  deriving DecidableEq, Repr

/-- SUSPECT body (Table 11.2). -/
structure SuspectBody where
  kind : RepKind := .tileFail
  reporterRule : Bool := false
  silent : Bool := false
  target : Place := 0
  arbiter : Place := 0
  time : BitVec 48 := 0
  deriving DecidableEq, Repr

/-- A control cell's TYPE with its body, as the GLT sends it.  The manual gives FOLD, CENSUS, UNFOLD and FAILOVER no body: a
FOLD names the member east of the gap, a FAILOVER that only proposes a failback names its time (DESIGN CHOICE, log entry 157). -/
inductive CellBody where
  | sync (b : SyncBody)
  | delayReq (t3 : Nat) (reqId : W16)
  | delayResp (t4 : Nat) (reqId : W16)
  | timed (launch : Nat) (id : W16) (payload : BitVec 96)
  | hold (b : HoldBody)
  | release (b : HoldBody)
  | mark (b : HoldBody)
  | cancel (b : HoldBody)
  | fold (gap : Nat)
  | unfold (at' : Ns) (gap : Nat)
  | census (map : BitVec 64) (epoch : W16)
  | failover (at' : Option Ns)
  | selftest
  | vote (b : VoteBody)
  | sewn (b : VoteBody)
  | barrier (b : BarBody)
  | reduce (b : RedBody)
  | reduceX (b : RedBody)
  | report (b : RepBody)
  | summary (b : RepBody)
  | probe (b : ProbeBody)
  | probeAck (b : ProbeBody)
  | suspect (b : SuspectBody)
  | restored (tenant : Fin 1024) (status : Byte) (participant : Place)
  deriving DecidableEq, Repr

/-- Kinds of binding transfer (Table 8.2). -/
inductive XferKind where
  | parityIn | entries | restorePush | readReply | ack
  deriving DecidableEq, Repr

/-- Status of a READ_REPLY or ACK (Table 8.2). -/
inductive XferStatus where
  | ok | notPopulated | lost | noSpace
  deriving DecidableEq, Repr

/-- Region entry of a colophon (Table 8.6). -/
structure RegionEntry where
  rank : Nat := 0
  region : Fin 256 := 0
  cls : Byte := 0
  deepOnly : Bool := false
  groupSize : Nat := 1
  repFirst : Nat := 0
  repStride : Nat := 0
  length : Nat := 0
  firstIndex : Nat := 0
  deriving DecidableEq, Repr

/-- Data or parity entry of a colophon (Table 8.7). -/
structure DataEntry where
  index : Nat := 0
  parity : Bool := false
  replicated : Bool := false
  unprotected : Bool := false
  rebuilt : Bool := false
  region : Fin 256 := 0
  member : Nat := 0
  stripe : Option Nat := none
  rank : Nat := 0
  place : Place := 0
  offset : Nat := 0
  length : Nat := 0
  digest : BitVec 256 := 0
  deriving DecidableEq, Repr

/-- Stripe entry of a colophon (Table 8.7). -/
structure StripeEntry where
  stripe : Nat := 0
  g : Nat := 1
  mPrime : Nat := 0
  members : List (Option Nat) := []
  deriving DecidableEq, Repr

/-- A colophon (R215): the header of Table 8.5, the four tables and the signature. -/
structure Colophon where
  revision : Nat := 0
  tenant : Fin 1024 := 0
  sigShift : Nat := 28
  k : Nat := 8
  m : Nat := 2
  deep : Bool := false
  protectRepl : Bool := false
  someUnprotected : Bool := false
  gathering : Nat := 0
  step : Nat := 0
  startTime : Ns := 0
  ranks : Nat := 0
  sealTime : Ns := 0
  lead : Place := 0
  leadSerial : W64 := 0
  regions : List RegionEntry := []
  data : List DataEntry := []
  stripes : List StripeEntry := []
  parity : List DataEntry := []
  sig : List Byte := []
  deriving DecidableEq, Repr

/-- A complete binding transfer: Table 8.2 and its bytes. -/
structure Xfer where
  kind : XferKind := .ack
  member : Nat := 0
  status : XferStatus := .ok
  gathering : Nat := 0
  handle : W64 := 0
  row : Nat := 0
  length : Nat := 0
  digest : BitVec 256 := 0
  bytes : List Byte := []
  tenant : Fin 1024 := 0
  src : Place := 0
  dest : Place := 0
  stream : W32 := 0
  deriving DecidableEq, Repr

/-- BIND_READ payload (Table 8.3) with the frame's TENANT and SRC. -/
structure BindReadReq where
  offset : Nat := 0
  length : Nat := 0
  replyStream : W32 := 0
  gathering : Nat := 0
  handle : W64 := 0
  tenant : Fin 1024 := 0
  src : Place := 0
  deriving DecidableEq, Repr

/-- DIGEST payload (Table 8.4). -/
structure DigestMsg where
  handle : W64 := 0
  region : Fin 256 := 0
  member : Nat := 0
  groupSize : Nat := 1
  length : Nat := 0
  digest : BitVec 256 := 0
  deriving DecidableEq, Repr

/-- What a broadcast's bytes are for: the load area from DEST_OFFSET, a colophon extent, or a group restore push. -/
inductive BcastUse where
  | loadArea (destOffset : Nat)
  | colophon
  | groupPush
  deriving DecidableEq, Repr

/-- What a target knows of a broadcast beside its frames' headers: whether the tenant's participants alone are its targets
(scope 0), and what its bytes are for.  Table 5.2 has no field for either (DESIGN CHOICE, log entry 156). -/
structure BcastInfo where
  tenantOnly : Bool := true
  use : BcastUse := .colophon
  deriving DecidableEq, Repr

/-- TYPE of a data frame (Table 5.3). -/
inductive FrameType where
  | bindWrite | bindRead | bindData | digest
  | bcast (info : BcastInfo)
  | bcastAck
  deriving DecidableEq, Repr

/-- Header of a data frame beside its TYPE (Table 5.2). -/
structure FrameHdr where
  turned : Bool := false
  last : Bool := true
  dseq : W16 := 0
  length : Nat := 64
  tenant : Fin 1024 := 0
  dest : Place := 0
  src : Place := 0
  stream : W32 := 0
  offset : Nat := 0
  deriving DecidableEq, Repr

/-- What follows a data frame's header: the payload and the CRC-32C trailer (R112). -/
structure FrameBody where
  payload : List Byte := []
  crc : W32 := 0
  deriving DecidableEq, Repr

/-- A data frame (R112). -/
structure DataFrame extends FrameHdr, FrameBody
  deriving DecidableEq, Repr

/-! ## Gathering and Tether messages (chapters 7, 9) -/

/-- Region descriptor (Table 7.1). -/
structure RegionDesc where
  base : Nat := 0
  length : Nat := 65536
  region : Fin 256 := 0
  cls : Byte := 0
  deepOnly : Bool := false
  groupSize : Nat := 1
  repFirst : Nat := 0
  repStride : Nat := 0
  rsv : W32 := 0
  deriving DecidableEq, Repr

/-- A page push (Table 7.4 and the page). -/
structure PagePush where
  gathering : Nat := 0
  tenant : Fin 1024 := 0
  region : Fin 64 := 0
  urgent : Bool := false
  deep : Bool := false
  page : Nat := 0
  edition : Byte := 0
  domain : Byte := 0xFF
  crc : W32 := 0
  readTime : BitVec 48 := 0
  data : List Byte := []
  deriving DecidableEq, Repr

/-- One DOMAIN_MAP entry of DECLARE (Table 9.3). -/
structure DomRange where
  first : BitVec 12 := 0
  last : BitVec 12 := 0
  valid : Bool := false
  rsv : Bool := false
  deriving DecidableEq, Repr

/-- DECLARE payload (Table 9.3). -/
structure Declare where
  dieId : W32 := 0
  nUnits : Nat := 1
  nEngines : Nat := 1
  nDomains : Nat := 1
  memDomain : BitVec 6 := 0
  memValid : Bool := false
  rsv : Bool := false
  holdReach : Nat := 100
  memPages : Nat := 1
  memBase : Nat := 0
  domains : List DomRange := []
  deriving DecidableEq, Repr

/-- RELEASE control message (Table 9.5, R178). -/
structure ReleaseMsg where
  group : Fin 4 := 0
  step : W32 := 0
  arm : Bool := false
  gathering : Nat := 0
  regions : List RegionDesc := []
  deriving DecidableEq, Repr

/-- CREDIT control message (Table 9.5). -/
structure CreditMsg where
  urgent : Nat := 0
  pre : Nat := 0
  paceMBs : Nat := 0
  pregatherEn : Bool := true
  deriving DecidableEq, Repr

/-- POLICY control message (R90): per class the exponent j, or none for off; and the seed. -/
structure PolicyMsg where
  rates : List (Option Nat) := []
  seed : W64 := 0
  deriving DecidableEq, Repr

/-- NOTE kinds that the sentinel sends (Tables 9.5, R264). -/
inductive NoteMsg where
  | trimAck (unit : BitVec 12) (fence : Bool)
  | edition (domain : Fin 64) (edition : Byte)
  | resetDone (domain : Fin 64)
  | holdAck (reachNs : Nat)
  | holdMark (tapSeq : W32) (trimChanges : Nat) (editions : List Byte)
  deriving DecidableEq, Repr

/-- REPORT control message (Table 9.5). -/
inductive ReportMsg where
  | hang (unit : BitVec 12) (engine : Fin 256)
  | reach
  | trim (unit : BitVec 12)
  | pageRead (region : Fin 64) (page : Nat)
  | seal (unit : BitVec 12)
  | fetch (unit : BitVec 12)
  | thermal
  | domainLimit (domain : Fin 64)
  deriving DecidableEq, Repr

/-- State of the sentinel (Table 9.10). -/
inductive SnPhase where
  | down | rom | loading | waitDeclare | running | fault
  deriving DecidableEq, Repr

/-- HELLO (Table 9.5). -/
structure HelloMsg where
  stepping : Byte := 0xA2
  svn : W16 := 0
  phase : SnPhase := .rom
  declare : Option Declare := none
  deriving DecidableEq, Repr

/-- WRITTEN (Table 9.5): status 0 OK, 1 ARMED, 2 write error or CRC failure at receipt. -/
structure WrittenMsg where
  addr : Nat := 0
  crc : W32 := 0
  status : Fin 3 := 0
  deriving DecidableEq, Repr

/-- A restore push (chapter 9, Tether streams). -/
structure RestorePush where
  addr : Nat := 0
  crc : W32 := 0
  data : List Byte := []
  deriving DecidableEq, Repr

/-- Stream kinds (Table 9.4). -/
inductive StreamKind where
  | tileRecord | tileVoid | pagePush | intervalClose | restorePush | control
  deriving DecidableEq, Repr

/-- Stream segment (Table 9.4) with its payload. -/
structure Segment where
  stream : W16 := 0
  kind : StreamKind := .control
  start : Bool := true
  fin : Bool := true
  abort : Bool := false
  offset : Nat := 0
  edition : Byte := 0
  total : Nat := 0
  payload : List Byte := []
  deriving DecidableEq, Repr

/-- The answer to a stream (Table 9.5). -/
inductive AckKind where
  | ack | nak | stale
  deriving DecidableEq, Repr

/-- Tether traffic as one side sends it. -/
inductive TetherMsg where
  | hello (h : HelloMsg)
  | fwChunk (offset : Nat) (bytes : List Byte)
  | policy (p : PolicyMsg)
  | release (r : ReleaseMsg)
  | arrive (group : Fin 4) (round : W16)
  | holdAt (t : Ns)
  | releaseAt (t : Ns)
  | trim (unit : BitVec 12) (fence : Bool)
  | domain (d : Fin 64) (assert : Bool)
  | note (n : NoteMsg)
  | ack (k : AckKind) (stream : W16) (dropped : Nat)
  | regRd (off : Nat)
  | regWr (off : Nat) (val : W32)
  | regData (off : Nat) (val : W32)
  | report (r : ReportMsg)
  | written (w : WrittenMsg)
  | credit (c : CreditMsg)
  | fwSwitch (t : Ns)
  | timeExchange (t : Ns)
  | marginRead (engine : Fin 256) (first count : Nat)
  | tileRecord (hdr : TileHdr) (data : List Byte)
  | tileVoid (v : TileVoid)
  | pagePush (p : PagePush)
  | intervalClose (gathering : Nat)
  | restorePush (p : RestorePush)
  | specimen (unit : Option (BitVec 12)) (areas : List SpecEntry)
  deriving DecidableEq, Repr

/-- Hinge messages that the sentinel sends (Table 9.2, direction S→D). -/
inductive HingeMsg where
  | declareAck (accepted : Bool) (reason : Byte)
  | tapDone (tag : W16) (tapSeq : W32) (status : Byte)
  | fwGrant (tag : W16) (addr : Nat)
  | release (group : Fin 4) (arm : Bool) (step : W32) (gathering : Nat)
  | trimSet (unit : BitVec 12) (fence : Bool)
  | domainReset (domain : Fin 64) (assert : Bool)
  | mrd (tag : W16) (addr bytes : Nat)
  | mwr (tag : W16) (addr : Nat) (data : List Byte)
  deriving DecidableEq, Repr

/-- The error of a Hinge message that R233 makes the sentinel drop, if it has one. -/
inductive HingeErr where
  | none | badType | badLen | reserved
  deriving DecidableEq, Repr

/-! ## Link control sets (Table 12.4) -/

structure LcsHdr where
  place : Place := 0
  port : Fin 32 := 0
  crc : W16 := 0
  deriving DecidableEq, Repr

inductive Lcs where
  | train (lanes : BitVec 4) (full : Bool)
  | widthReq (width : BitVec 3) (good : BitVec 4)
  | widthGo (lanes : BitVec 4) (atTime : Bool) (go : Nat)
  | retuneReq
  | retuneGo (t : Ns)
  deriving DecidableEq, Repr

/-- A link frame (Table 12.2) with what the receiver's FEC says of it; `units` are the cells and segments that BODY holds. -/
structure LinkFrame where
  fseq : BitVec 12 := 0
  ackValid : Bool := false
  ack : BitVec 12 := 0
  nak : Bool := false
  kind : Byte := 1
  length : Nat := 0
  body : List Byte := []
  crc : W32 := 0
  correctable : Bool := true
  corrected : Nat := 0
  units : Nat := 0
  deriving DecidableEq, Repr

/-- The three ways a link trains (Table 12.3). -/
inductive TrainKind where
  | full | fast | retune
  deriving DecidableEq, Repr

/-! ## Host command parameters (chapters 4-8, 10, 11, 13, 14) -/

/-- COLLATE_POLICY_SET (Table 4.8). -/
structure PolicySetP where
  mask : W32 := 0
  rates : List Byte := []
  mode : Byte := 0
  weight : Byte := 16
  voidPolicy : Byte := 1
  raise : Byte := 2
  quota : Nat := 1024
  fromGathering : Nat := 0
  waiveGathering : Nat := 0
  rsv : Bool := false
  deriving DecidableEq, Repr

/-- COLLATE_PROGRAM_LOAD (Table 4.9); `image` is what was read at SOURCE (R107). -/
structure ProgLoadP where
  action : Byte := 0
  slot : Nat := 8
  length : Nat := 0
  image : List Byte := []
  rsv : Bool := false
  deriving DecidableEq, Repr

/-- COLLATE_VERDICT_READ (Table 4.10). -/
structure VerdictReadP where
  gathering : Nat := 0
  filter : Byte := 0
  first : Nat := 0
  bufLen : Nat := 0
  dest : Nat := 0
  rsv : Bool := false
  deriving DecidableEq, Repr

/-- REDUCE_POST (Table 5.20). -/
structure ReducePostP where
  chan : Byte := 0xFF
  op : BitVec 4 := 0
  ty : BitVec 2 := 0
  count1 : BitVec 2 := 0
  rank : Nat := 0
  operands : List W64 := []
  resultAddr : Nat := 0
  rsv : Bool := false
  deriving DecidableEq, Repr

/-- BARRIER_ARM (Table 5.21); `members` is the rank bitmap read at MEMBERS as the list of its set bits. -/
structure BarrierArmP where
  action : Byte := 0
  group : Nat := 0
  rank : Nat := 0
  members : List Nat := []
  membersLen : Nat := 1
  resultAddr : Nat := 0
  rsv : Bool := false
  deriving DecidableEq, Repr

/-- SEW_VOTE (Table 5.22). -/
structure SewVoteP where
  action : Byte := 0
  gathering : Nat := 0
  resultAddr : Nat := 0
  rsv : Bool := false
  deriving DecidableEq, Repr

/-- BROADCAST (Table 5.23); `hostBytes` is what was read at SOURCE when SOURCE_KIND is 0. -/
structure BroadcastP where
  scope : Byte := 0
  sourceKind : Byte := 0
  source : Nat := 0
  length : Nat := 0
  destOffset : Nat := 0
  resultAddr : Nat := 0
  hostBytes : List Byte := []
  rsv : Bool := false
  deriving DecidableEq, Repr

/-- TIME_SET (Table 6.9). -/
structure TimeSetP where
  action : Byte := 0
  nsec : Nat := 0
  sec : Nat := 0
  sub : W16 := 0
  adj : Int := 0
  span : Nat := 1000000
  rsv : Bool := false
  deriving DecidableEq, Repr

/-- TIME_LAUNCH (Table 6.10). -/
structure TimeLaunchP where
  action : Byte := 0
  kind : Byte := 0
  port : Fin 8 := 0
  stamp : Bool := false
  id : W16 := 0
  nsec : Nat := 0
  sec : Nat := 0
  payload : BitVec 96 := 0
  rsv : Bool := false
  deriving DecidableEq, Repr

/-- GATHER_ARM (Table 7.13); `list` is what was read at LIST (R199). -/
structure GatherArmP where
  action : Byte := 0
  count : Nat := 1
  rank : Nat := 0
  fromGathering : Nat := 0
  list : List RegionDesc := []
  rsv : Bool := false
  deriving DecidableEq, Repr

/-- GATHER_START (Table 7.14). -/
structure GatherStartP where
  action : Byte := 0
  gathering : Nat := 0
  rsv : Bool := false
  deriving DecidableEq, Repr

/-- One signature-map entry (R228). -/
structure MapEntry where
  rank : Nat := 0
  region : Nat := 0
  firstIndex : Nat := 0
  rsv : Bool := false
  deriving DecidableEq, Repr

/-- SEW (Table 8.13); `map` is what was read at MAP. -/
structure SewP where
  action : Byte := 0
  sigShift : Nat := 28
  k : Nat := 8
  m : Nat := 2
  retain : Nat := 2
  coldEvery : Nat := 0
  protectRepl : Bool := false
  fromGathering : Nat := 0
  loadArea : Nat := 0
  mapAddr : Nat := 0
  map : List MapEntry := []
  mapCount : Nat := 1
  gathering : Nat := 0
  rsv : Bool := false
  deriving DecidableEq, Repr

/-- BIND_RESTORE (Table 8.14). -/
structure BindRestoreP where
  action : Byte := 0
  classes : Byte := 0
  group : Bool := false
  region : Nat := 0
  rank : Nat := 0
  gathering : Nat := 0
  place : Nat := 0
  target : Nat := 0
  resultAddr : Nat := 0
  rsv : Bool := false
  deriving DecidableEq, Repr

/-- COLOPHON_READ (Table 8.15). -/
structure ColophonReadP where
  gathering : Nat := 0
  offset : Nat := 0
  length : Nat := 0
  dest : Nat := 0
  rsv : Bool := false
  deriving DecidableEq, Repr

/-- HOLD_AT (Table 10.14). -/
structure HoldAtP where
  action : Byte := 0
  collateInHold : Bool := true
  holdId : W32 := 0
  nsec : Nat := 0
  sec : Nat := 0
  resultAddr : Nat := 0
  rsv : Bool := false
  deriving DecidableEq, Repr

/-- RELEASE_AT (Table 10.15). -/
structure ReleaseAtP where
  holdId : W32 := 0
  nsec : Nat := 0
  sec : Nat := 0
  rsv : Bool := false
  deriving DecidableEq, Repr

/-- TRIM_UNIT (Table 11.13). -/
structure TrimUnitP where
  action : Byte := 0
  place : Place := 0
  rsv : Bool := false
  deriving DecidableEq, Repr

/-- TIP_IN (Table 11.14). -/
structure TipInP where
  rank : Nat := 0
  spare : Place := 0
  restore : Bool := false
  resultAddr : Nat := 0
  rsv : Bool := false
  deriving DecidableEq, Repr

/-- WITHDRAW (Table 11.15). -/
structure WithdrawP where
  action : Byte := 0
  powerOff : Bool := false
  place : Place := 0
  rsv : Bool := false
  deriving DecidableEq, Repr

/-- TENANT_CREATE (Table 13.7). -/
structure TenantCreateP where
  vf : Nat := 0
  ranks : Nat := 1
  s : Nat := 0
  rsv : Bool := false
  deriving DecidableEq, Repr

/-- TENANT_SET_PLACES (Table 13.8); the lists are what was read at LIST and CERTS. -/
structure SetPlacesP where
  action : Byte := 0
  vf : Nat := 0
  count : Nat := 1
  places : List Place := []
  certs : List (Place × Cert) := []
  rsv : Bool := false
  deriving DecidableEq, Repr

/-- FW_STAGE (Table 13.17) with the image read at SOURCE. -/
structure FwStageP where
  kind : Nat := 0
  length : Nat := 0
  image : FwImage := {}
  rsv : Bool := false
  deriving DecidableEq, Repr

/-- FW_REBIND (Table 13.18). -/
structure FwRebindP where
  kind : Nat := 0
  advanceSvn : Bool := false
  nsec : Nat := 0
  sec : Nat := 0
  rsv : Bool := false
  deriving DecidableEq, Repr

/-- SPECIMEN_LOAD (Table 13.21) with the bundle read at SOURCE. -/
structure SpecimenLoadP where
  action : Byte := 0
  length : Nat := 0
  image : FwImage := {}
  rsv : Bool := false
  deriving DecidableEq, Repr

/-- COUNTERS_READ (Table 14.14). -/
structure CountersReadP where
  view : Byte := 0
  first : Nat := 0
  count : Nat := 1
  dest : Nat := 0
  rsv : Bool := false
  deriving DecidableEq, Repr

/-- MARGIN_READ (Table 14.15). -/
structure MarginReadP where
  kind : Byte := 0
  slot : Nat := 0
  index : Nat := 0
  first : Nat := 0
  count : Nat := 1
  dest : Nat := 0
  rsv : Bool := false
  deriving DecidableEq, Repr

/-- FLYLEAF_READ (Table 14.16). -/
structure FlyleafReadP where
  source : Byte := 0
  group : Byte := 0xFF
  firstSeq : Nat := 0
  count : Nat := 1
  dest : Nat := 0
  rsv : Bool := false
  deriving DecidableEq, Repr

/-- The packet header that COMMAND_FETCH checks (Table 13.3). -/
structure PacketHdr where
  opcode : W16 := 0
  tag : BitVec 11 := 0
  tenant : BitVec 10 := 0
  fence : Bool := false
  quiet : Bool := false
  early : Bool := false
  rsv : Bool := false
  deriving DecidableEq, Repr

/-- A Kettle operation of the management port's request frame (R278). -/
structure MgmtFrame where
  seq : W16 := 0
  args : List W32 := []
  op : Byte := 0
  token : Option Token := none
  deriving DecidableEq, Repr

/-- What ended an SPI NOR or NVMe operation. -/
inductive OpEnd where
  | ok | error (code : W16)
  deriving DecidableEq, Repr

/-- Host link events that reset HOSTn (R337, R400). -/
inductive HostLinkEvent where
  | linkDown | hotReset | perst
  deriving DecidableEq, Repr

/-- Storage link events (R339). -/
inductive StorEvent where
  | linkDown | surprise | timeout | trained
  | memWrite (addr : Nat) (bytes : List Byte)   -- the drive's own memory requests (R340)
  | memRead (addr len : Nat)
  deriving DecidableEq, Repr

/-- What makes the AON domain move control to the standby pair (R358). -/
inductive TakeoverCause where
  | lockstep | heartbeat | mgmtLimit
  deriving DecidableEq, Repr

/-- The commands of the block, one constructor per row of spec/opcode_table.json, in the table's order.
A received message is an operand; a timer row is the moment its time runs out. -/
inductive Instr where
  -- register writes, power-on and slot pins
  | registerWrite (src : Src) (off : Nat) (width : Nat) (val : W64)
  | adminPfWrite (pf : Fin 4) (val : W32)
  | placeCfgWrite (pf : Fin 4) (val : W32)
  | porstAssert
  | porstDeassert (geo : BitVec 5) (split : BitVec 2) (testMode : Bool) (railOrderOk : Bool)
  | geoTrayChange (geo : BitVec 5)
  | slotPrsntChange (slot : Fin 16) (level : Bool)
  | slotAlert (slot : Fin 16) (level : Bool)
  -- Collator core instructions and the mesh
  | scalarInstruction (core : Fin 512) (op : ScalarOp)
  | vectorInstruction (core : Fin 512) (op : VectorOp)
  | dcfg (core : Fin 512) (unit : Fin 2) (a : Fin 32)
  | dslice (core : Fin 512) (unit : Fin 2) (sa sb : Fin 4)
  | dmask (core : Fin 512) (unit : Fin 2) (a : Fin 32)
  | dpass (core : Fin 512) (unit : Fin 2) (x : Fin 128) (va vb : Fin 32) (d : Fin 32)
  | xaccPassAdd (core : Fin 512)
  | xclr (core : Fin 512) (x : Fin 128) (a : Fin 32)
  | xadd (core : Fin 512) (x : Fin 128) (a : Fin 32)
  | xld (core : Fin 512) (x : Fin 128) (a : Fin 32)
  | xst (core : Fin 512) (x : Fin 128) (a : Fin 32)
  | xmv (core : Fin 512) (x : Fin 128) (a d : Fin 32)
  | xrnd (core : Fin 512) (x : Fin 128) (a d : Fin 32)
  | xjudge (core : Fin 512) (x : Fin 128) (a b d : Fin 32)
  | xjudges (core : Fin 512) (x : Fin 128) (a b d : Fin 32)
  | send (core : Fin 512) (mbox : Fin 16) (flits1 : Fin 64) (a b : Fin 32)
  | crgrant (core : Fin 512) (mbox : Fin 16) (a b : Fin 32)
  | mbpop (core : Fin 512) (mbox : Fin 16) (d : Fin 32)
  | mbfree (core : Fin 512) (mbox : Fin 16)
  | mbcfg (core : Fin 512) (mbox : Fin 16) (a b : Fin 32)
  | evsig (core : Fin 512) (input : Fin 64) (a b : Fin 32)
  | waite (core : Fin 512) (a d : Fin 32)
  | take (core : Fin 512) (input : Fin 64) (d : Fin 32)
  | evrd (core : Fin 512) (input : Fin 64) (d : Fin 32)
  | evclr (core : Fin 512) (input : Fin 64)
  | timer (core : Fin 512) (a : Fin 32)
  | coreTimerExpiry (core : Fin 512)
  | dmard (core : Fin 512) (queue : Fin 8) (a b d : Fin 32)
  | dmardComplete (core : Fin 512) (queue : Fin 8)
  | fence (core : Fin 512)
  | ready (core : Fin 512)
  | tdone (core : Fin 512)
  | messageArrival (src dst : Fin 512) (mbox : Fin 16)
  | evsigArrival (src dst : Fin 512) (input : Fin 64)
  | creditReturn (sender receiver : Fin 512) (mbox : Fin 16)
  | tileCycleLimit (core : Fin 512)
  | sramEccError (core : Fin 512) (uncorrectable : Bool)
  | coreSpecimenComplete (core : Fin 512) (r : SpecOutcome)
  | colTrimWrite (pf : Fin 4) (row : Fin 16) (val : W32)
  | trimWithdrawTimeout (core : Fin 512)
  | colAutotrimWrite (pf : Fin 4) (row : Fin 16) (val : W32)
  | tileDispatch
  | collateProgramLoad (iss : Issuer) (p : ProgLoadP)
  | programReadyTimeout (slot : Fin 64)
  | slotDrainComplete (slot : Fin 64)
  -- sampling, records and verdicts
  | tapPost (slot : Fin 16) (err : HingeErr) (tag : W16) (desc : TapDesc)
  | cpl (slot : Fin 16) (err : HingeErr) (tag : W16) (offset : Nat) (status : BitVec 4) (data : List Byte)
  | mrdTimeout (slot : Fin 16) (tag : W16)
  | tileRecordReceived (slot : Fin 16) (hdr : TileHdr) (data : List Byte)
  | tileVoidReceived (slot : Fin 16) (v : TileVoid)
  | intervalCloseReceived (slot : Fin 16) (gathering : Nat)
  | verdictDeadline (tenant : Fin 1024) (gathering : Nat)
  | collatePolicySet (iss : Issuer) (p : PolicySetP)
  | collateVerdictRead (iss : Issuer) (p : VerdictReadP)
  -- Spine rings, rails and collectives
  | reservedCell (port : Fin 8) (frame : Bool)
  | census (port : Fin 8) (hdr : CellHdr) (map : BitVec 64) (epoch : W16)
  | fold (port : Fin 8) (c : GapCell)
  | unfold (port : Fin 8) (c : GapCell) (at' : Ns)
  | unfoldCleanTimer (hop : Fin 4)
  | unfoldAt (hop : Fin 4)
  | railGradeUpdate (port : Fin 8) (berE12 : Nat) (uncorrectable : Bool)
  | failover (port : Fin 8) (c : FailoverCell)
  | selftest (port : Fin 8) (hdr : CellHdr) (berE12 : Nat)
  | spForceOther (pf : Fin 4) (port : Fin 8)
  | spCtrlWrite (pf : Fin 4) (val : W32)
  | dualWindowExpiry (hop : Fin 4)
  | failbackTimer (hop : Fin 4)
  | failbackAt (hop : Fin 4)
  | reducePost (iss : Issuer) (p : ReducePostP)
  | reduce (port : Fin 8) (hdr : CellHdr) (b : RedBody)
  | reduceX (port : Fin 8) (hdr : CellHdr) (b : RedBody)
  | redTimeout (chan : BitVec 11) (round : Nat)
  | redWatchdog (chan : BitVec 11) (round : Nat)
  | barrierArm (iss : Issuer) (p : BarrierArmP)
  | barrier (port : Fin 8) (hdr : CellHdr) (b : BarBody)
  | barrierRelease (tenant : Fin 1024) (group : Fin 4)
  | sewVotePost (tenant : Fin 1024)
  | vote (port : Fin 8) (hdr : CellHdr) (b : VoteBody)
  | sewn (port : Fin 8) (hdr : CellHdr) (b : VoteBody)
  | sewVote (iss : Issuer) (p : SewVoteP)
  | broadcast (iss : Issuer) (p : BroadcastP)
  | bcast (port : Fin 8) (info : BcastInfo) (f : DataFrame)
  | bcastAck (port : Fin 8) (hdr : FrameHdr) (body : FrameBody)
  | bcastTimeout (stream : W32)
  -- spine time
  | stNsecRead (reader : TimeReader)
  | stLoad (pf : Fin 4) (val : W32)
  | stCancel (pf : Fin 4) (val : W32)
  | stBoundaryLoad
  | stIncrWrite (pf : Fin 4) (width : Nat) (val : W64)
  | stAdjWrite (pf : Fin 4) (val : W32)
  | slewComplete
  | syncInterval
  | sync (port : Fin 8) (hdr : CellHdr) (b : SyncBody) (t2 : Nat)
  | delayReq (port : Fin 8) (hdr : CellHdr) (t3 : Nat) (reqId : W16) (t4 : Nat)
  | delayResp (port : Fin 8) (hdr : CellHdr) (t4 : Nat) (reqId : W16)
  | holdoverLimit
  | timed (port : Fin 8) (hdr : CellHdr) (launch : Nat) (id : W16) (payload : BitVec 96) (arrival : Nat)
  | stTsqPop (pf : Fin 4)
  | stRxqPop (pf : Fin 4)
  | timeSet (iss : Issuer) (p : TimeSetP)
  | timeLaunch (iss : Issuer) (p : TimeLaunchP)
  | launchFire
  | syncInEdge (stamp : Nat)
  | ppsMiss
  | syncOutPulse
  | syncOutPulseEnd
  -- gathering
  | releaseMessage (slot : Fin 16) (r : ReleaseMsg)
  | fwReq (slot : Fin 16) (err : HingeErr) (tag : W16) (addr : Nat)
  | pagePushStart (slot : Fin 16)
  | pagePushReceived (slot : Fin 16) (stream : W16) (p : PagePush)
  | credit (slot : Fin 16) (c : CreditMsg)
  | pageDigested
  | digest (port : Fin 8) (hdr : FrameHdr) (payload : List Byte) (crc : W32)
  | digestTimeout (tenant : Fin 1024) (handle : W64)
  | gatherArm (iss : Issuer) (p : GatherArmP)
  | gatherStart (iss : Issuer) (p : GatherStartP)
  -- binding, sewing and restore
  | bindWrite (port : Fin 8) (f : DataFrame)
  | entriesSend (tenant : Fin 1024)
  | colophonTimeout (tenant : Fin 1024)
  | bindXferTimeout (stream : W32)
  | bindRead (port : Fin 8) (f : DataFrame)
  | bindData (port : Fin 8) (f : DataFrame)
  | bindReadTimeout (stream : W32)
  | bindingFree (tenant : Fin 1024) (gathering : Nat)
  | sew (iss : Issuer) (p : SewP)
  | bindRestore (iss : Issuer) (p : BindRestoreP)
  | written (slot : Fin 16) (w : WrittenMsg)
  | groupPushTimeout (slot : Fin 16) (handle : W64)
  | nvmeCompletion (drive : Fin 4) (res : OpEnd)
  | colophonRead (iss : Issuer) (p : ColophonReadP)
  -- the sentinel
  | sentinelPor (slot : Fin 16)
  | ucieLinkUp (slot : Fin 16) (width : BitVec 2) (rate : BitVec 3)
  | ucieLinkDown (slot : Fin 16)
  | declare (slot : Fin 16) (err : HingeErr) (tag : W16) (d : Declare)
  | arrive (slot : Fin 16) (err : HingeErr) (group : Fin 4) (round : W16)
  | heartbeat (slot : Fin 16) (err : HingeErr) (engine : Fin 256) (busy : Bool) (unit : BitVec 12) (progress : W32)
  | event (slot : Fin 16) (err : HingeErr) (engine : Fin 256) (code : Byte) (pc : W32) (arg : W32)
  | holdAck (slot : Fin 16) (err : HingeErr) (dieNs : W32)
  | trimAck (slot : Fin 16) (err : HingeErr) (unit : BitVec 12) (fence : Bool)
  | resetNote (slot : Fin 16) (err : HingeErr) (domain : Fin 64) (start : Bool)
  | wack (slot : Fin 16) (err : HingeErr) (tag : W16)
  | streamSegment (slot : Fin 16) (atGlt : Bool) (g : Segment)
  | streamTimeout (slot : Fin 16) (atGlt : Bool) (stream : W16)
  | streamAck (slot : Fin 16) (atGlt : Bool) (k : AckKind) (stream : W16)
  | hello (slot : Fin 16) (h : HelloMsg)
  | fwChunk (slot : Fin 16) (offset count : Nat) (bytes : List Byte)
  | policy (slot : Fin 16) (p : PolicyMsg)
  | holdAtMessage (slot : Fin 16) (t : Ns)
  | releaseAtMessage (slot : Fin 16) (t : Ns)
  | trimMessage (slot : Fin 16) (unit : BitVec 12) (fence : Bool)
  | domainMessage (slot : Fin 16) (domain : Fin 64) (assert : Bool)
  | note (slot : Fin 16) (n : NoteMsg)
  | report (slot : Fin 16) (r : ReportMsg)
  | regRd (slot : Fin 16) (off : Nat) (write : Option W32)
  | restorePushReceived (slot : Fin 16) (p : RestorePush)
  | sntHoldRaise (slot : Fin 16)
  | sntHoldLower (slot : Fin 16)
  | reachTimeout (slot : Fin 16)
  | holdOnLoss (slot : Fin 16)
  | sentinelTimeExchange (slot : Fin 16) (gltTime : Ns)
  | hangDetect (slot : Fin 16) (engine : Fin 256)
  | trimAckTimeout (slot : Fin 16) (unit : BitVec 12)
  | sentinelFwSwitch (slot : Fin 16)
  -- holds and reset domains
  | holdAt (iss : Issuer) (p : HoldAtP)
  | hold (port : Fin 8) (hdr : CellHdr) (b : HoldBody)
  | holdFire (tenant : Fin 1024)
  | mark (port : Fin 8) (hdr : CellHdr) (b : HoldBody)
  | cutTimeout (tenant : Fin 1024)
  | releaseAt (iss : Issuer) (p : ReleaseAtP)
  | release (port : Fin 8) (hdr : CellHdr) (b : HoldBody)
  | releaseFire (tenant : Fin 1024)
  | cancel (port : Fin 8) (hdr : CellHdr) (b : HoldBody)
  | holdReset (pf : Fin 4) (dom : Fin 49) (on : Bool)
  | pulse (pf : Fin 4) (dom : Fin 49)
  | readmit (pf : Fin 4) (dom : Fin 49)
  | domainResetAssert (dom : Fin 49)
  | domainResetComplete (dom : Fin 49)
  -- the Kettle path
  | identity (r : Route) (args : List W32) (tok : Option Token)
  | health (r : Route) (args : List W32) (tok : Option Token)
  | time (r : Route) (args : List W32) (tok : Option Token)
  | flyleafReadKettle (r : Route) (args : List W32) (tok : Option Token)
  | flyleafClearKettle (r : Route) (args : List W32) (tok : Option Token)
  | marginReadKettle (r : Route) (args : List W32) (tok : Option Token)
  | trim (r : Route) (args : List W32) (tok : Option Token)
  | slotPower (r : Route) (args : List W32) (tok : Option Token)
  | reset (r : Route) (args : List W32) (tok : Option Token)
  | kettleHold (r : Route) (args : List W32) (tok : Option Token)
  | kettleSentinelTimeout (r : Route)
  | mgmtPortFrame (f : MgmtFrame)
  | slotPowerOffStep (slot : Fin 16)
  -- suspects and recovery
  | reportCell (port : Fin 8) (hdr : CellHdr) (b : RepBody)
  | summary (port : Fin 8) (hdr : CellHdr) (b : RepBody)
  | mergeWindowClose (entry : Fin 4096)
  | probe (port : Fin 8) (hdr : CellHdr) (b : ProbeBody)
  | probeAck (port : Fin 8) (hdr : CellHdr) (b : ProbeBody)
  | probeTimeout (entry : Fin 4096)
  | srAge (entry : Fin 4096)
  | srClear (pf : Fin 4) (val : W32)
  | tetherLost (slot : Fin 16)
  | suspect (port : Fin 8) (hdr : CellHdr) (b : SuspectBody)
  | restored (port : Fin 8) (hdr : CellHdr) (tenant : Fin 1024) (status : Byte) (participant : Place)
  | restoreTimeout (tenant : Fin 1024)
  | failedVoteWait (tenant : Fin 1024)
  | trimUnit (iss : Issuer) (p : TrimUnitP)
  | tipIn (iss : Issuer) (p : TipInP)
  | withdraw (iss : Issuer) (p : WithdrawP)
  -- links, DDR and clocks
  | linkFrame (link : Fin 24) (f : LinkFrame)
  | replayTimeout (link : Fin 24)
  | linkFailed (link : Fin 24)
  | trainingComplete (link : Fin 24) (k : TrainKind) (ok : Bool) (rttNs : Nat)
  | train (link : Fin 24) (h : LcsHdr) (lanes : BitVec 4) (full : Bool)
  | laneBad (link : Fin 24) (lane : Fin 4)
  | widthReq (link : Fin 24) (h : LcsHdr) (width : BitVec 3) (good : BitVec 4)
  | widthGo (link : Fin 24) (h : LcsHdr) (lanes : BitVec 4) (atTime : Bool) (go : Nat)
  | laneSelftestClean (link : Fin 24) (lane : Fin 4)
  | widenAt (link : Fin 24)
  | retuneReq (link : Fin 24) (h : LcsHdr)
  | retuneGo (link : Fin 24) (h : LcsHdr) (t : Ns)
  | berWindow (link : Fin 24) (berE12 : Nat)
  | retrainSlot (link : Fin 24)
  | lkSlotMaxExpiry (link : Fin 24)
  | retune (pf : Fin 4) (link : Fin 24)
  | fullTrain (pf : Fin 4) (link : Fin 24)
  | laneReadmitWrite (pf : Fin 4) (link : Fin 24) (lanes : BitVec 4)
  | moduleFlag (port : Fin 8) (lane : Fin 4) (onLane : Bool)
  | ddrTempPoll (temps : List Int)
  | ddrChannelRetrain (ch : Fin 8) (ok : Bool)
  | ddrRetrainRetry (ch : Fin 8)
  | retrainNow (pf : Fin 4)
  | ddrUe (addr : Nat)
  | refAbsent (ref : Fin 3)
  | lockLoss (pll : Fin 12) (busyChannels : BitVec 8)
  | pllReady (pll : Fin 12)
  | pllFailed (pll : Fin 12)
  | ckPllWrite (pf : Fin 4) (pll : Fin 12) (val : W32)
  | driftWindow (dAB dAS dBS : Int)
  | driftMove (pll : Fin 12)
  | ckSscWrite (pf : Fin 4) (reg : Fin 2) (val : W32)
  | ckCpllFreqWrite (pf : Fin 4) (val : W32)
  -- host interface and firmware
  | hostLinkDown (link : Fin 4) (ev : HostLinkEvent)
  | flr (pf : Fin 4)
  | vfFlr (pf : Fin 4) (vf : Fin 257)
  | sriovChange (pf : Fin 4) (enabled : Bool) (numVfs : Fin 257)
  | storageLinkEvent (drive : Fin 4) (ev : StorEvent)
  | crSqTail (src : Src) (ring : Fin 16) (val : W32)
  | crCtrlWrite (src : Src) (ring : Fin 16) (val : W32)
  | crCqHead (src : Src) (ring : Fin 16) (val : W32)
  | commandFetch (src : Src) (ring : Fin 16) (p : PacketHdr)
  | commandReply (src : Src) (ring : Fin 16)
  | identify (iss : Issuer) (dest : Nat) (rsv : Bool)
  | tenantCreate (iss : Issuer) (p : TenantCreateP)
  | tenantDestroy (iss : Issuer) (rsv : Bool)
  | tenantSetPlaces (iss : Issuer) (p : SetPlacesP)
  | intPendWrite (pf : Fin 4) (val : W32)
  | intEnWrite (pf : Fin 4) (val : W32)
  | vfIntPendWrite (pf : Fin 4) (vf : Fin 257) (val : W32)
  | boot
  | lockstepTakeover (cause : TakeoverCause)
  | handoverCheckpoint
  | handoverComplete
  | fwStage (iss : Issuer) (p : FwStageP)
  | fwRebind (iss : Issuer) (p : FwRebindP)
  | rebindReadyDeadline
  | rebindTakeover
  | takeoverDeadline
  | fwTrialExpiry
  | clusterUcodeReload (cluster : Fin 16) (ok : Bool)
  | specimenLoad (iss : Issuer) (p : SpecimenLoadP)
  | specPeriod
  | accelSpecimenComplete (slot : Fin 16) (result : SpecResult)
  -- observation and the Flyleaf
  | countersRead (iss : Issuer) (p : CountersReadP)
  | marginRead (iss : Issuer) (p : MarginReadP)
  | flyleafRead (iss : Issuer) (p : FlyleafReadP)
  | flyleafClear (iss : Issuer) (tok : Token) (rsv : Bool)
  | summaryRecordTimer
  | mirrorPageProgram (res : OpEnd)
  | mirrorBlockErase (res : OpEnd)
  | flyleafScan
  | flSelHiWrite (pf : Fin 4) (val : W32)
  -- power
  | aonSwitch
  | preferAReturn
  | powerLoss
  | holdTest (droopMv : Nat)
  | selectAonInput (pf : Fin 4) (val : W32)
  | railExcursion (rail : Fin 10) (above : Bool)
  | thermalAlarm
  | throttleStep
  | unthrottleStep
  | thermalTrip
  | psSlotCtrlWrite (pf : Fin 4) (val : W32)
  | slotSequenceTimeout (slot : Fin 16)
  | modulePowerClass (port : Fin 8) (cls : Fin 9)
  | rcCounterRead (src : Src) (acc : Access) (sameCycle : BitVec 2)
  | sentinelPowerLoss (slot : Fin 16)
  | aonInputLow (b : Bool)
  | aonInputReturn (b : Bool)
  | aonHoldDepleted
  | referencePresent (ref : Fin 3)
  | crCoalExpiry (src : Src) (ring : Fin 16)
  | hostAerError (link : Fin 4) (uncorrectable : Bool)
  | sentinelThermal (slot : Fin 16) (diode : Fin 8) (reading : Int)
  | pairSelfTestComplete (passed : Bool)
  | standbyImageReady
  | spareClaim (tenant : Fin 1024) (slot : Fin 16) (failed : Place) (rank : Nat) (requester : Place)
  | placeListUpdate (tenant : Fin 1024) (rank : Nat) (place : Place)
  | restoreOrder (tenant : Fin 1024)
  deriving DecidableEq, Repr

end Sys2Proof
end

