-- ==== Sys2Proof/Decode.lean ====
section
/-!
DEFINITION. Decode.lean: the block takes commands and no encoded instruction.  No row of spec/opcode_table.json gives
bits to its command, so no word spells one.
-/

namespace Sys2Proof

/-- The command that a word spells by the table's bits: none, since the table gives no row any bits. -/
def decodeTableWord (_nbits _w : Nat) : Option Instr := none

end Sys2Proof
end

