-- ==== Sys2Proof/Config.lean ====
section
/-!
DEFINITION. Config.lean: what the manual leaves open.  Each opaque constant has no body: nothing in Lean can evaluate
it, so every statement holds for every value of it.
-/

namespace Sys2Proof.Config

/-- The k-th open value of a run, as a natural number; its reader reduces it to the width at hand.  The Block's
`freeCtr` names k, and each use takes the next one. -/
opaque freeNat : Nat → Nat

/-- The k-th open value of a run where a sign is possible. -/
opaque freeInt : Nat → Int

/-- The sentinel's sampling generator (R89): the k-th number that it draws under a seed. -/
opaque draw : BitVec 64 → Nat → Nat

/-- ECDSA P-384 over SHA-384 with the key of a slot (R75, R279, R357): 0 Llynend, 1-7 owner keys.  The manual gives no
key, so whether a signature verifies is open. -/
opaque signatureOk : Nat → List Byte → List Byte → Bool

/-- Whether a device certificate verifies against Llynend's device-certificate key in fuses (R350). -/
opaque certificateOk : List Byte → List Byte → Bool

/-- The device's own ECDSA P-384 signature over bytes (R215): its private key is open. -/
opaque deviceSign : List Byte → List Byte

/-- This GLT's own device certificate (Table 13.9), made with the device. -/
opaque deviceCert : List Byte

/-- The verification of a colophon's bytes by a participant with a key (R214). -/
opaque colophonOk : List Byte → List Byte → List Byte → Bool

/-- Where a scalar branch, jump or counted loop goes: the manual gives its signed field of 20 bits neither a base nor a unit
(Table 3.3). -/
opaque branchTarget : W32 → BitVec 20 → W32

/-- The value of an immediate of 10 bits whose highest bit is 1: Table 3.3 does not say whether it is signed. -/
opaque immHigh : BitVec 10 → W64

/-- A shift by the lane's width or more: operation code, width in bits, operand, amount. -/
opaque shiftOver : Nat → Nat → Nat → Nat → Nat

/-- Whether lane-wise minimum and maximum compare signed, and whether the lane-wise right shift is arithmetic. -/
opaque laneSigned : Bool
opaque laneShrArith : Bool

/-- What VCMP writes into a lane of so many bits for a predicate that holds or does not hold. -/
opaque cmpLane : Bool → Nat → Nat

/-- The payload and sign of the NaN that a float MIN or MAX gives (Table 5.7 says that the result is a NaN and gives no
bits), as a function of the two operands. -/
opaque minMaxNan : W64 → W64 → W64

/-- The trays of the system within a scope of BROADCAST beyond the rack of a place: no message of the manual tells a GLT which
trays other racks hold (R145, R153). -/
opaque traysIn : Nat → Place → List Place

/-- The bus addresses of a drive's submission and completion queues, which the GLT names and the manual does not give
(R224). -/
opaque nvmeSq : Nat → BitVec 64
opaque nvmeCq : Nat → BitVec 64

/-- Entries of the old edition that the crossings of a domain hold when it is reset: nothing in the manual says how many (R272). -/
opaque crossingHeld : Nat → Nat

/-- What an accelerator's sensor reads over the sideband (Table 9.8), in steps of 0.25 °C: the k-th open reading of sensor i. -/
opaque accelTemp : Nat → Nat → Int

/-- A register of ST_RXQ_ENTRY: ID, payload, launch stamp and arrival stamp of the oldest entry in seven registers, without a layout
(Table 6.5). -/
opaque rxqWord : W16 → BitVec 96 → Nat → Nat → Nat → W32

/-- What binding memory is fitted: 0, 1, 2 one DIMM per channel at 4,800, 5,600, 6,400 MT/s; 3, 4 two at 4,800, 5,600 MT/s (R323;
taken modulo 5). -/
opaque ddrFit : Nat

/-- The tile cycle limit that microcode carries for a slot 0-7, as wide as COL_SLOT_CYCLESs shows it; the manual does not say
where in the image (R76). -/
opaque ucodeLimit : List Byte → Nat → W32

/-- The expected verdict record of the core specimen that microcode has built in (R365). -/
opaque builtinSpecimen : List Byte → List Byte

end Sys2Proof.Config
end

