-- ==== Sys2Proof/Machine/Tab.lean ====
section
/-!
DEFINITION. Machine/Tab.lean: the operations on keyed tables and on byte memory, and the list helpers that several
chapters share.
-/

namespace Sys2Proof.Machine

/-- The record at index `k`: the reset value `d` where the table lists none. -/
def tabGet {α : Type} (d : α) : Tab α → Nat → α
  | [], _ => d
  | (i, x) :: r, k => if i = k then x else tabGet d r k

/-- Whether the table lists index `k`. -/
def tabHas {α : Type} : Tab α → Nat → Bool
  | [], _ => false
  | (i, _) :: r, k => i == k || tabHas r k

/-- Sets the record at index `k`, keeping the keys rising. -/
def tabPut {α : Type} : Tab α → Nat → α → Tab α
  | [], k, v => [(k, v)]
  | (i, x) :: r, k, v =>
    if k < i then (k, v) :: (i, x) :: r
    else if k = i then (k, v) :: r
    else (i, x) :: tabPut r k v

/-- Removes index `k`: it holds the record's reset value again. -/
def tabDel {α : Type} : Tab α → Nat → Tab α
  | [], _ => []
  | (i, x) :: r, k => if i = k then tabDel r k else (i, x) :: tabDel r k

/-- Applies `f` to the record at index `k`. -/
def tabMod {α : Type} (d : α) (t : Tab α) (k : Nat) (f : α → α) : Tab α := tabPut t k (f (tabGet d t k))

/-- The byte at an address: an unlisted address reads 0 (DESIGN CHOICE, log entry 3). -/
def memGet : Memory → Nat → Byte
  | [], _ => 0
  | (i, x) :: r, a => if i = a then x else memGet r a

/-- Removes an address from the listed bytes. -/
def memDrop : Memory → Nat → Memory
  | [], _ => []
  | (i, x) :: r, a => if i = a then r else (i, x) :: memDrop r a

/-- Lists an address with its byte, keeping the addresses rising. -/
def memIns : Memory → Nat → Byte → Memory
  | [], a, v => [(a, v)]
  | (i, x) :: r, a, v =>
    if a < i then (a, v) :: (i, x) :: r
    else if a = i then (a, v) :: r
    else (i, x) :: memIns r a v

/-- Writes one byte; a byte of 0 is not listed. -/
def memPut (m : Memory) (a : Nat) (v : Byte) : Memory := if v = 0 then memDrop m a else memIns m a v

/-- Writes bytes at rising addresses from `a`. -/
def memPutBytes (m : Memory) (a : Nat) : List Byte → Memory
  | [] => m
  | v :: r => memPutBytes (memPut m a v) (a + 1) r

/-- Reads `n` bytes from `a`. -/
def memGetBytes (m : Memory) (a : Nat) : Nat → List Byte
  | 0 => []
  | n + 1 => memGet m a :: memGetBytes m (a + 1) n

/-- The canonical form from a least admissible address: strictly rising, no byte equal to 0. -/
def memWfFrom : Nat → Memory → Bool
  | _, [] => true
  | lo, (i, x) :: r => decide (lo ≤ i) && x != 0 && memWfFrom (i + 1) r

/-- The canonical form of a byte memory. -/
def memWf (m : Memory) : Bool := memWfFrom 0 m

/-- `n` zero bytes. -/
def zeroBytes (n : Nat) : List Byte := List.replicate n 0

/-- A number as `n` little-endian bytes (R5). -/
def leBytes : Nat → Nat → List Byte
  | 0, _ => []
  | n + 1, v => BitVec.ofNat 8 v :: leBytes n (v / 256)

/-- The number that little-endian bytes spell (R5). -/
def leNat : List Byte → Nat
  | [] => 0
  | b :: r => b.toNat + 256 * leNat r

/-- The entry at a position of a list, or a default. -/
def nthD {α : Type} (d : α) (l : List α) (i : Nat) : α := (l[i]?).getD d

/-- Replaces the entry at a position. -/
def setNth {α : Type} : List α → Nat → α → List α
  | [], _, _ => []
  | _ :: r, 0, v => v :: r
  | x :: r, n + 1, v => x :: setNth r n v

/-- The entries that differ from `x`. -/
def without {α : Type} [DecidableEq α] (l : List α) (x : α) : List α := l.filter (fun y => decide (y ≠ x))

/-- Adds an entry that the list does not hold yet. -/
def withEntry {α : Type} [DecidableEq α] (l : List α) (x : α) : List α := if x ∈ l then l else l ++ [x]

/-- The numbers from `a`, `n` of them. -/
def upFrom (a : Nat) : Nat → List Nat
  | 0 => []
  | n + 1 => a :: upFrom (a + 1) n

/-- Folds a step over a list of items, first to last. -/
def foldOver {α β : Type} (f : β → α → β) : β → List α → β
  | b, [] => b
  | b, x :: r => foldOver f (f b x) r

/-- The positions of the set bits of a number, below `n`. -/
def setBits (n v : Nat) : List Nat := (upFrom 0 n).filter (fun i => v.testBit i)

/-- Sets or clears a bit of a bit vector. -/
def putBit {w : Nat} (v : BitVec w) (i : Nat) (on : Bool) : BitVec w :=
  if on then v ||| (BitVec.ofNat w (2 ^ i)) else v &&& ~~~(BitVec.ofNat w (2 ^ i))

/-- A field of `len` bits from bit `lo`. -/
def field {w : Nat} (v : BitVec w) (lo len : Nat) : Nat := (v.toNat >>> lo) % 2 ^ len

/-- 1 for true. -/
def bit (b : Bool) : Nat := if b then 1 else 0

/-- The greatest of a list, 0 for none. -/
def listMax : List Nat → Nat
  | [] => 0
  | x :: r => Nat.max x (listMax r)

/-- The least entry of a list. -/
def listMin? : List Nat → Option Nat
  | [] => none
  | x :: r => some ((listMin? r).elim x (Nat.min x))

/-- The sum of a list. -/
def listSum : List Nat → Nat
  | [] => 0
  | x :: r => x + listSum r

/-- Orders numbers from the least upward. -/
def insertNat (x : Nat) : List Nat → List Nat
  | [] => [x]
  | y :: r => if x ≤ y then x :: y :: r else y :: insertNat x r

def sortNat : List Nat → List Nat
  | [] => []
  | x :: r => insertNat x (sortNat r)

end Sys2Proof.Machine
end

