-- ==== Sys2Proof/Machine/Bits.lean ====
section
/-!
DEFINITION. Machine/Bits.lean: the check codes, the digest and the field arithmetic that the manual names: CRC-32C,
CRC-64 of the block seal, SHA-256 and GF(2⁸).
-/

namespace Sys2Proof.Machine

/-- Eight steps of a reflected CRC-32 register. -/
def crc32Step (poly : W32) : Nat → W32 → W32
  | 0, c => c
  | n + 1, c => crc32Step poly n (if c.getLsbD 0 then (c >>> 1) ^^^ poly else c >>> 1)

def crc32Run (poly : W32) : W32 → List Byte → W32
  | c, [] => c
  | c, b :: r => crc32Run poly (crc32Step poly 8 (c ^^^ b.setWidth 32)) r

/-- CRC-32C (Castagnoli): reflected polynomial 0x82F63B78, all ones at the start and inverted at the end. -/
def crc32c (l : List Byte) : W32 := crc32Run 0x82F63B78 0xFFFFFFFF l ^^^ 0xFFFFFFFF

/-- Eight steps of a CRC-16 register, the highest bit first. -/
def crc16Step : Nat → W16 → W16
  | 0, c => c
  | n + 1, c => crc16Step n (if c.getLsbD 15 then (c <<< 1) ^^^ 0x1021 else c <<< 1)

/-- CRC-16 of a link control set: polynomial 0x1021, all ones at the start (Table 12.4). -/
def crc16 (l : List Byte) : W16 := foldOver (fun (c : W16) (x : Byte) => crc16Step 8 (c ^^^ (BitVec.setWidth 16 x <<< (8 : Nat)))) 0xFFFF l

def crc64Step (poly : W64) : Nat → W64 → W64
  | 0, c => c
  | n + 1, c => crc64Step poly n (if c.getLsbD 0 then (c >>> 1) ^^^ poly else c >>> 1)

def crc64Run (poly : W64) : W64 → List Byte → W64
  | c, [] => c
  | c, b :: r => crc64Run poly (crc64Step poly 8 (c ^^^ b.setWidth 64)) r

/-- The greatest number of at most `bits` further bits above `r` whose `e`-th power does not exceed `n`. -/
def rootFrom (e n : Nat) : Nat → Nat → Nat
  | 0, r => r
  | bits + 1, r => rootFrom e n bits (if (r + 2 ^ bits) ^ e ≤ n then r + 2 ^ bits else r)

/-- The primes below 312, of which there are 64: no number from 2 to 17 divides them but itself. -/
def primes64 : List Nat := (upFrom 2 310).filter fun p => (upFrom 2 16).all fun d => p % d != 0 || p == d

/-- The first 32 bits of the fraction of a prime's `e`-th root: SHA-256 takes its constants from them (PRESUMED: FIPS 180-4
defines the SHA-256 that the manual names). -/
def rootFraction (e p : Nat) : Nat := rootFrom e (p * 2 ^ (32 * e)) 40 0 % 2 ^ 32

/-- The constant of each of the 64 rounds, from the cube roots. -/
def shaK : List Nat := primes64.map (rootFraction 3)

/-- The value that hashing starts with, from the square roots of the first eight primes. -/
def shaH0 : List W32 := (primes64.take 8).map fun p => BitVec.ofNat 32 (rootFraction 2 p)

def shaW0 (x : W32) : W32 := x.rotateRight 7 ^^^ x.rotateRight 18 ^^^ (x >>> 3)
def shaW1 (x : W32) : W32 := x.rotateRight 17 ^^^ x.rotateRight 19 ^^^ (x >>> 10)
def shaS0 (x : W32) : W32 := x.rotateRight 2 ^^^ x.rotateRight 13 ^^^ x.rotateRight 22
def shaS1 (x : W32) : W32 := x.rotateRight 6 ^^^ x.rotateRight 11 ^^^ x.rotateRight 25

/-- The 16-word window of the message schedule, one word on. -/
def shaSlide (w : List W32) : List W32 :=
  w.drop 1 ++ [shaW1 (nthD 0 w 14) + nthD 0 w 9 + shaW0 (nthD 0 w 1) + nthD 0 w 0]

def shaRound (h : List W32) (k w : W32) : List W32 :=
  let a := nthD 0 h 0; let b := nthD 0 h 1; let c := nthD 0 h 2; let d := nthD 0 h 3
  let e := nthD 0 h 4; let f := nthD 0 h 5; let g := nthD 0 h 6; let hh := nthD 0 h 7
  let t1 := hh + shaS1 e + ((e &&& f) ^^^ (~~~e &&& g)) + k + w
  let t2 := shaS0 a + ((a &&& b) ^^^ (a &&& c) ^^^ (b &&& c))
  [t1 + t2, a, b, c, d + t1, e, f, g]

def shaRounds : List Nat → List W32 → List W32 → List W32
  | [], h, _ => h
  | k :: r, h, w => shaRounds r (shaRound h (BitVec.ofNat 32 k) (nthD 0 w 0)) (shaSlide w)

/-- Sixteen big-endian words of a block of 64 bytes. -/
def shaWords : Nat → List Byte → List W32
  | 0, _ => []
  | n + 1, l =>
    BitVec.ofNat 32 ((nthD 0 l 0).toNat * 16777216 + (nthD 0 l 1).toNat * 65536 + (nthD 0 l 2).toNat * 256 +
      (nthD 0 l 3).toNat) :: shaWords n (l.drop 4)

def shaBlocks : Nat → List W32 → List Byte → List W32
  | 0, h, _ => h
  | n + 1, h, l => shaBlocks n (List.zipWith (· + ·) h (shaRounds shaK h (shaWords 16 l))) (l.drop 64)

/-- The message with its padding: one bit, zeros, and the bit length in 8 big-endian bytes. -/
def shaPad (l : List Byte) : List Byte :=
  l ++ [0x80] ++ zeroBytes ((119 - l.length % 64) % 64) ++ (leBytes 8 (8 * l.length)).reverse

/-- The SHA-256 digest of bytes, its first byte in bits [255:248]. -/
def sha256 (l : List Byte) : BitVec 256 :=
  let p := shaPad l
  BitVec.ofNat 256 (foldOver (fun a (w : W32) => a * 4294967296 + w.toNat) 0 (shaBlocks (p.length / 64) shaH0 p))

/-- A digest as 32 bytes, first byte first. -/
def digestBytes (d : BitVec 256) : List Byte := (leBytes 32 d.toNat).reverse

/-- Multiplication in GF(2⁸) modulo x⁸+x⁴+x³+x²+1 (0x11D). -/
def gfMulAux : Nat → Byte → Byte → Byte
  | 0, _, _ => 0
  | n + 1, a, b =>
    (if b.getLsbD 0 then a else 0) ^^^
      gfMulAux n (if a.getLsbD 7 then (a <<< 1) ^^^ 0x1D else a <<< 1) (b >>> 1)

def gfMul (a b : Byte) : Byte := gfMulAux 8 a b

def gfPow (a : Byte) : Nat → Byte
  | 0 => 1
  | n + 1 => gfMul a (gfPow a n)

/-- The inverse of a non-zero element: its 254th power. -/
def gfInv (a : Byte) : Byte := gfPow a 254

end Sys2Proof.Machine
end

