-- ==== Sys2Proof/Machine/Arith.lean ====
section
/-!
DEFINITION. Machine/Arith.lean: the exact arithmetic of the Collator (chapter 2): input decoding, rounding into the
formats of Table 2.4, the DPU-32 pass, the exact accumulator's adds, and the element judgements.
-/

namespace Sys2Proof.Machine

/-- A decoded number: a NaN, an infinity, or (−1)^neg · sig · 2^e with its sign kept on zero (R30). -/
inductive Fp where
  | nan
  | inf (neg : Bool)
  | fin (neg : Bool) (sig : Nat) (e : Int)
  deriving DecidableEq, Repr

/-! ## Exact values -/

/-- 2^k for a non-negative exponent, 1 otherwise. -/
def pow2 (k : Int) : Nat := 2 ^ k.toNat

/-- An exact value m · 2^e. -/
structure Dy where
  m : Int := 0
  e : Int := 0
  deriving DecidableEq, Repr

def dyAdd (a b : Dy) : Dy :=
  if a.e ≤ b.e then { m := a.m + b.m * pow2 (b.e - a.e), e := a.e }
  else { m := a.m * pow2 (a.e - b.e) + b.m, e := b.e }
def dyNeg (a : Dy) : Dy := { a with m := -a.m }
def dySub (a b : Dy) : Dy := dyAdd a (dyNeg b)
def dyMul (a b : Dy) : Dy := { m := a.m * b.m, e := a.e + b.e }
def dyAbs (a : Dy) : Dy := { a with m := a.m.natAbs }
def dyLe (a b : Dy) : Bool := decide ((dySub b a).m ≥ 0)
def dyLt (a b : Dy) : Bool := decide ((dySub b a).m > 0)
def dyEq (a b : Dy) : Bool := decide ((dySub b a).m = 0)
def dyPow (k : Int) : Dy := { m := 1, e := k }
def dyNat (n : Nat) : Dy := { m := n, e := 0 }

/-- The value of a finite number; NaN and infinities have none and give 0. -/
def fpDy : Fp → Dy
  | .nan => {}
  | .inf _ => {}
  | .fin n s e => { m := if n then -(s : Int) else s, e := e }

/-- A finite number with its value; an exact zero takes the sign given. -/
def dyFp (a : Dy) (zeroNeg : Bool) : Fp :=
  if a.m = 0 then .fin zeroNeg 0 a.e else .fin (decide (a.m < 0)) a.m.natAbs a.e

/-- Position of the highest set bit, 0 for 0. -/
def msb (n : Nat) : Nat := Nat.log2 n

/-! ## Input formats (Table 2.1) -/

/-- Whether a code of Table 2.1 is assigned. -/
def inFmtOk (c : Nat) : Bool := c ≤ 5 || (8 ≤ c && c ≤ 0xD)
def isMx (c : Nat) : Bool := 8 ≤ c && c ≤ 0xD
/-- Slices of a format's significand. -/
def inSlices (c : Nat) : Nat := if c = 4 then 2 else if c = 5 then 3 else 1
/-- R31: the permitted pairings. -/
def pairOk (a b : Nat) : Bool :=
  inFmtOk a && inFmtOk b && ((a == 0) == (b == 0)) && (isMx a == isMx b)

/-- Decodes an IEEE-like field layout; `special` 0 none, 1 IEEE 754, 2 the E4M3 NaN only. -/
def decodeFloat (ew mw bias special : Nat) (daz : Bool) (bits : Nat) : Fp :=
  let neg := bits.testBit (ew + mw)
  let ex := bits / 2 ^ mw % 2 ^ ew
  let mant := bits % 2 ^ mw
  if special = 1 ∧ ex = 2 ^ ew - 1 then (if mant = 0 then .inf neg else .nan)
  else if special = 2 ∧ ex = 2 ^ ew - 1 ∧ mant = 2 ^ mw - 1 then .nan
  else if ex = 0 then .fin neg (if daz then 0 else mant) (1 - (bias : Int) - mw)
  else .fin neg (2 ^ mw + mant) ((ex : Int) - bias - mw)

/-- Two's complement of 8 bits as sign and magnitude. -/
def decodeInt8 (e : Int) (bits : Nat) : Fp :=
  let v := bits % 256
  if v < 128 then .fin false v e else .fin true (256 - v) e

/-- Decodes an input element exactly (R30, R417). -/
def decodeIn (code : Nat) (daz : Bool) (bits : Nat) : Fp :=
  if code = 0 then decodeInt8 0 bits
  else if code = 1 ∨ code = 8 then decodeFloat 4 3 7 2 daz (bits % 256)
  else if code = 2 ∨ code = 9 then decodeFloat 5 2 15 1 daz (bits % 256)
  else if code = 3 then decodeFloat 8 7 127 1 daz (bits % 2 ^ 16)
  else if code = 4 then decodeFloat 5 10 15 1 daz (bits % 2 ^ 16)
  else if code = 5 then decodeFloat 8 23 127 1 daz (bits % 2 ^ 32)
  else if code = 0xA then decodeFloat 3 2 3 0 daz (bits % 64)
  else if code = 0xB then decodeFloat 2 3 1 0 daz (bits % 64)
  else if code = 0xC then decodeFloat 2 1 1 0 daz (bits % 16)
  else decodeInt8 (-6) bits

/-! ## Formats of Table 2.4 -/

/-- A binary format: significand bits, exponent of the smallest normal, the largest finite value's significand and
exponent, whether it holds infinities, and the widths of its fields. -/
structure FFmt where
  p : Nat := 24
  emin : Int := -126
  maxSig : Nat := 2 ^ 24 - 1
  maxExp : Int := 104
  hasInf : Bool := true
  ew : Nat := 8
  bias : Nat := 127
  deriving DecidableEq, Repr

def fmtB32 : FFmt := {}
def fmtBf16 : FFmt := { p := 8, maxSig := 255, maxExp := 120 }
def fmtB16 : FFmt := { p := 11, emin := -14, maxSig := 2047, maxExp := 5, ew := 5, bias := 15 }
def fmtB64 : FFmt := { p := 53, emin := -1022, maxSig := 2 ^ 53 - 1, maxExp := 971, ew := 11, bias := 1023 }
def fmtFloatP (p : Nat) : FFmt := { p := p, maxSig := 2 ^ p - 1, maxExp := 128 - (p : Int) }
def fmtE4M3 : FFmt := { p := 4, emin := -6, maxSig := 14, maxExp := 5, hasInf := false, ew := 4, bias := 7 }
def fmtE5M2 : FFmt := { p := 3, emin := -14, maxSig := 7, maxExp := 13, ew := 5, bias := 15 }

/-- The binary format of a code of Table 2.4; codes 5 and 6 are the INT32 formats and have none. -/
def fmtOf (code p : Nat) : Option FFmt :=
  if code = 0 then some fmtB32 else if code = 1 then some fmtBf16 else if code = 2 then some fmtB16
  else if code = 3 then some fmtB64 else if code = 4 then some (fmtFloatP p)
  else if code = 7 then some fmtE4M3 else if code = 8 then some fmtE5M2 else none

def isInt32 (code : Nat) : Bool := code == 5 || code == 6

/-- Rounds sig · 2^(−k) to an integer; `rnd` is a code of Table 2.5 with 5 not provided. -/
def roundShift (rnd : Nat) (neg : Bool) (sig k : Nat) : Nat :=
  let fl := sig / 2 ^ k
  let r := sig % 2 ^ k
  let half := 2 ^ k / 2
  if r = 0 then fl
  else if rnd = 0 then (if r > half ∨ (r = half ∧ fl % 2 = 1) then fl + 1 else fl)
  else if rnd = 1 then (if r ≥ half then fl + 1 else fl)
  else if rnd = 3 then (if neg then fl else fl + 1)
  else if rnd = 4 then (if neg then fl + 1 else fl)
  else fl

/-- Rounds sig · 2^e onto multiples of 2^q. -/
def roundAt (rnd : Nat) (neg : Bool) (sig : Nat) (e q : Int) : Nat :=
  if e ≥ q then sig * pow2 (e - q) else roundShift rnd neg sig (q - e).toNat

/-- What an overflow gives (Table 2.3, OUT_SAT). -/
def overflowed (f : FFmt) (rnd : Nat) (sat neg : Bool) : Fp :=
  let big : Fp := .fin neg f.maxSig f.maxExp
  if sat then big
  else if rnd = 2 ∨ (rnd = 3 ∧ neg) ∨ (rnd = 4 ∧ ¬ neg) then big
  else if f.hasInf then .inf neg else .nan

/-- Rounds a finite non-zero value into a binary format under IEEE 754, FTZ (R417) and saturation. -/
def roundFin (f : FFmt) (rnd : Nat) (ftz sat neg : Bool) (sig : Nat) (e : Int) : Fp :=
  let top : Int := e + msb sig
  let qFree := top - ((f.p : Int) - 1)
  let free := roundAt rnd neg sig e qFree
  if ftz ∧ dyLt { m := free, e := qFree } (dyPow f.emin) then .fin neg 0 0
  else
    let q := max qFree (f.emin - ((f.p : Int) - 1))
    let r := roundAt rnd neg sig e q
    if dyLt { m := f.maxSig, e := f.maxExp } { m := r, e := q } then overflowed f rnd sat neg
    else .fin neg r q

/-- Rounds any number into a binary format; a zero keeps its sign. -/
def roundFp (f : FFmt) (rnd : Nat) (ftz sat : Bool) : Fp → Fp
  | .nan => .nan
  | .inf n => if f.hasInf then .inf n else if sat then .fin n f.maxSig f.maxExp else .nan
  | .fin n s e => if s = 0 then .fin n 0 0 else roundFin f rnd ftz sat n s e

/-- Rounds into binary64 upward (R44). -/
def up64 (a : Dy) : Fp := roundFp fmtB64 3 false false (dyFp a false)
/-- Rounds into binary64 downward. -/
def down64 (a : Dy) : Fp := roundFp fmtB64 4 false false (dyFp a false)

/-! ## Encodings -/

/-- Encodes a number of the format; `nanBits` supplies a NaN's payload, which the manual leaves open. -/
def encodeFloat (f : FFmt) (nanBits : Nat) : Fp → Nat
  | .nan =>
    let mw := f.p - 1
    if f.hasInf then (2 ^ f.ew - 1) * 2 ^ mw + 2 ^ (mw - 1) + nanBits % 2 ^ (mw - 1)
    else 2 ^ (f.ew + mw) - 1
  | .inf n => bit n * 2 ^ (f.ew + f.p - 1) + (2 ^ f.ew - 1) * 2 ^ (f.p - 1)
  | .fin n s e =>
    let mw := f.p - 1
    let sb := bit n * 2 ^ (f.ew + mw)
    if s = 0 then sb
    else
      let q := f.emin - (mw : Int)
      let top : Int := e + msb s
      if top < f.emin then sb + s * pow2 (e - q) / pow2 (q - e)
      else
        let sig := s * pow2 (e - (top - mw)) / pow2 (top - mw - e)
        sb + (top + f.bias).toNat * 2 ^ mw + (sig - 2 ^ mw)

/-- Decodes an encoding of the format. -/
def decodeFmt (f : FFmt) (bits : Nat) : Fp :=
  decodeFloat f.ew (f.p - 1) f.bias (if f.hasInf then 1 else 2) false bits

/-- Decodes binary64 bits. -/
def fromB64 (w : W64) : Fp := decodeFmt fmtB64 w.toNat
/-- Encodes binary64 bits; the numbers MAG and TAIL hold are never NaN. -/
def toB64 (x : Fp) : W64 := BitVec.ofNat 64 (encodeFloat fmtB64 0 x)

/-- Bytes of an element of a stored format of Table 2.4. -/
def outBytes (code : Nat) : Nat :=
  if code = 3 then 8 else if code = 1 ∨ code = 2 then 2 else if code = 7 ∨ code = 8 then 1 else 4

/-- A signed 32-bit integer's value. -/
def int32Val (bits : Nat) : Int := (BitVec.ofNat 32 bits).toInt

/-- Decodes an element of OUT_FMT or of C (Table 2.4). -/
def decodeOut (code : Nat) (bits : Nat) : Fp :=
  if isInt32 code then dyFp { m := int32Val bits, e := 0 } false
  else if code = 4 then fromB64 (BitVec.ofNat 64 bits)
  else match fmtOf code 24 with
    | some f => decodeFmt f bits
    | none => .nan

/-! ## Integer results (R46) -/

/-- Reduces modulo 2³² into two's complement, or clamps (codes 0x5 and 0x6). -/
def intFit (code : Nat) (v : Int) : Int :=
  if code = 6 then max (-(2 ^ 31)) (min (2 ^ 31 - 1) v) else (BitVec.ofInt 32 v).toInt

/-- An exact value rounded to an integer. -/
def toInteger (rnd : Nat) (a : Dy) : Int :=
  let neg := decide (a.m < 0)
  let r := roundAt rnd neg a.m.natAbs a.e 0
  if neg then -(r : Int) else r

/-- A number rounded into an INT32 format; NaN, and an infinity under wrapping, have no value (R46). -/
def roundInt (code rnd : Nat) : Fp → Option Int
  | .nan => none
  | .inf n => if code = 6 then some (if n then -(2 ^ 31) else 2 ^ 31 - 1) else none
  | .fin n s e => some (intFit code (toInteger rnd (fpDy (.fin n s e))))

/-- Rounds into any format of Table 2.4. -/
def roundTo (code p rnd : Nat) (ftz sat : Bool) (x : Fp) : Fp :=
  match fmtOf code p with
  | some f => roundFp f rnd ftz sat x
  | none =>
    match roundInt code rnd x with
    | some v => dyFp { m := v, e := 0 } false
    | none => .nan

/-- Encodes into a stored format of Table 2.4; FLOAT_P has no stored encoding and stands in a binary64 container.  Where an
INT32 format holds no value of the number (R46: a NaN, or an infinity that wraps) the bits are open: `nanBits` supplies them
(log entry 152). -/
def encodeOut (code : Nat) (nanBits : Nat) (x : Fp) : Nat :=
  if isInt32 code then
    match roundInt code 2 x with
    | some v => (BitVec.ofInt 32 v).toNat
    | none => nanBits % 2 ^ 32
  else if code = 4 then encodeFloat fmtB64 nanBits x
  else match fmtOf code 24 with
    | some f => encodeFloat f nanBits x
    | none => 0

/-! ## Arithmetic of the vector unit (R57) -/

def fpNeg : Fp → Fp
  | .nan => .nan
  | .inf n => .inf !n
  | .fin n s e => .fin (!n) s e

/-- The exact sum with IEEE 754's specials; an exact zero from operands of unlike sign is −0 only under RD. -/
def fpAddExact (rnd : Nat) : Fp → Fp → Fp
  | .nan, _ => .nan
  | _, .nan => .nan
  | .inf a, .inf c => if a = c then .inf a else .nan
  | .inf a, .fin _ _ _ => .inf a
  | .fin _ _ _, .inf c => .inf c
  | .fin a s e, .fin c t f =>
    dyFp (dyAdd (fpDy (.fin a s e)) (fpDy (.fin c t f)))
      (if s = 0 ∧ t = 0 ∧ a = c then a else decide (rnd = 4))

def fpAdd (f : FFmt) (rnd : Nat) (ftz : Bool) (a c : Fp) : Fp := roundFp f rnd ftz false (fpAddExact rnd a c)

def fpMulExact : Fp → Fp → Fp
  | .nan, _ => .nan
  | _, .nan => .nan
  | .inf a, .inf c => .inf (a != c)
  | .inf a, .fin c t _ => if t = 0 then .nan else .inf (a != c)
  | .fin a s _, .inf c => if s = 0 then .nan else .inf (a != c)
  | .fin a s e, .fin c t f => .fin (a != c) (s * t) (e + f)

def fpMul (f : FFmt) (rnd : Nat) (ftz : Bool) (a c : Fp) : Fp := roundFp f rnd ftz false (fpMulExact a c)
def fpFma (f : FFmt) (rnd : Nat) (ftz : Bool) (a c d : Fp) : Fp :=
  roundFp f rnd ftz false (fpAddExact rnd (fpMulExact a c) d)

/-- Comparison: less, equal, greater or unordered. -/
inductive FpOrd where
  | lt | eq | gt | un
  deriving DecidableEq, Repr

def fpCmp : Fp → Fp → FpOrd
  | .nan, _ => .un
  | _, .nan => .un
  | .inf a, .inf c => if a = c then .eq else if a then .lt else .gt
  | .inf a, .fin _ _ _ => if a then .lt else .gt
  | .fin _ _ _, .inf c => if c then .gt else .lt
  | .fin a s e, .fin c t f =>
    let x := fpDy (.fin a s e); let y := fpDy (.fin c t f)
    if dyEq x y then .eq else if dyLt x y then .lt else .gt

/-- x ≤ y on numbers that are not NaN. -/
def fpLe (x y : Fp) : Bool := fpCmp x y == .lt || fpCmp x y == .eq

/-! ## The DPU-32 pass (R33-R35, R39) -/

/-- One lane after decoding: the two elements with their slices chosen. -/
structure LaneIn where
  a : Fp := .fin false 0 0
  b : Fp := .fin false 0 0
  deriving DecidableEq, Repr

/-- What a pass hands to the XACC. -/
structure PassOut where
  sum : Int := 0
  l : Int := 0
  lost : Nat := 0
  mag : W64 := 0
  nan : Bool := false
  pinf : Bool := false
  ninf : Bool := false
  any : Bool := false
  allNegZ : Bool := false
  count : Nat := 0
  deriving DecidableEq, Repr

def isZeroFp : Fp → Bool
  | .fin _ s _ => s == 0
  | .nan => false
  | .inf _ => false

/-- A lane's slice product: sign, product and weight exponent; none for a special or a zero product. -/
def laneProd (sa sb : Nat) (scale : Int) (x : LaneIn) : Option (Bool × Nat × Int) :=
  match x.a, x.b with
  | .fin na s e, .fin nb t f =>
    let p := (s / 2 ^ (8 * sa) % 256) * (t / 2 ^ (8 * sb) % 256)
    if p = 0 then none else some (na != nb, p, e + f + 8 * sa + 8 * sb + scale)
  | _, _ => none

/-- The special-value flags of a lane (R39): NaN, +infinity, −infinity. -/
def laneSpecial (x : LaneIn) : Bool × Bool × Bool :=
  match fpMulExact x.a x.b with
  | .nan => (true, false, false)
  | .inf n => (false, !n, n)
  | .fin _ _ _ => (false, false, false)

/-- Whether the element product is −0 (R40). -/
def laneNegZero (x : LaneIn) : Bool :=
  match fpMulExact x.a x.b with
  | .fin n s _ => n && s == 0
  | .nan => false
  | .inf _ => false

/-- One pass over its live lanes.  DESIGN CHOICE (log entry 152): lanes that DMASK masks are left out, so that they count as no
product in ANY, ALLNEGZ and COUNT and take no NaN scale; `first` says whether this is the slice pair that counts its element
products, which is slices 0 and 0. -/
def dpuPass (sa sb : Nat) (scale : Int) (scaleNan first : Bool) (lanes : List LaneIn) : PassOut :=
  let ls := if scaleNan then lanes.map fun _ => ({ a := .nan, b := .nan } : LaneIn) else lanes
  let prods := ls.filterMap (laneProd sa sb scale)
  let tops := prods.map fun (_, p, q) => q + (msb p : Int)
  let flags := ls.map laneSpecial
  let base : PassOut :=
    { nan := flags.any fun f => f.1, pinf := flags.any fun f => f.2.1, ninf := flags.any fun f => f.2.2,
      any := !ls.isEmpty, allNegZ := ls.all laneNegZero, count := if first then ls.length else 0 }
  match tops with
  | [] => base
  | t0 :: tr =>
    let l := foldOver max t0 tr - 41
    let sum := foldOver (fun acc ((n, p, q) : Bool × Nat × Int) =>
      let v : Int := if q ≥ l then (p : Int) * pow2 (q - l) else ((p / pow2 (l - q) : Nat) : Int)
      if n then acc - v else acc + v) 0 prods
    let lost := (prods.filter fun (_, p, q) => decide (q < l) && p % pow2 (l - q) != 0).length
    let mag := foldOver (fun acc ((_, p, q) : Bool × Nat × Int) => dyAdd acc { m := p, e := q }) ({} : Dy) prods
    { base with sum := sum, l := l, lost := lost, mag := toB64 (up64 mag) }

/-! ## The exact accumulator (R37) -/

/-- The exact accumulator of Table 2.2 as numbers. -/
def vMin : Int := -(2 ^ 255)
def vMax : Int := 2 ^ 255 - 1

/-- Adds two non-negative binary64 numbers, rounding upward. -/
def addUp64 (a c : W64) : W64 :=
  match fromB64 a, fromB64 c with
  | .fin n s e, .fin m t f => toB64 (up64 (dyAdd (fpDy (.fin n s e)) (fpDy (.fin m t f))))
  | x, y => toB64 (fpAddExact 3 x y)

/-- S · 2^L as a multiple of 2^BASE, truncated toward zero, and whether a bit was lost. -/
def shiftIn (s l base : Int) : Int × Bool :=
  if l ≥ base then (s * pow2 (l - base), false)
  else
    let k := pow2 (base - l)
    let t : Int := Int.ofNat (s.natAbs / k)
    (if s < 0 then -t else t, s.natAbs % k != 0)

/-- The value 2^k as binary64, rounded upward. -/
def pow64 (k : Int) : W64 := toB64 (up64 (dyPow k))

/-! ## Element judgement (R43-R51) -/

/-- An accumulation descriptor's fields (Table 2.3). -/
structure AccDesc where
  accFmt : Nat := 0
  chunkFmt : Nat := 0
  pAcc : Nat := 0
  pChunk : Nat := 0
  accRnd : Nat := 0
  chunkRnd : Nat := 0
  tree : Nat := 0
  groupExact : Bool := false
  rsv : Nat := 0
  chunkK : Nat := 0
  radix : Nat := 0
  cinit : Nat := 0
  outFmt : Nat := 0
  outRnd : Nat := 0
  outSat : Bool := false
  daz : Bool := false
  ftz : Bool := false
  zeroAny : Bool := false
  strictCap : Bool := false
  deriving DecidableEq, Repr

/-- Reads an accumulation descriptor (Table 2.3). -/
def readAcc (w : W64) : AccDesc :=
  { accFmt := field w 0 4, chunkFmt := field w 4 4, pAcc := field w 8 6, pChunk := field w 14 6,
    accRnd := field w 20 3, chunkRnd := field w 23 3, tree := field w 26 2, groupExact := w.getLsbD 28,
    rsv := field w 29 3, chunkK := field w 32 12, radix := field w 44 6, cinit := field w 50 2,
    outFmt := field w 52 4, outRnd := field w 56 3, outSat := w.getLsbD 59, daz := w.getLsbD 60,
    ftz := w.getLsbD 61, zeroAny := w.getLsbD 62, strictCap := w.getLsbD 63 }

def nearest (rnd : Nat) : Bool := rnd ≤ 1

/-- u of Table 2.6 as −log₂ u; none for the INT32 formats, whose u is 0. -/
def uLog (code p rnd : Nat) : Option Int :=
  match fmtOf code p with
  | none => none
  | some f => some (if nearest rnd then f.p else (f.p : Int) - 1)

/-- μ of Table 2.6, or λ with FTZ, as its log₂; none for INT32. -/
def muLog (code p rnd : Nat) (ftz : Bool) : Option Int :=
  match fmtOf code p with
  | none => none
  | some f => some (if ftz then f.emin else if nearest rnd then f.emin - f.p else f.emin - f.p + 1)

/-- u of an element: the larger of the two unit roundoffs, as −log₂; none when both are 0. -/
def uOf (d : AccDesc) : Option Int :=
  match uLog d.accFmt d.pAcc d.accRnd, uLog d.chunkFmt d.pChunk d.chunkRnd with
  | none, x => x
  | x, none => x
  | some a, some c => some (min a c)

/-- μ of an element: that of the format of larger u, the larger of the two when the roundoffs are equal. -/
def muOf (d : AccDesc) : Option Int :=
  let ma := muLog d.accFmt d.pAcc d.accRnd d.ftz
  let mc := muLog d.chunkFmt d.pChunk d.chunkRnd d.ftz
  match uLog d.accFmt d.pAcc d.accRnd, uLog d.chunkFmt d.pChunk d.chunkRnd with
  | none, _ => mc
  | _, none => ma
  | some a, some c =>
    if a < c then ma else if c < a then mc
    else match ma, mc with
      | some x, some y => some (max x y)
      | none, y => y
      | x, none => x

/-- Whether n · u ≥ 1/2, where the bound does not hold (R42). -/
def tooLong (d : AccDesc) (n : Nat) : Bool :=
  match uOf d with
  | none => false
  | some k => decide (2 * (n : Int) ≥ pow2 k) || decide (k ≤ 0)

/-- γ = n·u / (1 − n·u), rounded upward in binary64; n·u < 1/2 here. -/
def gammaUp (d : AccDesc) (n : Nat) : Fp :=
  match uOf d with
  | none => .fin false 0 0
  | some k =>
    let den := pow2 k - n
    let scaled : Nat := (n * 2 ^ 300 + den - 1) / den
    up64 { m := scaled, e := -300 }

/-- The ulp of y in OUT_FMT as a power of two; INT32 has ulp 1. -/
def ulpLog (code : Nat) (y : Fp) : Int :=
  match fmtOf code 24 with
  | none => 0
  | some f =>
    match y with
    | .fin _ s e =>
      if s = 0 then f.emin - ((f.p : Int) - 1)
      else max (e + msb s) f.emin - ((f.p : Int) - 1)
    | .nan => f.emin
    | .inf _ => f.emin

/-- h of R43. -/
def hUp (d : AccDesc) (y : Fp) : Fp :=
  let ul := ulpLog d.outFmt y
  let h0 := dyPow (if nearest d.outRnd then ul - 1 else ul)
  match d.ftz, fmtOf d.outFmt 24 with
  | true, some f => up64 (if dyLt h0 (dyPow f.emin) then dyPow f.emin else h0)
  | _, _ => up64 h0

/-- A binary64 sum or product rounded upward, on numbers that may be infinite. -/
def sumUp (a c : Fp) : Fp := fpAdd fmtB64 3 false a c
def prodUp (a c : Fp) : Fp := fpMul fmtB64 3 false a c

/-- What one judgement needs of an XACC. -/
structure JudgeIn where
  v : Int := 0
  base : Int := 0
  inx : Bool := false
  nan : Bool := false
  pinf : Bool := false
  ninf : Bool := false
  allNegZ : Bool := false
  mag : W64 := 0
  tail : W64 := 0
  k : Nat := 1
  c : Fp := .fin false 0 0
  y : Nat := 0
  deriving DecidableEq, Repr

/-- The exact class of an element (R39): NaN, an infinity, or finite. -/
def exactClass (d : AccDesc) (j : JudgeIn) : Fp :=
  let n := j.nan || (d.cinit != 0 && decide (j.c = .nan))
  let p := j.pinf || (d.cinit != 0 && decide (j.c = .inf false))
  let m := j.ninf || (d.cinit != 0 && decide (j.c = .inf true))
  if n || (p && m) then .nan else if p then .inf false else if m then .inf true else .fin false 0 0

/-- The exact value of the XACC with the sign of an exact zero (R40). -/
def zOf (j : JudgeIn) (rnd : Nat) : Fp := dyFp { m := j.v, e := j.base } (j.allNegZ || decide (rnd = 4))

/-- z of a whole element: C is added exactly (R43). -/
def zFull (d : AccDesc) (j : JudgeIn) : Fp :=
  if d.cinit = 0 then zOf j d.accRnd else fpAddExact d.accRnd (zOf j d.accRnd) j.c

/-- n of R43. -/
def nOf (d : AccDesc) (j : JudgeIn) : Nat := j.k + (if d.cinit = 0 then 0 else 1)

/-- γ·M and tail of R43. -/
def gammaM (d : AccDesc) (j : JudgeIn) : Fp :=
  let m0 := fromB64 j.mag
  let m := if d.cinit = 0 then m0 else sumUp m0 (match j.c with | .fin _ s e => .fin false s e | x => x)
  prodUp (gammaUp d (nOf d j)) m

def tailAll (d : AccDesc) (j : JudgeIn) : Fp :=
  match muOf d with
  | none => fromB64 j.tail
  | some k => sumUp (fromB64 j.tail) (up64 { m := nOf d j, e := k })

/-- B of R43, rounded upward throughout (R44). -/
def boundB (d : AccDesc) (j : JudgeIn) : Fp :=
  sumUp (sumUp (gammaM d j) (tailAll d j)) (hUp d (decodeOut d.outFmt j.y))

/-- Whether |y − z| ≤ B (R44). -/
def withinB (d : AccDesc) (j : JudgeIn) : Bool :=
  match decodeOut d.outFmt j.y, zFull d j with
  | .fin a s e, .fin c t f =>
    !tooLong d (nOf d j) &&
      fpLe (down64 (dyAbs (dySub (fpDy (.fin a s e)) (fpDy (.fin c t f))))) (boundB d j)
  | _, _ => false

/-- The bits that R45 and R46 expect of a finite z under one rounding; none where there is no integer value. -/
def expectBits (d : AccDesc) (rnd : Nat) (z : Fp) : Option Nat :=
  if isInt32 d.outFmt then (roundInt d.outFmt rnd z).map fun v => (BitVec.ofInt 32 v).toNat
  else match roundTo d.outFmt 24 rnd d.ftz d.outSat z with
    | .nan => none
    | .inf n => some (encodeOut d.outFmt 0 (.inf n))
    | .fin n s e => some (encodeOut d.outFmt 0 (.fin n s e))

/-- The z that is stored: an INT32 accumulation is reduced or clamped first (R46). -/
def zStored (d : AccDesc) (z : Fp) : Fp :=
  if isInt32 d.accFmt then dyFp { m := intFit d.accFmt (toInteger 2 (fpDy z)), e := 0 } false else z

/-- Whether y equals z rounded into OUT_FMT (R45). -/
def roundsTo (d : AccDesc) (j : JudgeIn) : Bool :=
  let z := zStored d (zFull d j)
  if d.outRnd = 5 then expectBits d 3 z == some j.y || expectBits d 4 z == some j.y
  else expectBits d d.outRnd z == some j.y

/-- Whether y is a largest finite value of a float OUT_FMT.  An INT32 OUT_FMT has no infinity, and R45's two further cases are
those of a float format: it has neither a largest finite value nor an overflow threshold here (DESIGN CHOICE, log entry
152). -/
def isMaxOut (d : AccDesc) (y : Fp) : Bool :=
  match fmtOf d.outFmt 24, y with
  | some f, .fin _ s e => dyEq { m := s, e := e } { m := f.maxSig, e := f.maxExp }
  | _, _ => false

/-- Overflow threshold of a format (R45); none for INT32 (DESIGN CHOICE, log entry 152). -/
def threshold (code p rnd : Nat) : Option Dy :=
  (fmtOf code p).map fun f =>
    let big : Dy := { m := f.maxSig, e := f.maxExp }
    if nearest rnd then dyAdd big (dyPow (f.maxExp - 1)) else big

/-- Whether |z| + γ·M + tail reaches the threshold of ACC_FMT or OUT_FMT with y's sign (R45). -/
def mayOverflow (d : AccDesc) (j : JudgeIn) (neg : Bool) : Bool :=
  match zFull d j with
  | .fin n s e =>
    let tot := fpAddExact 3 (fpAddExact 3 (.fin false s e) (gammaM d j)) (tailAll d j)
    let reach := fun (t : Option Dy) =>
      match t with
      | none => false
      | some x => fpLe (dyFp x false) tot
    n == neg && !tooLong d (nOf d j) &&
      (reach (threshold d.accFmt d.pAcc d.accRnd) || reach (threshold d.outFmt 24 d.outRnd))
  | .nan => false
  | .inf _ => false

/-- Outcomes of one element (Table 2.8). -/
inductive Judged where
  | matched | bounded | outside | mismatch | undecIn | undecOut
  deriving DecidableEq, Repr

/-- Table 2.7 for a class that is not finite: whether y matches. -/
def specialMatch (d : AccDesc) (cls : Fp) (ybits : Nat) : Bool :=
  let y := decodeOut d.outFmt ybits
  match cls with
  | .nan => !isInt32 d.outFmt && decide (y = .nan)
  | .inf n =>
    if isInt32 d.outFmt then
      d.outFmt == 6 && int32Val ybits == (if n then -(2 ^ 31) else 2 ^ 31 - 1)
    else match fmtOf d.outFmt 24 with
      | none => false
      | some f =>
        if f.hasInf then decide (y = .inf n)
        else if d.outSat then isMaxOut d y && (match y with | .fin m _ _ => m == n | _ => false)
        else decide (y = .nan)
  | .fin _ _ _ => false

/-- Bounded judgement of one element (R43-R47). -/
def judgeBounded (d : AccDesc) (j : JudgeIn) : Judged :=
  match exactClass d j with
  | .fin _ _ _ =>
    match decodeOut d.outFmt j.y with
    | .nan => .outside
    | .inf n =>
      if isInt32 d.accFmt then (if roundsTo d j then .matched else .outside)
      else if mayOverflow d j n then .bounded
      else .outside
    | .fin n s e =>
      if isInt32 d.accFmt then (if roundsTo d j then .matched else .outside)
      else if !j.inx && roundsTo d j then .matched
      else if withinB d j then .bounded
      else if isMaxOut d (.fin n s e) && mayOverflow d j n then .bounded
      else .outside
  | cls => if specialMatch d cls j.y then .matched else .outside

/-! ### The emulated order (R48) -/

/-- Consecutive pieces of `k` entries, the last perhaps shorter; the fuel is the list's length. -/
def cutInto {α : Type} (k : Nat) : Nat → List α → List (List α)
  | 0, _ => []
  | f + 1, l => if l.isEmpty then [] else l.take k :: cutInto k f (l.drop k)

/-- An exact sum, with the sign of an exact zero under the rounding that follows it (R40). -/
def sumExact (rnd : Nat) : List Fp → Fp
  | [] => .fin false 0 0
  | x :: r => foldOver (fpAddExact rnd) x r

/-- A rounding into ACC_FMT, and a rounded add there. -/
def intoAcc (d : AccDesc) (x : Fp) : Fp := roundTo d.accFmt d.pAcc d.accRnd d.ftz false x
def addAcc (d : AccDesc) (a c : Fp) : Fp := intoAcc d (fpAddExact d.accRnd a c)

/-- One rounded add per entry, in order. -/
def addInOrder (d : AccDesc) : List Fp → Fp
  | [] => .fin false 0 0
  | x :: r => foldOver (addAcc d) x r

/-- The result of one group of a tree: one entry passes up unchanged. -/
def groupResult (d : AccDesc) (l : List Fp) : Fp :=
  match l with
  | [x] => x
  | _ => if d.groupExact then intoAcc d (sumExact d.accRnd l) else addInOrder d l

/-- Passes of a tree of radix `r` until one entry is left; the fuel is the list's length. -/
def treeOf (d : AccDesc) (r : Nat) : Nat → List Fp → Fp
  | f + 1, x :: y :: l => treeOf d r f ((cutInto r (l.length + 2) (x :: y :: l)).map (groupResult d))
  | _, l => addInOrder d l

/-- combine of R48. -/
def combine (d : AccDesc) (l : List Fp) : Fp :=
  if d.tree = 0 then addInOrder d l else treeOf d (if d.tree = 1 then 2 else d.radix) l.length l

/-- The chunks' exact sums, each rounded into CHUNK_FMT. -/
def chunkSums (d : AccDesc) (prods : List Fp) : List Fp :=
  (if d.chunkK = 0 then [prods] else cutInto d.chunkK prods.length prods).map fun l =>
    roundTo d.chunkFmt d.pChunk d.chunkRnd d.ftz false (sumExact d.chunkRnd l)

/-- s of R48 before the last rounding, from the element's exact products in ascending K and C; an INT32 accumulation is the
whole exact sum reduced or clamped (R46). -/
def emulate (d : AccDesc) (prods : List Fp) (c : Fp) : Fp :=
  if isInt32 d.accFmt then
    let z := sumExact d.accRnd prods
    zStored d (if d.cinit = 0 then z else fpAddExact d.accRnd z c)
  else
    let s := combine d (if d.cinit = 1 then intoAcc d c :: chunkSums d prods else chunkSums d prods)
    if d.cinit = 2 then addAcc d s c else s

/-- The bits that R48 expects of an element; none where no y can equal them: a NaN, or no integer value (R46, Table 2.7). -/
def expected (d : AccDesc) (prods : List Fp) (c : Fp) : Option Nat := expectBits d d.outRnd (emulate d prods c)

/-- Whether y and the expected bits compare equal (R49); no y equals bits that do not exist. -/
def strictEqual (d : AccDesc) (y : Nat) (want : Option Nat) : Bool :=
  match want with
  | none => false
  | some w => y == w || (d.zeroAny && isZeroFp (decodeOut d.outFmt y) && isZeroFp (decodeOut d.outFmt w) && !isInt32 d.outFmt)

/-- Strict judgement of one element, and whether a mismatch lies within the bound (R49-R51). -/
def judgeStrict (d : AccDesc) (j : JudgeIn) (want : Option Nat) (undec : Bool) : Judged × Bool :=
  let inB := match judgeBounded d j with
    | .matched => true
    | .bounded => true
    | _ => false
  let fits := inB && !tooLong d (nOf d j)
  match exactClass d j with
  | .fin _ _ _ =>
    if undec then (if fits then .undecIn else .undecOut, fits)
    else
      if decodeOut d.outFmt j.y = .nan then (.mismatch, false)
      else if strictEqual d j.y want then (.matched, true)
      else (.mismatch, fits)
  | cls => if specialMatch d cls j.y then (.matched, true) else (.mismatch, false)

end Sys2Proof.Machine
end

