-- ==== Sys2Proof/Machine/State.lean ====
section
/-!
DEFINITION. Machine/State.lean: everything the manual gives one GLT-7216 and its sixteen DWJ-2 sentinels to hold, as
plain data.  Each record's field defaults are its reset values; a table index that is not listed holds the
record's reset value.  Times are nanoseconds of spine time (`Ns`).
-/

namespace Sys2Proof.Machine

/-! ## Leaf registers of the cause tree -/

/-- The error-flag and leaf registers (Tables 13.12, 13.13, 1.8), one value per register. -/
inductive Leaf where
  | id                    -- ID_ERR; no cause group
  | col | colv            -- group 1
  | gt | bd | ddrUe       -- group 2
  | sp | lkS (p : Nat)    -- group 3
  | lkT (n : Nat) | sn (n : Nat)   -- group 4
  | st                    -- group 5
  | ck                    -- group 6
  | rs | sr               -- group 7
  | fl                    -- group 9
  | pt                    -- group 10
  | fw                    -- group 11
  | hl (pf : Nat)         -- group 12
  | rp (pf : Nat)         -- group 13, one copy per PF
  | sec (pf : Nat)        -- group 14, one copy per PF
  deriving DecidableEq, Repr

/-! ## What leaves the block -/

/-- A status reply (Table 13.4). -/
structure Reply where
  iss : Issuer := {}
  opcode : W16 := 0
  status : Byte := 0
  dup : Bool := false
  interim : Bool := false
  quiet : Bool := false              -- of a repeated TAG, whose packet leaves nothing outstanding
  r0 : W64 := 0
  r1 : W64 := 0
  time : Ns := 0
  deriving DecidableEq, Repr

/-- What a recovery leader orders of another GLT (R295, R298); the manual names the orders and gives them no cell. -/
inductive RecOrder where
  | trim (unit : Place)
  | withdraw (accel : Place)
  | readmit (accel : Place)
  | tipIn (tenant rank : Nat) (failed : Place)
  | claim (tenant rank : Nat) (spare failed : Place)
  | place (tenant rank : Nat) (p : Place)
  | restore (tenant : Nat)
  | noResource (tenant rank : Nat)
  | isolate (tenant : Nat) (ranks : List Nat)
  deriving DecidableEq, Repr

/-- What the block has sent out, oldest first (the model's own field: the manual's links and pins carry it away). -/
inductive Out where
  | cell (port : Nat) (hdr : CellHdr) (b : CellBody)
  | frame (port : Nat) (ty : FrameType) (f : DataFrame)
  | toSentinel (slot : Nat) (m : TetherMsg)
  | toGlt (slot : Nat) (m : TetherMsg)
  | streamAbort (slot : Nat) (stream : W16)      -- a sentinel ends a stream that it has begun, with END and ABORT (R239)
  | hinge (slot : Nat) (m : HingeMsg)
  | lcs (link : Nat) (h : LcsHdr) (l : Lcs)      -- four copies in a row (R314)
  | linkAck (link : Nat) (nak : Bool) (fseq : BitVec 12)
  | linkReplay (link : Nat) (from' : BitVec 12)
  | hostWrite (pf : Nat) (addr : Nat) (bytes : List Byte)
  | status (r : Reply) (phase : Bool)
  | msix (pf : Nat) (vf : Nat) (vector : Nat)
  | abort (pf : Nat) (off : Nat)
  | readData (off : Nat) (val : W64)
  | kettleReply (mgmt : Bool) (seq : W16) (status : W32) (data : List W32)
  | nvme (drive : Nat) (op : Nat) (lba : Nat) (bytes : Nat) (data : List Byte)
  | dispatch (core : Nat) (tenant : Nat) (record : Nat)
  | order (dest : Place) (o : RecOrder)
  | drive (d : Nat) (config write : Bool) (addr len : Nat) (data : W64)   -- an access through the storage window (R340)
  | upstreamRead (pf : Nat) (addr len : Nat)     -- a drive's read of host memory, as the administrating PF's (R340)
  deriving DecidableEq, Repr

/-! ## Identity, place and straps (chapter 1) -/

structure Ident where
  adminPf : Nat := 0
  rack : BitVec 6 := 0
  block : BitVec 6 := 0
  hall : BitVec 3 := 0
  tray : BitVec 5 := 0
  valid : Bool := false
  serial : W64 := 0
  fittedGib : Nat := 256
  hostSplit : BitVec 2 := 0
  testMode : Bool := false
  geoPins : BitVec 5 := 0
  deriving DecidableEq, Repr

/-! ## Flyleaf (chapter 14) -/

/-- A Flyleaf record (Table 14.7); its CRC is computed when it is read. -/
structure FlyRec where
  seq : Nat := 0
  type' : W16 := 0
  time : Ns := 0
  place : Place := 0
  domain : Byte := 0xFF
  edition : Byte := 0
  flags : Byte := 0
  temp : W16 := 0x8000
  voltage : W16 := 0xFFFF
  context : W32 := 0
  source : W32 := 0
  tenant : Option Nat := none
  arg : BitVec 128 := 0
  deriving DecidableEq, Repr

/-- A leaf bit that stays set: its source, the occurrences since its last record, and when that record was
written (R380). -/
structure SummaryDue where
  leaf : Leaf := .id
  bit : Nat := 0
  source : W32 := 0
  count : Nat := 0
  last : Ns := 0
  deriving DecidableEq, Repr

/-- A record slot of the NOR mirror: the record, its stored CRC, and whether a last gasp wrote it (R385). -/
structure MirrorRec where
  rec' : FlyRec := {}
  crc : W32 := 0
  lastGasp : Bool := false
  deriving DecidableEq, Repr

structure Flyleaf where
  next : Nat := 1
  ring : List FlyRec := []           -- oldest first, at most 65,536
  mirrorEn : Bool := true
  mirror : List MirrorRec := []      -- the NOR area, oldest first (not lost with power)
  mirrored : Nat := 0                -- FL_MIRRORED: highest SEQ copied
  mirrorLost : Nat := 0
  waits : Nat := 0
  nonce : W64 := 0
  selLo : W32 := 0
  selHi : W32 := 0
  data : Option FlyRec := none
  gone : Bool := false
  clearing : Bool := false
  scanned : Bool := false            -- the scan of this AON power-on has been made (R384)
  eraseBlocks : Nat := 0             -- blocks still to erase after a clear
  dues : List SummaryDue := []
  lapFirst : Option Nat := none      -- first SEQ overwritten before it was copied (R383)
  stopped : Bool := false            -- R385 step 3
  deriving DecidableEq, Repr

/-! ## Observation (chapter 14) -/

/-- One margin-ring record of a port (Table 14.4). -/
structure PortMargin where
  time : BitVec 48 := 0
  event : Byte := 0
  arg : Byte := 0
  seq : W16 := 0
  old : Byte := 0
  new : Byte := 0
  detail : W32 := 0
  deriving DecidableEq, Repr

structure Obs where
  counters : Tab W64 := []           -- 4,096 counters (Table 14.1)
  latchTime : Ns := 0
  latchBusy : Bool := false
  portMargin : Tab (List PortMargin) := []   -- newest first, at most 1,024 per port
  deriving DecidableEq, Repr

/-! ## Spine time (chapter 6) -/

/-- A shadow of ST_SEC and ST_SUB (R156). -/
structure Shadow where
  sec : BitVec 48 := 0
  sub : W16 := 0
  ppsHi : W32 := 0                    -- ST_PPS_IN_HI as latched by a read of ST_PPS_IN_LO (R173)
  deriving DecidableEq, Repr

inductive TimeState where
  | freeRun | acquiring | locked | holdover | root
  deriving DecidableEq, Repr

/-- A queued launch (R171). -/
structure Launch where
  iss : Issuer := {}
  kind : Byte := 0
  port : Nat := 0
  stamp : Bool := false
  id : W16 := 0
  at' : Ns := 0
  payload : BitVec 96 := 0
  deriving DecidableEq, Repr

structure TsqEntry where
  id : W16 := 0
  port : Nat := 0
  stamp : Nat := 0                   -- 2⁻¹⁶ ns
  deriving DecidableEq, Repr

structure RxqEntry where
  id : W16 := 0
  payload : BitVec 96 := 0
  launch : Nat := 0
  arrival : Nat := 0
  deriving DecidableEq, Repr

/-- An exchange under way with the upstream (R163): SYNC's t1, its arrival t2, and our DELAY_REQ. -/
structure Exchange where
  reqId : W16 := 0
  t1 : Nat := 0
  t2 : Nat := 0
  t3 : Nat := 0
  deriving DecidableEq, Repr

structure SpineTime where
  sec : BitVec 48 := 0
  nsec : Nat := 0
  frac : BitVec 32 := 0
  setNsec : BitVec 30 := 0
  setSub : W16 := 0
  setSec : BitVec 48 := 0
  loadAt : Bool := false
  fwServo : Bool := true
  syncEn : Bool := true
  stepFollow : Bool := true
  loadPending : Bool := false
  loadIss : Option Issuer := none    -- a TIME_SET waiting for the boundary load
  loadNow : Option (Nat × Option Issuer) := none   -- an immediate load that waits for the next tick: its value, its TIME_SET
  incr : BitVec 40 := 0x0100000000
  incrLoHeld : W32 := 0              -- ST_INCR_LO written and not yet committed (R159)
  adj : Int := 0                     -- ST_ADJ as last written
  adjSpan : Nat := 1000000
  adjRem : Int := 0                  -- units of 2⁻³² ns still to slew
  spanLeft : Nat := 0
  slewIss : List Issuer := []        -- the TIME_SETs whose amounts the running slew carries
  syncIntervalUs : Nat := 1000
  holdoverLimitS : Nat := 60
  stepLimitNs : Nat := 1000
  offset : Int := 0                  -- 2⁻¹⁶ ns
  pdelay : W32 := 0
  exch : W16 := 0
  asym : Tab Int := []
  tsq : List TsqEntry := []
  rxq : List RxqEntry := []
  ppsInEn : Bool := false
  ppsDiscipline : Bool := false
  ppsOutMode : BitVec 2 := 0
  ppsOutWidth : Nat := 100
  ppsOffset : Int := 0
  ppsIn : Nat := 0                   -- last accepted stamp, 2⁻¹⁶ ns
  ppsAny : Bool := false             -- an edge was accepted since IN_EN
  ppsSince : Nat := 0                -- the last accepted edge, or IN_EN's setting, 2⁻¹⁶ ns (R173)
  syncOut : Bool := false            -- the pin
  syncOutEnd : Ns := 0
  state : TimeState := .freeRun
  ext : Bool := false
  upHoldover : Bool := false
  degraded : Bool := false
  upPort : Nat := 0
  upValid : Bool := false
  depth : Byte := 0
  stepCount : Byte := 0
  upStep : Byte := 0                 -- the upstream's STEP_COUNT as last seen
  followDue : Bool := false          -- load the upstream's time at its next exchange (R166)
  rootPlace : Place := 0
  goodRun : Nat := 0                 -- consecutive exchanges within 10 ns
  badRun : Nat := 0                  -- consecutive exchanges beyond 25 ns while LOCKED
  missedSync : Nat := 0
  syncSeen : Bool := false           -- a valid SYNC in the current interval
  discard : Nat := 0                 -- exchanges still to discard (R167, R322)
  holdoverAt : Ns := 0
  exchange : Option Exchange := none
  resync : Bool := false             -- SYNC has returned after HOLDOVER or FREE_RUN (R166)
  reqId : W16 := 0
  launches : List Launch := []
  lastLaunch : Tab (Option Ns) := [] -- per port, when its last timed cell left
  shadows : List (TimeReader × Shadow) := []   -- one per reader (R156)
  deriving DecidableEq, Repr

/-! ## Spine ports, hops and rings (chapter 5) -/

inductive PortState where
  | down | training | active | standby | failed | miscabled
  deriving DecidableEq, Repr

inductive Grade where
  | good | marginal | failed | ungraded
  deriving DecidableEq, Repr

structure SpPort where
  en : Bool := false
  selftest : Bool := true
  holdFold : Bool := false
  state : PortState := .down
  grade : Grade := .ungraded
  turned : Bool := false
  dual : Bool := false
  nbr : Place := 0
  nbrPort : Nat := 0
  goodSince : Ns := 0
  lastUncorr : Option Ns := none
  -- optical module pins and class (R409)
  modClass : Nat := 1
  lpMode : Bool := true
  deriving DecidableEq, Repr

/-- What waits in a port's transmit queue (R114): a control cell, a segment of a data frame, or a Tether stream segment. -/
inductive TxUnit where
  | cell (hdr : CellHdr) (b : CellBody)
  | seg (ty : FrameType) (f : DataFrame) (i : Nat)
  | stream
  deriving DecidableEq, Repr

/-- The frames of a transfer that have come so far (R211): where they lie in it, and its length once LAST is in. -/
structure Partial where
  ty : FrameType := .bindWrite
  src : Place := 0
  stream : W32 := 0
  since : Ns := 0
  chunks : Tab (List Byte) := []     -- by OFFSET
  total : Option Nat := none
  deriving DecidableEq, Repr

/-- A cell that waits for a missing SEQ (R126), with the local stamp of its arrival. -/
structure WaitCell where
  port : Nat := 0
  hdr : CellHdr := {}
  body : CellBody := .selftest
  stamp : Nat := 0
  deriving DecidableEq, Repr

/-- One hop: a neighbour reached by rail A and rail B.  Hop 0 is L1 west, 1 L1 east, 2 uplink west, 3 uplink east. -/
structure Hop where
  railB : Bool := false              -- the active rail is B
  seqTx : W16 := 0                   -- SEQ of the next cell
  seqRx : W16 := 0                   -- SEQ of the last cell accepted
  rxAny : Bool := false              -- a cell has been accepted since training
  waiting : List WaitCell := []      -- ahead of a missing cell (R126)
  unacked : List (CellHdr × CellBody) := []
  dseqTx : W16 := 0                  -- DSEQ of the next data frame
  dseqRx : W16 := 0                  -- DSEQ of the last data frame accepted
  drxAny : Bool := false             -- a data frame has been accepted since training
  dunacked : List (FrameType × DataFrame) := []
  dualUntil : Option Ns := none
  failoverSent : Bool := false
  folded : Bool := false
  unfoldOffer : Option Ns := none    -- the unfold time that this member has proposed (R122)
  unfoldAt : Option Ns := none       -- the one that both have agreed
  lateTurned : Bool := false         -- it has unfolded: turned traffic still in flight ends here (R122)
  failbackOffer : Option Ns := none  -- the failback time proposed (R127)
  failbackAt : Option Ns := none     -- and agreed
  absent : Bool := false             -- the member beyond is absent at training (R120)
  deriving DecidableEq, Repr

structure Ring where
  present : Nat := 0
  folded : Bool := false
  head : Bool := false
  member : Bool := false
  epoch : W16 := 0
  map : BitVec 64 := 0
  gap : Option Nat := none           -- the member east of the ring's gap, as its FOLD named it
  deriving DecidableEq, Repr

/-- A collective round's laps at this GLT (R116, R117): the laps that wait here for its own contribution, with their
headers; whether the first lap of its L1 has started here as head; the levels whose first lap has closed here; and
the partial of the subtree below, per ring level, that a delegate holds for the ring above. -/
structure Lap (β : Type) where
  waiting : List (CellHdr × β) := []
  started : List Nat := []
  closed : List Nat := []
  up : List (Nat × Bool × β) := []    -- with the ABORT of the partial
  deriving DecidableEq, Repr

/-- One rank's post in a reduction round. -/
structure RedPost where
  rank : Nat := 0
  iss : Issuer := {}
  op : BitVec 4 := 0
  ty : BitVec 2 := 0
  count1 : BitVec 2 := 0
  operands : List W64 := []
  resultAddr : Nat := 0
  at' : Ns := 0
  deriving DecidableEq, Repr

/-- A round in flight on a channel. -/
structure RedRound where
  round : Nat := 0
  posts : List RedPost := []
  lap : Lap RedBody := {}
  partial' : Option RedBody := none                      -- an unsent express partial
  waitSince : Option Ns := none
  contributed : Bool := false
  part0 : List (CellHdr × RedBody) := []                 -- PART 0 cells that wait for their PART 1
  places : List Place := []                              -- the tenant's place list when the round started (R129)
  deriving DecidableEq, Repr

/-- A reduction channel: fixed-order 0-1,023, express 1,024-1,031. -/
structure RedChan where
  nextPost : Tab Nat := []           -- per rank, the number of its next round
  lastRound : Nat := 0               -- every earlier round has ended here
  ended : List Nat := []             -- later rounds that have ended already (R133)
  outcomes : Tab (Bool × RedBody) := []   -- how a round ended for the ranks that have still to post to it (R134)
  rounds : List RedRound := []
  deriving DecidableEq, Repr

/-- An SP_XCHANc register. -/
structure Xchan where
  tenant : Nat := 0
  valid : Bool := false
  deriving DecidableEq, Repr

/-- A broadcast this GLT is the source of. -/
structure BcastSrc where
  stream : W32 := 0
  iss : Issuer := {}
  tenant : Nat := 0
  resultAddr : Nat := 0
  expected : List Place := []
  acked : List Place := []
  nacked : List Place := []
  deadline : Ns := 0
  isCommand : Bool := true
  deriving DecidableEq, Repr

/-- A broadcast of the GLT's own that waits until fewer than four are in flight (R146). -/
structure BcastWait where
  tenant : Nat := 0
  scope : Place := 0
  info : BcastInfo := {}
  bytes : List Byte := []
  expected : List Place := []
  own : Bool := true
  deriving DecidableEq, Repr

structure Spine where
  enable : Bool := false
  failoverAuto : Bool := true
  failbackAuto : Bool := true
  unfoldAuto : Bool := true
  redTimeoutMs : Nat := 100
  bcastTimeoutS : Nat := 10
  relLead : List Nat := [5000, 15000, 32000, 55000]
  ports : Tab SpPort := []
  hops : Tab Hop := []
  rings : Tab Ring := []
  xchan : Tab Xchan := []
  lateCount : Nat := 0
  dupCount : Nat := 0
  dropCount : Nat := 0
  chans : Tab RedChan := []
  bcasts : List BcastSrc := []
  bcastWait : List BcastWait := []
  partials : List Partial := []
  nextStream : W32 := 0
  deriving DecidableEq, Repr

/-! ## Links (chapter 12) -/

inductive LinkState where
  | down | training | up | retuning | changing | failed
  deriving DecidableEq, Repr

structure Lane where
  lock : Bool := false
  polarity : Bool := false
  inUse : Bool := false
  quarantined : Bool := false
  clean : Bool := false              -- SELFTEST_CLEAN
  preset : Byte := 0
  eyeMargin : W16 := 0
  bad : List Ns := []                -- bad events within the last 60 s
  selftest : Bool := false
  cleanFrom : Ns := 0                -- since when the self-test has run without an error
  moduleFlag : Bool := false
  isBad : Bool := false              -- bad under R316
  deriving DecidableEq, Repr

structure Link where
  maxWidth : Nat := 4
  adaptEn : Bool := true
  marginEn : Bool := true
  marginBer : Nat := 1000000
  urgentBer : Nat := 100000000
  slotMaxS : Nat := 10
  state : LinkState := .down
  width : Nat := 0
  lanes : Tab Lane := []
  leader : Bool := false
  ber : Nat := 0
  corr : Nat := 0
  uncorr : Nat := 0
  replay : Nat := 0
  slot : Option Ns := none           -- LK_SLOT: a scheduled retune or widening
  slotPending : Bool := false
  slotReqAt : Ns := 0
  widenTo : Option (BitVec 4 × Ns) := none   -- a widening named in WIDTH_GO
  rtt : Nat := 0
  txFseq : BitVec 12 := 0            -- next FSEQ to send
  txUnacked : List (BitVec 12) := [] -- replay buffer, at most 64
  txUnits : List TxUnit := []        -- what those frames carry
  txWait : List TxUnit := []         -- the transmit queue (R114)
  repTimes : List Ns := []           -- when the suspect-report cells of the last 100 µs left (R115)
  rxFseq : BitVec 12 := 0            -- next FSEQ expected
  rxDiscard : Bool := false          -- discarding until the replay (go-back-N)
  noProgress : Nat := 0              -- consecutive replays without progress
  trainFails : Nat := 0
  fastFails : Nat := 0
  trainKind : TrainKind := .full
  widthReqSent : Option (Nat × BitVec 4) := none
  retuneReqSent : Bool := false
  nbr : Place := 0
  nbrPort : Nat := 0
  lcsSeen : Option (List Byte × Ns) := none  -- the link control set acted on last, whose copies are repeats (R314)
  waitFrom : Ns := 0                 -- since when the sender waits for an ACK (R310)
  downSince : Option Ns := none
  pausedUntil : Ns := 0
  peerLanes : BitVec 4 := 0xF        -- lanes with lock that the other end's TRAIN named
  heldArrive : Option (Nat × Nat) := none   -- tenant and rank of the arrival that a Tether's retune withholds (R320)
  deriving DecidableEq, Repr

/-! ## Collator cores (chapters 2, 3) -/

/-- XACC state (Table 2.2). -/
structure Xacc where
  value : BitVec 256 := 0
  base : BitVec 16 := 0
  inx : Bool := false
  ovf : Bool := false
  nan : Bool := false
  pinf : Bool := false
  ninf : Bool := false
  any : Bool := false
  allNegZ : Bool := false
  mag : W64 := 0
  tail : W64 := 0
  count : W32 := 0
  deriving DecidableEq, Repr

/-- A DPU-32's configuration.  Before any DMASK every lane is live (DESIGN CHOICE, log entry 152: R33 gives the mask no reset
value). -/
structure Dpu where
  aFmt : BitVec 4 := 0
  bFmt : BitVec 4 := 0
  daz : Bool := false
  sliceA : Nat := 0
  sliceB : Nat := 0
  mask : W32 := 0xFFFFFFFF
  deriving DecidableEq, Repr

/-- A pass between its issue and its add: the window sum S of weight 2^L, the lanes that lost bits, the binary64
magnitude, and the special-value flags of its lanes. -/
structure Pass where
  x : Nat := 0
  sum : Int := 0
  l : Int := 0
  lost : Nat := 0
  mag : W64 := 0
  nan : Bool := false
  pinf : Bool := false
  ninf : Bool := false
  any : Bool := false
  allNegZ : Bool := false
  count : Nat := 0
  unit : Nat := 0                    -- the unit that issued it, and CYCLE at its issue (R60)
  cycle : W64 := 0
  deriving DecidableEq, Repr

structure TaskIn where
  count : Nat := 0
  ovf : Bool := false
  deriving DecidableEq, Repr

/-- A message in a mailbox ring. -/
structure BoxMsg where
  addr : Nat := 0
  flits : Nat := 0
  sender : Nat := 0
  deriving DecidableEq, Repr

structure Mailbox where
  base : Nat := 0
  size : Nat := 0
  tail : Nat := 0                    -- flit position of the next arrival
  msgs : List BoxMsg := []
  granted : Tab Nat := []            -- per sender, credit granted and not yet used by an arrival
  deriving DecidableEq, Repr

/-- A credit-table entry of a sender (R68). -/
structure Credit where
  target : Nat := 0
  mbox : Nat := 0
  flits : Nat := 0
  deriving DecidableEq, Repr

structure DmaQ where
  busy : Bool := false
  dst : Nat := 0
  off : Nat := 0
  len : Nat := 0
  data : List Byte := []             -- the bytes of the record that was current at the issue (R72)
  deriving DecidableEq, Repr

/-- Judgement tally (R73): the counts, the index of the first element that is not MATCH, and with their indices the
within-bound indicators of the first MISMATCH and of the first MISMATCH or UNDECIDED (Table 4.6). -/
structure Tally where
  matched : Nat := 0
  bounded : Nat := 0
  outside : Nat := 0
  mismatch : Nat := 0
  undecIn : Nat := 0
  undecOut : Nat := 0
  firstBad : Option Nat := none
  firstMiss : Option (Nat × Bool) := none
  firstDoubt : Option (Nat × Bool) := none
  last : Option Nat := none          -- last index judged (R74)
  deriving DecidableEq, Repr

/-- Core margin-ring record (Table 3.13). -/
structure CoreMargin where
  time : BitVec 48 := 0
  event : Byte := 0
  arg : Byte := 0
  pc : W32 := 0
  slot : BitVec 6 := 0
  tenant : Nat := 0
  seq : W16 := 0
  deriving DecidableEq, Repr

/-- What a core waits for (SEND stall, WAITE, DMARD stall, XACC interlock, FENCE). -/
inductive CoreWait where
  | none | send | waite (mask : W64) (d : Nat) | dma (queue : Nat) | xacc | fence
  deriving DecidableEq, Repr

structure Core where
  pc : W32 := 0
  g : Tab W64 := []
  v : Tab (BitVec 512) := []
  dpu : Tab Dpu := []
  passes : List Pass := []           -- issued, not yet added; oldest first, unit 0 before unit 1 (R60)
  xacc : Tab Xacc := []
  sram : Memory := []
  tin : Tab TaskIn := []
  mbox : Tab Mailbox := []
  credits : List Credit := []
  lostCredit : List (Nat × Nat) := []   -- pairs whose grant was discarded (R68)
  discardedGrants : Nat := 0
  dma : Tab DmaQ := []
  undec : Bool := false
  timerAt : Option Nat := none       -- CYCLE at which the one-shot timer expires
  cycle : W64 := 0
  tally : Tally := {}
  sent : Tally := {}                 -- the tally that its TDONE submitted (Table 3.10)
  tile : Option Nat := none          -- id of the record in progress
  tdone : Bool := false              -- TDONE issued for the current tile, others of the instance outstanding
  tileSeq : W32 := 0
  tileStart : W64 := 0               -- CYCLE at the dispatch of the tile
  evOvf : Bool := false              -- some task input held OVF since the dispatch (R64)
  wait : CoreWait := .none
  readyDone : Bool := false
  progSlot : Nat := 0
  inst : Nat := 0                    -- number of its instance within the slot
  row : Nat := 0
  col : Nat := 0
  instH : Nat := 1
  instW : Nat := 1
  origin : Nat := 0                  -- north-west core of the instance
  trimAtTdone : Bool := false        -- a COL_TRIM write awaits the core's next TDONE (R83)
  trimAskedAt : Ns := 0              -- when that write came
  specimen : Bool := false           -- a specimen is running
  specWant : List Byte := []         -- the verdict record that it is to give (R365)
  coreFaults : List Ns := []
  corrEcc : Nat := 0
  margin : List CoreMargin := []     -- newest first, at most 1,024
  deriving DecidableEq, Repr

/-- A message between SEND and its arrival. -/
structure MeshMsg where
  src : Nat := 0
  dst : Nat := 0
  mbox : Nat := 0
  bytes : List Byte := []
  deriving DecidableEq, Repr

/-- An EVSIG between issue and arrival. -/
structure MeshEv where
  src : Nat := 0
  dst : Nat := 0
  input : Nat := 0
  count : Nat := 0
  deriving DecidableEq, Repr

/-- A credit grant or return on its way to the sender's router. -/
structure MeshCredit where
  sender : Nat := 0
  receiver : Nat := 0
  mbox : Nat := 0
  flits : Nat := 0
  deriving DecidableEq, Repr

inductive SlotPhase where
  | empty | loading | active | draining | failed
  deriving DecidableEq, Repr

structure ProgSlot where
  state : SlotPhase := .empty
  tenant : Nat := 0
  image : ProgImage := {}
  svn : Nat := 0
  minSvn : Nat := 0
  cycles : Nat := 0
  origins : List Nat := []           -- north-west core of each placed instance
  faults : List Ns := []
  lost : Nat := 0                    -- released instances that no replacement has followed yet (R84)
  loadIss : Option Issuer := none
  loadStart : Ns := 0
  deriving DecidableEq, Repr

structure Collator where
  dispatchEn : Bool := true
  cores : Tab Core := []
  trim : Tab W32 := []               -- COL_TRIM0-15
  autoTrim : Tab W32 := []           -- COL_AUTOTRIM0-15
  slots : Tab ProgSlot := []
  obsSel : BitVec 9 := 0
  mesh : List MeshMsg := []
  meshEv : List MeshEv := []
  meshCredit : List MeshCredit := []
  meshDrops : Nat := 0
  withheld : Nat := 0                -- clusters withheld by throttling (R412)
  ucodeCluster : Option Nat := none  -- the cluster whose reload is in turn (R363)
  ucodePending : List Nat := []      -- clusters in reset that load when they leave it
  microcode : Tab FwImage := []      -- the microcode that each cluster runs
  deriving DecidableEq, Repr

/-! ## Tile records and verdicts (chapter 4) -/

inductive TilePhase where
  | queued | dispatched | confirming | final | unresolved
  deriving DecidableEq, Repr

inductive Verdict where
  | pass | passBounded | fail | void | skipped
  deriving DecidableEq, Repr

/-- Why the record waits in the queue, or what its running collation is for (R98, R99). -/
inductive Purpose where
  | first | recollate | confirm | confirmAgain | third
  deriving DecidableEq, Repr

/-- What a collation leaves in the verdict record: PROG_SLOT, FIRST_BAD, NOT_MATCH and the within-bound flag (Table 4.6). -/
structure CollNote where
  progSlot : Nat := 0xFF
  firstBad : Option Nat := none
  notMatch : Nat := 0
  within : Bool := false
  deriving DecidableEq, Repr

/-- A tile from its arrival to the release of its binding: record, state and verdict record (Table 4.6). -/
structure Tile where
  id : Nat := 0
  hdr : TileHdr := {}
  data : List Byte := []
  intact : Bool := true              -- the record can still be judged
  freed : Bool := false              -- the record's bytes are freed
  phase : TilePhase := .queued
  purpose : Purpose := .first
  verdict : Option Verdict := none
  cause : Cause := .none
  replacement : Bool := false
  waived : Bool := false
  confirmed : Bool := false
  userProg : Bool := false
  attempts : Nat := 0
  recolls : Nat := 0
  note : CollNote := {}              -- of the last collation, in the end of the deciding one
  failNote : CollNote := {}          -- of the collation that gave the first FAIL (R98)
  time : Ns := 0
  coresUsed : List Nat := []
  running : List Nat := []           -- cores of the instance that runs it
  everDispatched : Bool := false
  priority : Bool := false           -- a confirmation or re-collation (R95)
  firstCore : Nat := 0
  firstSlot : Nat := 0
  secondVerdict : Option Verdict := none
  secondCore : Nat := 0
  deriving DecidableEq, Repr

structure Verdicts where
  tiles : List Tile := []            -- in order of arrival
  nextId : Nat := 0
  force : Bool := false              -- COL_STRICT_GLOBAL.FORCE
  waitMs : Nat := 1000               -- COL_VERDICT_WAIT
  queueGib : Nat := 8                -- COL_QUEUE_SIZE
  lateCount : Nat := 0
  deriving DecidableEq, Repr

/-! ## Tenants: policy, gatherings, bindings, barriers, holds, recovery -/

/-- A gathering's vote on this GLT. -/
inductive LocalVote where
  | notPosted | pass | fail | vetoed
  deriving DecidableEq, Repr

inductive VoteRound where
  | pending | sewn | failed
  deriving DecidableEq, Repr

/-- An extent of binding memory (R204): what it holds and its bytes with their page digests. -/
inductive ExtKind where
  | data | parity | colophon | loadArea
  deriving DecidableEq, Repr

structure Extent where
  kind : ExtKind := .data
  tenant : Nat := 0
  gathering : Nat := 0
  handle : W64 := 0
  row : Nat := 0
  group : Nat := 0                   -- first tray of the group, for parity
  member : Nat := 0                  -- parity index i
  offset : Nat := 0
  length : Nat := 0
  bytes : List Byte := []
  pageDigests : List (BitVec 256) := []
  contributed : List Nat := []       -- members whose contribution is in
  complete : Bool := false
  badPages : List Nat := []          -- pages that no longer match their digest
  lost : Bool := false
  cold : Bool := false               -- loaded from a cold copy (R226)
  deriving DecidableEq, Repr

/-- The page digests that a slot has gathered for one signature of the current gathering. -/
structure SigWork where
  rank : Nat := 0
  region : Nat := 0
  index : Nat := 0                   -- j within the region
  digests : Tab (BitVec 256) := []   -- by page of the signature
  pages : Nat := 0
  digest : Option (BitVec 256) := none
  owned : Bool := true
  groupSize : Nat := 1
  others : Tab (BitVec 256) := []    -- by member index
  matched : Bool := false
  digestedAt : Ns := 0
  parityDone : Bool := false
  deriving DecidableEq, Repr

inductive BindPhase where
  | binding | signing | voting | sewn | failed
  deriving DecidableEq, Repr

/-- One gathering of the tenant as this GLT follows it. -/
structure Gathering where
  n : Nat := 0
  deep : Bool := false
  startTime : Ns := 0
  step : Nat := 0
  phase : BindPhase := .binding
  bindStopped : Bool := false        -- R206: no extent could be allocated
  noMap : Bool := false
  diverged : Bool := false
  sigs : List SigWork := []
  map : List MapEntry := []          -- the map in force at its start (R202)
  sigShift : Nat := 28
  k : Nat := 8
  m : Nat := 2
  protectRepl : Bool := false
  markers : List Nat := []           -- slots whose interval-close marker has arrived
  deadlinePassed : Bool := false
  localVote : LocalVote := .notPosted
  hostFail : Bool := false
  failDue : Bool := false            -- a fail vote that waits for the previous vote to end (R141)
  round : VoteRound := .pending
  lap : Lap VoteBody := {}
  completion : Ns := 0               -- T_c
  tag : W64 := 0
  rolledBack : Bool := false
  countsSent : Bool := false         -- the row counts of R210 have gone out
  entriesSent : Bool := false
  entries : List (Place × List RegionEntry × List DataEntry) := []
  entriesAt : Ns := 0
  colophon : Option Colophon := none
  colophonOk : Bool := false
  rowCounts : List (Nat × Nat × Nat) := []   -- (group, member, rows) from PARITY_IN of length 0
  displaced : Bool := false
  released : Bool := false
  fromCold : Bool := false
  verdictCounts : List Nat := []     -- PASS, PASSB, FAIL, VOID, SKIP at its deadline
  strict : Bool := false             -- the mode in force in its interval, and whether it was raised (R91, R104)
  raised : Bool := false
  deriving DecidableEq, Repr

/-- A barrier group (R136). -/
structure Barrier where
  configured : Bool := false
  members : List Nat := []           -- ranks; group 0 holds every rank
  round : Nat := 0
  arrived : List Nat := []
  arriveIss : List (Nat × Issuer × Nat) := []   -- rank, ARRIVE command, RESULT_ADDR
  lap : Lap BarBody := {}
  early : List (Nat × CellHdr × BarBody) := []   -- cells of the next round, with their ports
  release : Option Ns := none        -- T_r of a round whose second lap has passed
  lateRelease : Bool := false
  withheld : Bool := false           -- R139
  withheldSewn : Bool := false       -- the R18 wait
  deriving DecidableEq, Repr

structure PendList where
  slot : Nat := 0
  from' : Nat := 0
  list : List RegionDesc := []
  deriving DecidableEq, Repr

inductive HoldPhase where
  | none | scheduled | cutting | held | incomplete
  deriving DecidableEq, Repr

/-- The hold of a tenant (Tables 10.2, 10.12). -/
structure Hold where
  phase : HoldPhase := .none
  late : Bool := false
  unbounded : BitVec 16 := 0
  collateInHold : Bool := true
  holdId : W32 := 0
  origin : Place := 0
  time : Ns := 0
  isOrigin : Bool := false
  iss : Option Issuer := none
  resultAddr : Nat := 0
  merged : List (Issuer × Nat) := []
  marksDue : BitVec 8 := 0           -- ports whose MARK is still missing
  slotsDue : BitVec 16 := 0          -- slots whose HOLD_MARK is still missing
  marksSeen : BitVec 8 := 0          -- MARKs that came before this GLT's own hold time
  slotsSeen : BitVec 16 := 0         -- HOLD_MARKs that came before it
  reachMax : Nat := 0
  tilesVoided : Nat := 0
  msgsDropped : Nat := 0
  releaseAt : Option Ns := none
  releaseIss : Option Issuer := none
  restored : Bool := false           -- a RESTORE or LOAD ran during the hold (R219)
  restorePoint : Nat := 0
  deriving DecidableEq, Repr

inductive RecPhase where
  | none | holding | acting | restoring | replaying | isolating | waitHost
  deriving DecidableEq, Repr

/-- A TIP_IN that waits for another GLT or for its restore (R304). -/
structure TipWait where
  iss : Issuer := {}
  rank : Nat := 0
  restore : Bool := false
  resultAddr : Nat := 0
  until' : Ns := 0
  answered : Bool := false           -- the spare's GLT has answered
  deriving DecidableEq, Repr

structure Recovery where
  phase : RecPhase := .none
  count : Nat := 0
  target : Place := 0
  targets : List Place := []         -- targets of step 3 still to act on
  restoredBy : List (Place × Byte) := []
  restoreAt : Ns := 0
  failedVoteAt : Option Ns := none
  failedHost : Bool := false
  candidates : List Nat := []        -- ranks of R293
  isoUntil : Option Nat := none      -- the gathering that decides the replay under way; none before its release
  isoFailed : Bool := false          -- step 5 of R293: every candidate is withdrawn, then the host is waited for
  tries : Nat := 0
  tried : List Place := []           -- accelerators withdrawn by the tries of R293
  transient : List (Nat × Ns) := []
  tip : Option TipWait := none
  deriving DecidableEq, Repr

/-- A tenant as this GLT holds it. -/
structure TenantRec where
  exists' : Bool := false
  creatingPf : Nat := 0
  vf : Nat := 0
  ranks : Nat := 0
  s : Nat := 2
  places : List Place := []
  certs : List (Place × Cert) := []
  step : Nat := 0
  started : Nat := 0                 -- highest gathering started
  released0 : Bool := false          -- a release of group 0 has taken place
  skipped : List Nat := []           -- gathering numbers that R299 leaves unused
  -- policy (Table 4.14)
  rates : List (Option Nat) := [some 6, some 6, some 6, some 6, some 6, some 6, some 6, some 6]
  strict : Bool := false
  effStrict : Bool := false
  pendRates : Option (Nat × List (Option Nat)) := none
  pendMode : Option (Nat × Bool) := none
  raise : Nat := 2
  raiseNow : Nat := 0                -- the RAISE in use while raised
  raised : Bool := false
  raisedAt : Ns := 0                 -- the release that raised it
  raiseEndDue : Bool := false        -- the sew that ends raised sampling has completed
  waiveLoss : Bool := true
  weight : Nat := 16
  quotaMib : Nat := 1024
  served : Nat := 0                  -- core-cycles consumed, rebased when it has work again (R95)
  fails : Nat := 0
  lastFail : List Byte := []         -- the verdict record of its latest final FAIL (R109)
  deepMark : Nat := 0
  -- binding policy (R228)
  sigShift : Nat := 28
  k : Nat := 8
  m : Nat := 2
  retain : Nat := 2
  coldEvery : Nat := 0
  protectRepl : Bool := false
  pendPolicy : List (Nat × Nat × Nat × Nat × Nat × Bool) := []
  map : List MapEntry := []
  pendMap : List (Nat × List MapEntry) := []
  loadAreaGib : Nat := 0
  gatherings : List Gathering := []  -- oldest first
  sewnCount : Nat := 0
  lastSewn : Nat := 0
  lastTc : Ns := 0
  coldGathering : Nat := 0
  coldBusy : Option Nat := none
  pendLists : List PendList := []
  barriers : Tab Barrier := []
  hold : Hold := {}
  earlyMarks : List (W32 × Ns × Nat) := []   -- MARKs of a hold that is not armed here: HOLD_ID, T and hop
  rec' : Recovery := {}
  deriving DecidableEq, Repr

/-! ## Gathering and binding engine (chapters 7, 8) -/

inductive GathPhase where
  | idle | copying | copied | digested | abandoned
  deriving DecidableEq, Repr

/-- A slot of the tray as the GLT holds it: gathering, restore and role state. -/
structure SlotRec where
  -- gathering (Tables 7.6, 7.11)
  gphase : GathPhase := .idle
  deep : Bool := false
  gathering : Nat := 0
  tenant : Nat := 0
  regions : List RegionDesc := []    -- the list in force
  staged : List (Nat × Nat) := []    -- (region, page) staged in the current gathering
  digestedPages : List (Nat × Nat) := []
  left : Nat := 0                    -- GT_SLOT_LEFT
  paceCap : Nat := 0
  holds : Nat := 0
  holdNs : Nat := 0
  holdMax : Nat := 0
  crcFails : List (Nat × Nat × Nat) := []  -- (region, page, consecutive CRC failures)
  -- role and power (Tables 11.11, 15.12)
  role : BitVec 2 := 0
  group : BitVec 12 := 0
  claimed : Bool := false
  pwren : Bool := false
  perstN : Bool := false
  on : Bool := false
  seqStart : Option Ns := none       -- start of a slot power sequence under way
  alertN : Bool := true
  prsntN : Bool := true              -- SLOT_PRSNT_N as filtered; high is absent
  -- the GLT's copies of the sentinel's trim bits and editions (R254)
  trimCopy : List Nat := []
  editionCopy : Tab Byte := []
  decl : Option Declare := none
  mirrorPhase : SnPhase := .down
  stale : Bool := true
  mirror : Tab W32 := []             -- the sentinel's window as last updated before it became stale (R256)
  stepping : Byte := 0xA2
  snSvn : W16 := 0
  snBank : Bool := false
  heldByHold : Bool := false         -- SNT_HOLD asked for by a tenant hold
  heldByKettle : Bool := false
  reachExceeded : Bool := false
  reachLast : Nat := 0
  trimIss : List (Nat × Bool × Issuer) := []   -- TRIM_UNIT waiting for TRIM_ACK
  specs : List (Option Nat × Option Issuer) := []   -- accelerator specimens, the running one first: a unit's, or of the whole
  specAreas : List SpecEntry := []   -- the areas of the running one, from the store as it began (R366, Table 13.22)
  specFrom : Ns := 0                 -- when it began
  readmitting : Bool := false
  readmitIss : Option Issuer := none
  readmitAt : Ns := 0
  credU : Nat := 0                   -- urgent push credits at the sentinel (R192)
  credP : Nat := 0                   -- pre-gathering push credits at the sentinel
  deriving DecidableEq, Repr

/-- A page in staging. -/
structure StagedPage where
  slot : Nat := 0
  tenant : Nat := 0
  gathering : Nat := 0
  region : Nat := 0
  page : Nat := 0
  data : List Byte := []
  deriving DecidableEq, Repr

inductive StageLevel where
  | normal | throttled | backpressure
  deriving DecidableEq, Repr

structure GatherEng where
  pregatherEn : Bool := true
  stageGib : Nat := 64
  throttlePct : Nat := 85
  backpressurePct : Nat := 95
  hystPct : Nat := 5
  pace : Nat := 200
  digestTimeoutMs : Nat := 2000
  divCount : Nat := 0
  dropCount : Nat := 0
  staging : List StagedPage := []    -- in order of arrival
  level : StageLevel := .normal
  full : Bool := false
  urgentWait : List Nat := []        -- slots owed an urgent credit, in order of arrival (R192)
  preWait : List Nat := []           -- slots owed a pre-gathering credit, in order of arrival (R192)
  deriving DecidableEq, Repr

/-- An NVMe drive's registers (Table 8.9). -/
structure Nvme where
  en : Bool := false
  stride : BitVec 4 := 0
  qid : W16 := 0
  nsid : W32 := 0
  bar : W64 := 0
  lba : W64 := 0
  cnt : W64 := 0
  qdepth : Nat := 256
  ready : Bool := false
  error : Bool := false
  lastErr : W16 := 0
  trained : Bool := false
  newest : Option (Nat × Nat × Bool) := none   -- tenant, gathering, half of the newest complete copy
  deriving DecidableEq, Repr

/-- Steps of a cold copy (R225). -/
inductive ColdStep where
  | repair | data | flush1 | header | flush2
  deriving DecidableEq, Repr

structure ColdCopy where
  tenant : Nat := 0
  gathering : Nat := 0
  step : ColdStep := .data
  left : Nat := 0                    -- writes still outstanding in this step
  half : Bool := false
  drives : List Nat := []
  deriving DecidableEq, Repr

/-- A transfer this GLT has sent and that is not yet acknowledged (R211). -/
structure XferOut where
  x : Xfer := {}
  sent : Nat := 1
  deadline : Ns := 0
  deriving DecidableEq, Repr

/-- What a BIND_READ of this GLT is for: a signature of a restore, or a fragment of a degraded read. -/
inductive ReadUse where
  | job (id : Nat)                   -- a whole signature
  | list (id : Nat)                  -- its page-digest list
  | page (id page : Nat)             -- one of its pages
  | frag (rebuild member : Nat)
  deriving DecidableEq, Repr

structure ReadOut where
  req : BindReadReq := {}
  dest : Place := 0
  use : ReadUse := .job 0
  tries : Nat := 1
  deadline : Ns := 0
  deriving DecidableEq, Repr

/-- What a degraded read's bytes are for: the fragment in hand of a job, one of its pages, or a page of an extent here that is
repaired in place (R213). -/
inductive RebuildUse where
  | job (id : Nat)
  | page (id page : Nat)
  | repair (offset page : Nat)
  deriving DecidableEq, Repr

/-- A degraded read (R212): the fragment wanted of a stripe, and the fragments read so far. -/
structure Rebuild where
  id : Nat := 0
  tenant : Nat := 0
  gathering : Nat := 0
  stripe : Nat := 0
  wanted : Nat := 0                  -- data members first, then parity fragments
  off : Nat := 0                     -- where its bytes start in the fragment
  length : Nat := 0
  whole : Bool := true               -- the whole fragment, or one page of it
  digest : BitVec 256 := 0           -- of the fragment, or of the page
  frags : Tab (List Byte) := []
  asked : List Nat := []
  dead : List Nat := []
  use : RebuildUse := .repair 0 0
  deriving DecidableEq, Repr

/-- What follows a restore: the command's completion, RESTORED to the leader (R295), or TIP_IN's completion (R304). -/
inductive JobFor where
  | command | recovery | tipIn
  deriving DecidableEq, Repr

/-- A BIND_RESTORE under way (R218-R226).  Actions: 0 RESTORE, 1 REBUILD, 2 FROM_COLD, 3 LOAD. -/
structure RestoreJob where
  id : Nat := 0
  iss : Issuer := {}
  for' : JobFor := .command
  tenant : Nat := 0
  action : Nat := 0
  rank : Nat := 0
  slot : Nat := 0
  gathering : Nat := 0
  resultAddr : Nat := 0
  group : Bool := false
  todo : List DataEntry := []        -- signatures or fragments still to do, in order
  cur : Option DataEntry := none     -- the one in hand
  bytes : List Byte := []            -- its bytes, once they are here
  ready : Bool := false              -- its bytes are here
  want : List Nat := []              -- the pages that are fetched one by one (R221)
  pageDigs : List (BitVec 256) := [] -- and the page digests that they must have
  page : Nat := 0                    -- the page being written
  tries : Nat := 0                   -- sends of that page
  armedSeen : Bool := false          -- WRITTEN status 1 was seen for it
  addr : Nat := 0                    -- where it went
  crc : W32 := 0
  stream : W16 := 0                  -- its stream number
  pushWait : Option Ns := none       -- waits for a group push until then (R222)
  bytesDone : Nat := 0
  remote : Nat := 0
  rebuilt : Nat := 0
  firstLost : Option Nat := none
  base : Nat := 0                    -- LOAD: Hinge address of the target region
  source : Nat := 0                  -- LOAD: load-area offset of its first byte
  moved : List DataEntry := []       -- REBUILD: the new entries
  left : Nat := 0                    -- FROM_COLD: NVMe reads outstanding
  deriving DecidableEq, Repr

/-- A complete cold copy on the drives (R225): what it holds. -/
structure ColdStored where
  tenant : Nat := 0
  gathering : Nat := 0
  half : Bool := false
  extents : List Extent := []
  colophon : Option Colophon := none
  deriving DecidableEq, Repr

structure BindEng where
  coldEn : Bool := true
  colophonTimeoutMs : Nat := 5000
  readTimeoutMs : Nat := 50
  xferTimeoutMs : Nat := 100
  reads : Nat := 0
  repairs : Nat := 0
  digestBad : Nat := 0
  drives : Tab Nvme := []
  extents : List Extent := []
  xfersOut : List XferOut := []
  readsOut : List ReadOut := []
  staleStreams : List W32 := []      -- streams of requests that a reset of BIND has ended: their replies are stale (R274)
  xfersSeen : List (Place × W32) := []   -- (source, STREAM) applied once
  cold : Option ColdCopy := none
  rebuilds : List Rebuild := []
  nextId : Nat := 0                  -- of jobs and degraded reads
  jobs : List RestoreJob := []
  coldStore : List ColdStored := []
  groupPushes : List (W64 × List Byte) := []
  pushed : List W64 := []            -- signatures that this GLT has pushed (R222)
  repairDue : List (Nat × Nat) := [] -- extents and pages here that failed R203 and wait for their repair (R213)
  deriving DecidableEq, Repr

/-! ## The sentinel (chapter 9) -/

structure Engine where
  busy : Bool := false
  unit : BitVec 12 := 0
  progress : W32 := 0
  changedAt : Ns := 0
  hung : Bool := false
  deriving DecidableEq, Repr

/-- Sentinel margin-ring record (Table 9.7). -/
structure SnMargin where
  time : BitVec 48 := 0
  event : Byte := 0
  pc : W32 := 0
  arg : W32 := 0
  deriving DecidableEq, Repr

/-- A block of a sampled tile still to fetch, or being fetched: which operand and its index. -/
structure TileBlock where
  which : Fin 4 := 0                 -- 0 A, 1 B, 2 output, 3 C
  idx : Nat := 0
  addr : Nat := 0
  elemBytes : Nat := 0
  scaleAddr : Nat := 0
  scaleBytes : Nat := 0
  got : List Byte := []              -- block bytes with the seal, in ascending offset
  gotScale : List Byte := []
  deriving DecidableEq, Repr

/-- A sampled tile's fetch. -/
structure Fetch where
  tag : W16 := 0
  hdr : TileHdr := {}
  todo : List TileBlock := []
  cur : Option TileBlock := none
  done : List TileBlock := []
  discard : Bool := false            -- its domain was reset (R252)
  stream : Option W16 := none        -- the record's stream, once begun (R239)
  lost : Bool := false               -- that stream was cut with the Tether: nothing of it is sent again (R242)
  deriving DecidableEq, Repr

/-- A page of the push buffer (R185). -/
structure PushPage where
  region : Nat := 0
  page : Nat := 0
  urgent : Bool := false
  edition : Byte := 0
  domain : Byte := 0xFF
  data : List Byte := []
  sentAs : Option W16 := none        -- its stream number while unacknowledged
  readTime : BitVec 48 := 0
  gathering : Nat := 0
  deriving DecidableEq, Repr

/-- A page read under way on UCIe. -/
structure PageRead where
  region : Nat := 0
  page : Nat := 0
  urgent : Bool := false
  data : List Byte := []
  discard : Bool := false
  deriving DecidableEq, Repr

/-- A first-write request waiting for its page. -/
structure FwWait where
  tag : W16 := 0
  addr : Nat := 0
  region : Nat := 0
  page : Nat := 0
  at' : Ns := 0
  deriving DecidableEq, Repr

/-- An MRD or MWR outstanding on the Hinge. -/
inductive HingeUse where
  | tile | page | readback
  deriving DecidableEq, Repr

structure HingeReq where
  tag : W16 := 0
  use : HingeUse := .tile
  addr : Nat := 0
  bytes : Nat := 0
  got : Nat := 0
  at' : Ns := 0
  deriving DecidableEq, Repr

/-- A restore page being written and read back (R243). -/
structure RestoreWork where
  push : RestorePush := {}
  tags : List W16 := []              -- its MWRs without a WACK
  back : List Byte := []
  deriving DecidableEq, Repr

/-- A stream open at a receiver (R240). -/
structure OpenStream where
  stream : W16 := 0
  kind : StreamKind := .control
  got : Nat := 0
  total : Nat := 0
  last : Ns := 0
  bytes : List Byte := []
  deriving DecidableEq, Repr

/-- An item waiting to leave the sentinel in the queue of priority 3 (R188). -/
inductive SnItem where
  | fetching (tapSeq : W32)                -- the place of a record whose fetch is not done yet
  | record (hdr : TileHdr) (data : List Byte) (stream : Option W16)
  | void (v : TileVoid)
  | close (gathering : Nat) (step : W32)   -- follows every record sampled before the step
  | holdMark (n : NoteMsg)
  deriving DecidableEq, Repr

structure Sentinel where
  powered : Bool := false
  phase : SnPhase := .down
  holdOnLossEn : Bool := true
  hangEn : Bool := true
  hangLimitMs : Nat := 20
  streamTimeoutUs : Nat := 2000
  trimSel : BitVec 7 := 0
  temps : List Int := []             -- diodes 0-7, 0.25 °C steps
  ucieWidth : BitVec 2 := 0
  ucieRate : BitVec 3 := 0
  decl : Option Declare := none      -- the accepted declaration
  lastDecl : Option Declare := none  -- accepted before the last UCIe link-down
  sntHold : Bool := false
  holdPending : List Ns := []        -- HOLD_AT times that have not come yet
  releaseDue : Option Ns := none
  holdTime : Option Ns := none       -- the HOLD_AT time that raised SNT_HOLD last
  raisedAt : Ns := 0
  reachWait : Bool := false
  holdLast : W32 := 0
  tetherUp : Bool := false
  tetherDownAt : Ns := 0
  tapSeq : W32 := 0
  tapOut : Nat := 0                  -- TAP_POSTs without a TAP_DONE
  step : W32 := 0
  rates : List (Option Nat) := [some 6, some 6, some 6, some 6, some 6, some 6, some 6, some 6]
  seed : W64 := 0
  draws : Nat := 0
  fetches : List Fetch := []
  shipQ : List SnItem := []          -- records, voids, closes and HOLD_MARK in order
  armed : Bool := false
  gathering : Nat := 0
  regions : List RegionDesc := []
  copied : List (Nat × Nat) := []    -- (region, page)
  pushBuf : List PushPage := []
  urgentQ : List (Nat × Nat) := []
  pageReads : List PageRead := []
  readFails : List (Nat × Nat × Nat) := []
  fwWait : List FwWait := []
  urgentCredit : Nat := 0
  preCredit : Nat := 0
  paceMBs : Nat := 0
  pregatherEn : Bool := true
  reqs : List HingeReq := []
  tileRun : Nat := 0                 -- bytes read for tiles since the sentinel last switched (R236)
  nextTag : W16 := 0
  restore : List RestoreWork := []
  engines : Tab Engine := []
  margins : Tab (List SnMargin) := []    -- by engine, newest first, at most 256
  trimBits : List Nat := []
  trimChanges : Nat := 0
  trimWait : List (Nat × Bool × Ns) := []
  editions : Tab Byte := []
  inReset : List Nat := []
  domResets : List (Nat × Ns) := []
  openIn : List OpenStream := []     -- at the sentinel
  brokenIn : List W16 := []
  openGlt : List OpenStream := []    -- at the GLT's end of port n
  brokenGlt : List W16 := []
  nextStream : W16 := 0
  nextStreamGlt : W16 := 0
  sentS : List (W16 × TetherMsg) := []   -- streams that the sentinel sends again until acknowledged (R242)
  sentG : List (W16 × TetherMsg) := []   -- the same at the GLT's end
  portEdition : Byte := 0            -- edition agreed at the last handshake
  cntPosted : Nat := 0
  cntSampled : Nat := 0
  cntRefused : Nat := 0
  cntSealFail : Nat := 0
  cntBroken : Nat := 0
  cntLateDrop : Nat := 0
  cntHingeDrop : Nat := 0
  timeSkew : Int := 0                -- local spine time minus the GLT's, ns
  fwBank : Bool := false
  fwImage : FwImage := {}            -- the running image
  fwBuf : List Byte := []            -- chunks of an image that is on its way (Table 9.5)
  fwSecond : Option FwImage := none  -- the verified image in the second bank
  fwSwitchAt : Option Ns := none
  fwGapEnd : Option Ns := none       -- the firmware gap of the last switch is open until then (R255)
  fwMinSvn : Nat := 0
  deriving DecidableEq, Repr

/-! ## Reset domains and Kettle routes (chapter 10) -/

structure Domain where
  edition : Byte := 0
  inReset : Bool := false
  seen : Byte := 0                   -- the edition that the other sides accept since the last handshake (R272 step 4)
  ready : Bool := true               -- that handshake is complete
  withdrawn : Bool := false
  resets : List Ns := []
  holdReset : Bool := false
  beganAt : Ns := 0
  pulseEnd : Option Ns := none       -- a pulse releases the reset then (Table 10.11)
  deriving DecidableEq, Repr

inductive KtPhase where
  | idle | busy | done
  deriving DecidableEq, Repr

structure KtRoute where
  phase : KtPhase := .idle
  overrun : Bool := false
  result : Byte := 0
  done : W16 := 0
  args : List W32 := [0, 0, 0, 0]
  token : List W32 := []
  nonce : W64 := 0
  data : List W32 := []
  op : Byte := 0                     -- the operation in progress
  waitSlot : Option (Nat × Ns) := none   -- an operation that reaches a sentinel, and when it was issued
  unreached : Bool := false          -- and a port domain on its way was down (R275)
  selfResets : List (Nat × Ns) := [] -- resets of the route's own domain: their actions, and when they take effect (R276)
  deriving DecidableEq, Repr

structure HoldRegs where
  minLeadUs : Nat := 200
  cutTimeoutMs : Nat := 10
  staleCount : Nat := 0
  escCount : Nat := 3
  escWindowS : Nat := 600
  nextHoldId : W32 := 0
  domains : Tab Domain := []
  routes : List (Route × KtRoute) := []
  mgmtLastSeq : Option W16 := none
  mgmtLastReply : W32 × List W32 := (0, [])
  kettleEnds : Tab Ns := []          -- by slot, when its last released Kettle hold ends
  deriving DecidableEq, Repr

/-! ## Suspects (chapter 11) -/

inductive EntryState where
  | free | opened | watch | suspect
  deriving DecidableEq, Repr

/-- A suspect-table entry (Table 11.10). -/
structure Entry where
  state : EntryState := .free
  target : Place := 0
  kind : RepKind := .tileFail
  lastKind : RepKind := .tileFail    -- of the latest report
  isLocal : Bool := false
  silent : Bool := false
  selfRep : Bool := false
  reporterRule : Bool := false
  isolating : Bool := false
  first : Place := 0
  last : Place := 0
  reporters : List Place := []       -- distinct reporters in the current window
  aside : List Place := []           -- those whose reports the reporter rule set aside (R291)
  count : Nat := 0
  merged : Nat := 0                  -- reports merged in the current window
  mergedConcl : Bool := false        -- a conclusive one is among them
  firstTime : Ns := 0
  lastTime : Ns := 0
  decided : Ns := 0
  temp : W16 := 0x8000
  voltage : W16 := 0xFFFF
  context : W32 := 0
  windowEnd : Ns := 0
  probeUntil : Option Ns := none
  probed : Bool := false             -- the target was probed in the current window
  probeId : W16 := 0
  ours : Bool := false               -- this GLT is the arbiter
  deriving DecidableEq, Repr

structure Suspects where
  auto : Bool := true
  autoTipin : Bool := true
  isolateEn : Bool := true
  mergeWindowUs : Nat := 1000
  probeTimeoutMs : Nat := 5
  ageS : Nat := 60
  trimMax : Nat := 4
  linkGraceMs : Nat := 50
  restoreTimeoutS : Nat := 60
  isolateMax : Nat := 4
  reports : Nat := 0
  unmerged : Nat := 0
  sel : BitVec 12 := 0
  entries : Tab Entry := []
  named : List Place := []           -- distinct targets this GLT has named in its current windows
  byReporter : List (Place × List Place) := []
  nextProbe : W16 := 0
  fwBeatAt : Ns := 0                 -- when the firmware heartbeat last advanced
  told : List Place := []            -- trays that a SUSPECT broadcast has named (R294)
  deriving DecidableEq, Repr

/-! ## Clocks and DDR (chapter 12) -/

inductive PllState where
  | off | locking | ready | relocking | failed
  deriving DecidableEq, Repr

structure Pll where
  srcB : Bool := false
  state : PllState := .off
  losses : Nat := 0
  stopped : Bool := false
  lostAt : Ns := 0
  deriving DecidableEq, Repr

structure RefClk where
  present : Bool := false
  fresh : Bool := false              -- its edges came back within the measurement window under way (R325)
  ready : Bool := false
  drift : Bool := false
  third : Bool := false
  cleanWindows : Nat := 0
  deriving DecidableEq, Repr

structure Ssc where
  en : Bool := false
  depth : Nat := 0
  freq : Nat := 33
  deriving DecidableEq, Repr

structure DdrCh where
  tempTrained : Int := 0
  tempNow : Int := 0
  pending : Bool := false
  selfRefresh : Bool := false
  trained : Bool := false
  failedAt : Option Ns := none
  deriving DecidableEq, Repr

structure Clocks where
  mpllAuto : Bool := true
  driftEn : Bool := true
  driftPpm : Nat := 250
  dAB : Int := 0
  dAS : Int := 0
  dBS : Int := 0
  refs : Tab RefClk := []
  plls : Tab Pll := []
  ssc : Tab Ssc := []
  cpllFreq : Nat := 28
  autoRetrain : Bool := true
  ddrRate : BitVec 3 := 0
  twoDimms : Bool := false
  tempDelta : Nat := 10
  chs : Tab DdrCh := []
  retraining : BitVec 8 := 0
  lastRetrain : Ns := 0
  ce : Nat := 0
  ue : Nat := 0
  deriving DecidableEq, Repr

/-! ## Host interface and firmware (chapter 13) -/

/-- A command ring (Table 13.2). -/
structure CRing where
  sqBase : W64 := 0
  cqBase : W64 := 0
  sqLog : Nat := 4
  cqLog : Nat := 4
  en : Bool := false
  vector : Nat := 0
  maxOut : Nat := 32
  sqTail : Nat := 0
  sqHead : Nat := 0
  cqHead : Nat := 0
  cqTail : Nat := 0
  phase : Bool := true
  stalled : Bool := false
  stalledAt : Ns := 0
  fenceWait : Bool := false          -- its next packet has FENCE and waits for the earlier commands (R344)
  error : Bool := false
  coalN : Nat := 1
  coalUs : Nat := 0
  coalPending : Nat := 0
  coalSince : Ns := 0
  deriving DecidableEq, Repr

/-- A command that has been fetched and not yet replied to. -/
structure CmdOut where
  iss : Issuer := {}
  opcode : W16 := 0
  fence : Bool := false
  quiet : Bool := false
  early : Bool := false
  deriving DecidableEq, Repr

structure VfRec where
  tenant : Option Nat := none
  intPend : BitVec 4 := 0
  intEn : BitVec 4 := 0
  deriving DecidableEq, Repr

structure PfRec where
  intPend : W16 := 0
  intEn : W16 := 0
  irqPinEn : W16 := 0
  numVfs : Nat := 0
  sriov : Bool := false
  lastVec : Nat := 0                 -- vector of the ring that last replied, for group 0
  vfs : Tab VfRec := []
  deriving DecidableEq, Repr

inductive FwPhase where
  | boot | running | rebinding | gap
  deriving DecidableEq, Repr

/-- A rebind under way (R360-R364). -/
structure Rebind where
  iss : Issuer := {}
  kind : Nat := 0
  advance : Bool := false
  at' : Ns := 0
  readySeen : Bool := false
  blockDone : Bool := false
  switched : BitVec 16 := 0
  failed : BitVec 16 := 0
  pending : BitVec 16 := 0
  deriving DecidableEq, Repr

/-- A firmware log entry (Table 13.23). -/
structure LogEntry where
  time : Ns := 0
  seq : Nat := 0
  cls : Nat := 0
  level : Nat := 0
  core : Byte := 0
  pc : W32 := 0
  code : W32 := 0
  arg : W64 := 0
  deriving DecidableEq, Repr

/-- A decision of firmware that fell due while its cores did not run (R361, R327). -/
inductive FwTask where
  | judge (entry : Nat) (r : RepBody) (aside : Bool)
  | weigh (entry : Nat)
  | suspect (tenant : Nat) (target : Place)
  | cut (tenant : Nat)
  | restored (tenant : Nat) (from' : Place) (status : Byte)
  | voteWait (tenant : Nat)
  | colophon (tenant gathering : Nat)
  deriving DecidableEq, Repr

structure Firmware where
  logEn : Bool := true
  logLevel : Nat := 3
  bank : Bool := false
  pair : Bool := false
  single : Bool := false
  phase : FwPhase := .boot
  standbyReady : Bool := false
  ucodeBank : Bool := false
  sntBank : Bool := false
  heartbeat : W32 := 0
  version : W32 := 0
  svn : Nat := 0
  traceEn : W64 := 0
  trialS : Nat := 600
  rebindLeadMs : Nat := 10
  specPeriodS : Nat := 3600
  specRuns : Nat := 0
  specFails : Nat := 0
  logWr : Nat := 0
  log : List LogEntry := []
  -- the NOR device: boot record, banks, fused minima, specimen store (not lost with power)
  bootBank : Bool := false
  banks : List (Nat × Bool × FwImage) := []   -- kind, bank, verified image
  minSvn : List Nat := [0, 0, 0, 0]
  specStore : Option FwImage := none
  rebind : Option Rebind := none
  trialAdvance : Bool := false
  trialEnd : Option Ns := none       -- the running image is on trial until then (R362)
  checkpoint : List CmdOut := []
  handover : List CmdOut := []
  faultedPair : Bool := false
  down : Bool := false               -- no pair is left: only the Kettle path serves
  specAt : Ns := 0                   -- start of the last SPEC_PERIOD
  specTurn : List Nat := []          -- cores still to run a specimen in this period (R366)
  tasks : List FwTask := []          -- decisions that wait for the cores, oldest first
  deriving DecidableEq, Repr

structure HostIf where
  pfs : Tab PfRec := []
  rings : List (Src × Nat × CRing) := []
  outstanding : List CmdOut := []
  done : List Reply := []            -- completed commands whose replies are not yet written
  nextFn : Nat := 0                  -- round-robin position: function (257 times the PF, plus the VF)
  nextRing : Tab Nat := []           -- and the ring within each function
  deriving DecidableEq, Repr

/-! ## Power, pins and sensors (chapter 15) -/

/-- An instruction of the test access port (R410): those of IEEE 1149.1 and 1149.6, and any other code. -/
inductive TapInstr where
  | bypass | idcode | sample | preload | extest | extestPulse | extestTrain | clamp | highz
  | other (code : Nat)
  deriving DecidableEq, Repr

/-- The test access port. -/
structure Tap where
  trstN : Bool := false              -- TRST_N, which the integrator holds low in service
  ir : TapInstr := .idcode
  unlocked : Bool := false           -- the security block has unlocked debug
  update : List Bool := []           -- the boundary register's latched values, which EXTEST drives
  deriving DecidableEq, Repr

structure Power where
  throttleEn : Bool := true
  capEn : Bool := true
  preferA : Bool := true
  aonSrc : BitVec 2 := 0             -- 0 A, 1 B, 2 AON_HOLD
  aValid : Bool := false
  bValid : Bool := false
  holdOk : Bool := false
  tripped : Bool := false
  alarmTemp : Nat := 100
  throttleTemp : Nat := 103
  capW : Nat := 150
  powerMw : Nat := 0
  droop : Byte := 0
  holdTestDue : Bool := true         -- a hold-up test is due: at AON power-on, and at HOLD_TEST (R398)
  temps : Tab Int := []              -- 24 sensors, 0.25 °C steps
  volts : Tab Nat := []              -- 10 rails, mV
  slewAon : BitVec 2 := 0
  driveAon : BitVec 2 := 1
  slewIo : BitVec 2 := 0
  driveIo : BitVec 2 := 1
  thermAlert : Bool := false         -- THERM_ALERT_N asserted
  thermTripN : Bool := true          -- THERM_TRIP_N, low when latched
  porstN : Bool := false
  sequenceHeld : Bool := false       -- R399: kept in reset until PORST_N is pulsed again
  aonUp : Bool := true               -- the AON domain runs
  aValidSince : Ns := 0
  lastWithhold : Ns := 0
  lastReturn : Ns := 0
  tap : Tap := {}
  deriving DecidableEq, Repr

/-! ## Why a step can stop -/

/-- No command of the block ends in a fault: every operand the constructors admit names a part that exists. -/
inductive Fault where
  /-- Raised by nobody: a place for an access to a part that does not exist (safe). -/
  | noSuchPart
  deriving DecidableEq, Repr

/-- Why a command is refused by the model. -/
inductive Refusal where
  /-- Raised only by an arm of Dispatch whose command has no meaning yet (safe). -/
  | notModelled (mnemonic : String)
  deriving DecidableEq, Repr

/-! ## The machine -/

/-- The block itself: everything the manual gives the parts to hold. -/
structure Block where
  freeCtr : Nat := 0                 -- the model's own: which free value comes next
  out : List Out := []
  leaf : List (Leaf × W32) := []
  ident : Ident := {}
  fly : Flyleaf := {}
  obs : Obs := {}
  time : SpineTime := {}
  spine : Spine := {}
  links : Tab Link := []
  col : Collator := {}
  ver : Verdicts := {}
  tenants : Tab TenantRec := []
  slots : Tab SlotRec := []
  gt : GatherEng := {}
  bd : BindEng := {}
  sn : Tab Sentinel := []
  hr : HoldRegs := {}
  sus : Suspects := {}
  ck : Clocks := {}
  host : HostIf := {}
  fw : Firmware := {}
  pw : Power := {}
  deriving DecidableEq, Repr

/-- The block and the commands that wait for it, first in, first out. -/
structure State where
  pending : List Instr := []
  blk : Block := {}
  deriving DecidableEq, Repr

/-- The machine right after AON power-on, PORST_N low: every field at its reset value. -/
def State.reset : State := {}

end Sys2Proof.Machine
end

