-- ==== Sys2Proof/Machine/Operands.lean ====
section
/-!
DEFINITION. Machine/Operands.lean: the operand forms that every chapter shares: place addresses (Table 1.4), spine-time
stamps (R111), issuers and sources, and the status codes of Table 13.5.
-/

namespace Sys2Proof.Machine

/-! ## Place addresses -/

def placeLevel (p : Place) : Nat := field p 36 4
def placeHall (p : Place) : Nat := field p 33 3
def placeBlock (p : Place) : Nat := field p 27 6
def placeRack (p : Place) : Nat := field p 21 6
def placeTray (p : Place) : Nat := field p 16 5
def placeSlot (p : Place) : Nat := field p 12 4
def placeUnit (p : Place) : Nat := field p 0 12

/-- A place address from its fields (Table 1.4). -/
def mkPlace (level hall block rack tray slot unit : Nat) : Place :=
  BitVec.ofNat 40 (level * 2 ^ 36 + hall % 8 * 2 ^ 33 + block % 64 * 2 ^ 27 + rack % 64 * 2 ^ 21 +
    tray % 32 * 2 ^ 16 + slot % 16 * 2 ^ 12 + unit % 4096)

/-- How many low bits stand below a place's level: they are zero in a well-formed address (R19). -/
def placeLowBits : Nat → Nat
  | 0 => 0 | 1 => 12 | 2 => 16 | 3 => 21 | 4 => 27 | _ => 33

/-- R19: the level tag is 0-5 and every field below the level is zero. -/
def placeOk (p : Place) : Bool := placeLevel p ≤ 5 && p.toNat % 2 ^ placeLowBits (placeLevel p) == 0

/-- The tray-level place that holds a place of tray level or lower. -/
def trayOf (p : Place) : Place := mkPlace 2 (placeHall p) (placeBlock p) (placeRack p) (placeTray p) 0 0

/-- The accelerator-level place that holds a place. -/
def accelOf (p : Place) : Place :=
  mkPlace 1 (placeHall p) (placeBlock p) (placeRack p) (placeTray p) (placeSlot p) 0

/-- Whether `p` lies at or below `q`. -/
def placeWithin (p q : Place) : Bool :=
  decide (placeLevel p ≤ placeLevel q) &&
    (p.toNat % 2 ^ 36) / 2 ^ placeLowBits (placeLevel q) == (q.toNat % 2 ^ 36) / 2 ^ placeLowBits (placeLevel q)

/-- This GLT's tray-level place (R20). -/
def ownPlace (b : Block) : Place :=
  mkPlace 2 b.ident.hall.toNat b.ident.block.toNat b.ident.rack.toNat b.ident.tray.toNat 0 0

/-- The accelerator-level place of slot `n` of this tray (R20). -/
def slotPlace (b : Block) (n : Nat) : Place :=
  mkPlace 1 b.ident.hall.toNat b.ident.block.toNat b.ident.rack.toNat b.ident.tray.toNat n 0

/-- The unit-level place of a unit of slot `n` of this tray (R20). -/
def unitPlace (b : Block) (n u : Nat) : Place :=
  mkPlace 0 b.ident.hall.toNat b.ident.block.toNat b.ident.rack.toNat b.ident.tray.toNat n u

/-- Whether a place lies on this tray. -/
def onTray (b : Block) (p : Place) : Bool := trayOf p == ownPlace b

/-! ## Spine time -/

def nsPerSec : Nat := 1000000000

/-- Spine time as nanoseconds (the fraction of R154 is held beside it). -/
def nowNs (b : Block) : Ns := b.time.sec.toNat * nsPerSec + b.time.nsec

/-- The 64-bit stamp of R111. -/
def r111 (t : Ns) : W64 := BitVec.ofNat 64 (t / nsPerSec % 2 ^ 34 * 2 ^ 30 + t % nsPerSec)

/-- A spine time in R111 form. -/
def r111Ns (w : W64) : Ns := w.toNat / 2 ^ 30 * nsPerSec + w.toNat % 2 ^ 30

/-- A spine time given as SEC and NSEC operands. -/
def secNs (sec nsec : Nat) : Ns := sec * nsPerSec + nsec

/-- Spine time modulo 2⁴⁸ ns, as records of margin rings and tiles hold it. -/
def stamp48 (t : Ns) : BitVec 48 := BitVec.ofNat 48 t

/-! ## Sources and issuers -/

/-- A command that came through a PF's own rings (R28: VF 0 is the PF itself). -/
def isPf (i : Issuer) : Bool := i.vf.val == 0

/-- The administrating PF (Table 1.6). -/
def isAdmin (b : Block) (i : Issuer) : Bool := isPf i && i.pf.val == b.ident.adminPf

def srcPf : Src → Nat
  | .pf n => n.val
  | .vf p _ => p.val

def srcIsPf : Src → Bool
  | .pf _ => true
  | .vf _ _ => false

/-- The function that issued a command, as the source of its ring. -/
def issSrc (i : Issuer) : Src := if i.vf.val = 0 then .pf i.pf else .vf i.pf i.vf

/-! ## Status codes (Table 13.5) -/

def stOk : Byte := 0x00
def stPending : Byte := 0x01
def stRefused : Byte := 0x02
def stBadOpcode : Byte := 0x03
def stBadParam : Byte := 0x04
def stNoResource : Byte := 0x05
def stNotAuthorised : Byte := 0x06
def stTenantMismatch : Byte := 0x07
def stShapeMismatch : Byte := 0x08
def stTimeout : Byte := 0x09
def stStaleEdition : Byte := 0x0A
def stHeld : Byte := 0x0B
def stWithdrawn : Byte := 0x0C
def stInternal : Byte := 0x0F

end Sys2Proof.Machine
end

