-- ==== Sys2Proof/Machine/Ops.lean ====
section
/-!
DEFINITION. Machine/Ops.lean: the named reads and writes of the Block's tables, the output log, free values and
counters.  Every meaning is built from these.
-/

namespace Sys2Proof.Machine

/-- A command's whole effect: a function on the Block; the queue is untouched. -/
def act (s : State) (f : Block → Block) : Host.Outcome State Fault Refusal := .next { s with blk := f s.blk }

/-- Applies `f` when a condition holds. -/
def onlyIf (c : Bool) (f : Block → Block) (b : Block) : Block := if c then f b else b

/-- Applies a step for each item of a list, first to last. -/
def each {α : Type} (l : List α) (f : α → Block → Block) (b : Block) : Block := foldOver (fun b x => f x b) b l

/-- Logs something the block sends. -/
def emit (b : Block) (o : Out) : Block := { b with out := b.out ++ [o] }

/-- Logs several outputs in order. -/
def emits (b : Block) (l : List Out) : Block := { b with out := b.out ++ l }

/-- The value that the manual leaves open at this point. -/
def freeVal (b : Block) : Nat := Config.freeNat b.freeCtr

/-- Moves on to the next open value. -/
def takeFree (b : Block) : Block := { b with freeCtr := b.freeCtr + 1 }

/-! ## Tables -/

def getTen (b : Block) (t : Nat) : TenantRec := tabGet {} b.tenants t
def setTen (b : Block) (t : Nat) (r : TenantRec) : Block := { b with tenants := tabPut b.tenants t r }
def modTen (b : Block) (t : Nat) (f : TenantRec → TenantRec) : Block := setTen b t (f (getTen b t))

def getSlot (b : Block) (n : Nat) : SlotRec := tabGet {} b.slots n
def setSlot (b : Block) (n : Nat) (r : SlotRec) : Block := { b with slots := tabPut b.slots n r }
def modSlot (b : Block) (n : Nat) (f : SlotRec → SlotRec) : Block := setSlot b n (f (getSlot b n))

def getSn (b : Block) (n : Nat) : Sentinel := tabGet {} b.sn n
def setSn (b : Block) (n : Nat) (r : Sentinel) : Block := { b with sn := tabPut b.sn n r }
def modSn (b : Block) (n : Nat) (f : Sentinel → Sentinel) : Block := setSn b n (f (getSn b n))

def getLink (b : Block) (n : Nat) : Link := tabGet {} b.links n
def setLink (b : Block) (n : Nat) (r : Link) : Block := { b with links := tabPut b.links n r }
def modLink (b : Block) (n : Nat) (f : Link → Link) : Block := setLink b n (f (getLink b n))

/-- A core: unlisted cores hold the reset record, in the row and column their number gives. -/
def coreReset (n : Nat) : Core := { row := n / 32, col := n % 32 }
def getCore (b : Block) (n : Nat) : Core := tabGet (coreReset n) b.col.cores n
def setCore (b : Block) (n : Nat) (c : Core) : Block :=
  { b with col := { b.col with cores := tabPut b.col.cores n c } }
def modCore (b : Block) (n : Nat) (f : Core → Core) : Block := setCore b n (f (getCore b n))

def getPslot (b : Block) (n : Nat) : ProgSlot := tabGet {} b.col.slots n
def setPslot (b : Block) (n : Nat) (r : ProgSlot) : Block :=
  { b with col := { b.col with slots := tabPut b.col.slots n r } }
def modPslot (b : Block) (n : Nat) (f : ProgSlot → ProgSlot) : Block := setPslot b n (f (getPslot b n))

def getPort (b : Block) (n : Nat) : SpPort := tabGet {} b.spine.ports n
def setPort (b : Block) (n : Nat) (r : SpPort) : Block :=
  { b with spine := { b.spine with ports := tabPut b.spine.ports n r } }
def modPort (b : Block) (n : Nat) (f : SpPort → SpPort) : Block := setPort b n (f (getPort b n))

def getHop (b : Block) (n : Nat) : Hop := tabGet {} b.spine.hops n
def setHop (b : Block) (n : Nat) (r : Hop) : Block :=
  { b with spine := { b.spine with hops := tabPut b.spine.hops n r } }
def modHop (b : Block) (n : Nat) (f : Hop → Hop) : Block := setHop b n (f (getHop b n))

def getRing (b : Block) (n : Nat) : Ring := tabGet {} b.spine.rings n
def setRing (b : Block) (n : Nat) (r : Ring) : Block :=
  { b with spine := { b.spine with rings := tabPut b.spine.rings n r } }
def modRing (b : Block) (n : Nat) (f : Ring → Ring) : Block := setRing b n (f (getRing b n))

def getChan (b : Block) (n : Nat) : RedChan := tabGet {} b.spine.chans n
def setChan (b : Block) (n : Nat) (r : RedChan) : Block :=
  { b with spine := { b.spine with chans := tabPut b.spine.chans n r } }
def modChan (b : Block) (n : Nat) (f : RedChan → RedChan) : Block := setChan b n (f (getChan b n))

def getDom (b : Block) (d : Nat) : Domain := tabGet {} b.hr.domains d
def setDom (b : Block) (d : Nat) (r : Domain) : Block :=
  { b with hr := { b.hr with domains := tabPut b.hr.domains d r } }
def modDom (b : Block) (d : Nat) (f : Domain → Domain) : Block := setDom b d (f (getDom b d))

def getEntry (b : Block) (e : Nat) : Entry := tabGet {} b.sus.entries e
def setEntry (b : Block) (e : Nat) (r : Entry) : Block :=
  { b with sus := { b.sus with entries := tabPut b.sus.entries e r } }
def modEntry (b : Block) (e : Nat) (f : Entry → Entry) : Block := setEntry b e (f (getEntry b e))

def getPll (b : Block) (n : Nat) : Pll := tabGet {} b.ck.plls n
def setPll (b : Block) (n : Nat) (r : Pll) : Block := { b with ck := { b.ck with plls := tabPut b.ck.plls n r } }
def modPll (b : Block) (n : Nat) (f : Pll → Pll) : Block := setPll b n (f (getPll b n))

def getRef (b : Block) (n : Nat) : RefClk := tabGet {} b.ck.refs n
def setRef (b : Block) (n : Nat) (r : RefClk) : Block := { b with ck := { b.ck with refs := tabPut b.ck.refs n r } }
def modRef (b : Block) (n : Nat) (f : RefClk → RefClk) : Block := setRef b n (f (getRef b n))

def getDdr (b : Block) (n : Nat) : DdrCh := tabGet {} b.ck.chs n
def setDdr (b : Block) (n : Nat) (r : DdrCh) : Block := { b with ck := { b.ck with chs := tabPut b.ck.chs n r } }
def modDdr (b : Block) (n : Nat) (f : DdrCh → DdrCh) : Block := setDdr b n (f (getDdr b n))

def getPf (b : Block) (n : Nat) : PfRec := tabGet {} b.host.pfs n
def setPf (b : Block) (n : Nat) (r : PfRec) : Block := { b with host := { b.host with pfs := tabPut b.host.pfs n r } }
def modPf (b : Block) (n : Nat) (f : PfRec → PfRec) : Block := setPf b n (f (getPf b n))

def getVf (b : Block) (p v : Nat) : VfRec := tabGet {} (getPf b p).vfs v
def modVf (b : Block) (p v : Nat) (f : VfRec → VfRec) : Block :=
  modPf b p fun r => { r with vfs := tabPut r.vfs v (f (tabGet {} r.vfs v)) }

def getDrive (b : Block) (n : Nat) : Nvme := tabGet {} b.bd.drives n
def setDrive (b : Block) (n : Nat) (r : Nvme) : Block :=
  { b with bd := { b.bd with drives := tabPut b.bd.drives n r } }
def modDrive (b : Block) (n : Nat) (f : Nvme → Nvme) : Block := setDrive b n (f (getDrive b n))

/-! ## Command rings -/

def ringFind (l : List (Src × Nat × CRing)) (s : Src) (r : Nat) : CRing :=
  match l with
  | [] => {}
  | (x, i, c) :: t => if x = s ∧ i = r then c else ringFind t s r

def ringPut (l : List (Src × Nat × CRing)) (s : Src) (r : Nat) (c : CRing) : List (Src × Nat × CRing) :=
  match l with
  | [] => [(s, r, c)]
  | (x, i, d) :: t => if x = s ∧ i = r then (s, r, c) :: t else (x, i, d) :: ringPut t s r c

def getCr (b : Block) (s : Src) (r : Nat) : CRing := ringFind b.host.rings s r
def setCr (b : Block) (s : Src) (r : Nat) (c : CRing) : Block :=
  { b with host := { b.host with rings := ringPut b.host.rings s r c } }
def modCr (b : Block) (s : Src) (r : Nat) (f : CRing → CRing) : Block := setCr b s r (f (getCr b s r))

/-! ## Kettle routes -/

def routeFind (l : List (Route × KtRoute)) (r : Route) : KtRoute :=
  match l with
  | [] => {}
  | (x, k) :: t => if x = r then k else routeFind t r

def routePut (l : List (Route × KtRoute)) (r : Route) (v : KtRoute) : List (Route × KtRoute) :=
  match l with
  | [] => [(r, v)]
  | (x, k) :: t => if x = r then (r, v) :: t else (x, k) :: routePut t r v

def getRoute (b : Block) (r : Route) : KtRoute := routeFind b.hr.routes r
def setRoute (b : Block) (r : Route) (v : KtRoute) : Block :=
  { b with hr := { b.hr with routes := routePut b.hr.routes r v } }
def modRoute (b : Block) (r : Route) (f : KtRoute → KtRoute) : Block := setRoute b r (f (getRoute b r))

/-! ## Counters (Table 14.1) -/

/-- Adds to a counter, modulo 2⁶⁴ (R371). -/
def count (b : Block) (i n : Nat) : Block :=
  { b with obs := { b.obs with counters := tabPut b.obs.counters i (tabGet 0 b.obs.counters i + BitVec.ofNat 64 n) } }

/-- Zeroes `n` counters from `i` (R374). -/
def zeroCounters (b : Block) (i n : Nat) : Block :=
  { b with obs := { b.obs with counters := foldOver (fun t k => tabPut t k 0) b.obs.counters (upFrom i n) } }

def coreCounter (c k : Nat) : Nat := 4 * c + k
def portCounter (p k : Nat) : Nat := 2048 + 16 * p + k
def slotCounter (s k : Nat) : Nat := 2432 + 16 * s + k
def ddrCounter (c k : Nat) : Nat := 2688 + 8 * c + k
def bindCounter (k : Nat) : Nat := 2752 + k
def pfCounter (f k : Nat) : Nat := 2784 + 16 * f + k
def driveCounter (d k : Nat) : Nat := 2848 + 8 * d + k
def spineCounter (k : Nat) : Nat := 2880 + k

/-! ## Margin rings of ports (R375) -/

/-- The state code of LK_STATUS. -/
def linkStateCode : LinkState → Nat
  | .down => 0 | .training => 1 | .up => 2 | .retuning => 3 | .changing => 4 | .failed => 5

/-- Writes a port's margin-ring record; the ring keeps the 1,024 newest. -/
def portMargin (b : Block) (link : Nat) (event arg seq : Nat) (old new : LinkState) (detail : Nat) : Block :=
  let r : PortMargin := { time := stamp48 (nowNs b), event := BitVec.ofNat 8 event, arg := BitVec.ofNat 8 arg,
                          seq := BitVec.ofNat 16 seq, old := BitVec.ofNat 8 (linkStateCode old),
                          new := BitVec.ofNat 8 (linkStateCode new), detail := BitVec.ofNat 32 detail }
  let v := tabPut b.obs.portMargin link ((r :: tabGet [] b.obs.portMargin link).take 1024)
  { b with obs := { b.obs with portMargin := v } }

/-- A margin-ring record of a port whose link state does not change. -/
def portNote (b : Block) (link event arg seq detail : Nat) : Block :=
  let st := (getLink b link).state
  portMargin b link event arg seq st st detail

/-- The local spine time of a slot's sentinel (R244). -/
def snNow (b : Block) (slot : Nat) : Ns := ((nowNs b : Int) + (getSn b slot).timeSkew).toNat

/-- Writes a sentinel engine's margin-ring record; the ring keeps the 256 newest (Table 9.7). -/
def snMargin (b : Block) (slot engine : Nat) (event : Nat) (pc arg : W32) : Block :=
  let r : SnMargin := { time := stamp48 (snNow b slot), event := BitVec.ofNat 8 event, pc := pc, arg := arg }
  modSn b slot fun s => { s with margins := tabPut s.margins engine ((r :: tabGet [] s.margins engine).take 256) }

/-- Writes a core's margin-ring record; the ring keeps the 1,024 newest (Table 3.13). -/
def coreMargin (b : Block) (core : Nat) (event arg : Nat) (seq : Nat) (tenant : Nat) : Block :=
  let c := getCore b core
  let r : CoreMargin := { time := stamp48 (nowNs b), event := BitVec.ofNat 8 event, arg := BitVec.ofNat 8 arg,
                          pc := c.pc, slot := BitVec.ofNat 6 c.progSlot, tenant := tenant,
                          seq := BitVec.ofNat 16 seq }
  setCore b core { c with margin := (r :: c.margin).take 1024 }

/-! ## Tenants and slots -/

def liveTenants (b : Block) : List Nat := (b.tenants.filter fun (_, r) => r.exists').map Prod.fst

/-- ROLE values of SR_SLOT (Table 11.11). -/
def roleIdle : BitVec 2 := 0
def roleActive : BitVec 2 := 1
def roleSpare : BitVec 2 := 2
def roleWithdrawn : BitVec 2 := 3

/-- The tray-level places of a tenant's ranks, without repeats, in rank order: its participants. -/
def participants (t : TenantRec) : List Place := foldOver (fun l p => withEntry l (trayOf p)) [] t.places

/-- Whether this GLT serves a rank of the tenant. -/
def isParticipant (b : Block) (t : TenantRec) : Bool := t.places.any fun p => onTray b p

/-- The slots of this tray that serve the tenant, in rank order. -/
def tenantSlots (b : Block) (t : TenantRec) : List Nat :=
  foldOver (fun l p => if onTray b p then withEntry l (placeSlot p) else l) [] t.places

/-- The ranks that this tray serves, rising. -/
def localRanks (b : Block) (t : TenantRec) : List Nat :=
  (upFrom 0 t.places.length).filter fun r => onTray b (nthD 0 t.places r)

/-- The tenant that a slot of this tray serves, if any. -/
def slotTenant? (b : Block) (n : Nat) : Option Nat :=
  (b.tenants.find? fun (_, r) => r.exists' && (tenantSlots b r).contains n).map Prod.fst

/-- The rank that a slot serves in a tenant. -/
def slotRank? (b : Block) (t : TenantRec) (n : Nat) : Option Nat :=
  (localRanks b t).find? fun r => placeSlot (nthD 0 t.places r) == n

/-- The lead controller (R16). -/
def leadPlace (t : TenantRec) : Place := trayOf (nthD 0 t.places 0)
def isLead (b : Block) (t : TenantRec) : Bool := !t.places.isEmpty && leadPlace t == ownPlace b

/-- Whether the tenant is held on this GLT: its hold has fired and is not released (Table 10.12). -/
def holdActive (h : Hold) : Bool :=
  match h.phase with
  | .cutting | .held | .incomplete => true
  | .none | .scheduled => false
def tenantHeld (b : Block) (t : Nat) : Bool := holdActive (getTen b t).hold

/-- The creating PF, or the administrating PF (R348). -/
def fromOwnerPf (b : Block) (i : Issuer) : Bool :=
  isAdmin b i || (isPf i && i.pf.val == (getTen b i.tenant.val).creatingPf)

/-- The creating PF or the VF bound to the tenant. -/
def fromTenant (b : Block) (i : Issuer) : Bool :=
  let t := getTen b i.tenant.val
  i.pf.val == t.creatingPf && (i.vf.val == 0 || i.vf.val == t.vf)

/-- The creating PF, the tenant's VF, or the administrating PF. -/
def fromTenantOrAdmin (b : Block) (i : Issuer) : Bool := fromTenant b i || isAdmin b i

/-- Whether a stream of this message is sent again until it is acknowledged (R242): a NOTICE of its own end, a tile
record and a page push are not. -/
def tetherKept : TetherMsg → Bool
  | .ack _ _ _ | .tileRecord _ _ | .pagePush _ | .restorePush _ => false
  | .hello _ | .fwChunk _ _ | .policy _ | .release _ | .arrive _ _ | .holdAt _ | .releaseAt _ | .trim _ _ | .domain _ _
  | .note _ | .regRd _ | .regWr _ _ | .regData _ _ | .report _ | .written _ | .credit _ | .fwSwitch _
  | .timeExchange _ | .marginRead _ _ _ | .tileVoid _ | .intervalClose _ | .specimen _ _ => true

/-- The sentinel in a slot sends a message to its GLT as a new stream. -/
def snTell (b : Block) (slot : Nat) (m : TetherMsg) : Block :=
  let s := getSn b slot
  let sent := if tetherKept m then s.sentS ++ [(s.nextStream, m)] else s.sentS
  emit (setSn b slot { s with nextStream := s.nextStream + 1, sentS := sent }) (.toGlt slot m)
/-- The sentinel in a slot sends a Hinge message to its die. -/
def snHinge (b : Block) (slot : Nat) (m : HingeMsg) : Block := emit b (.hinge slot m)

end Sys2Proof.Machine
end

