-- ==== Sys2Proof/Machine/Transmit.lean ====
section
/-!
DEFINITION. Machine/Transmit.lean: the transmit queue of each link: traffic classes (R114), the share of suspect reports
(R115), and the replay buffer that gives a unit its link frame (R309, R310).
-/

namespace Sys2Proof.Machine

/-! ## Classes (Table 5.4) -/

/-- The traffic class of a cell. -/
def cellClass : CellBody → Nat
  | .sync _ | .delayReq _ _ | .delayResp _ _ | .timed _ _ _ => 1
  | .hold _ | .release _ | .mark _ | .cancel _ | .fold _ | .unfold _ _ | .census _ _ | .failover _ | .selftest => 2
  | .vote _ | .sewn _ | .barrier _ => 3
  | .reduce _ | .reduceX _ => 4
  | .report _ | .summary _ | .probe _ | .probeAck _ | .suspect _ | .restored _ _ _ => 5

/-- The class of a unit; a Tether's streams have none of Table 5.4 and keep their order. -/
def unitClass : TxUnit → Nat
  | .cell _ b => cellClass b
  | .seg _ _ _ => 6
  | .stream => 7

/-- Bytes of a data frame: header, payload and trailer (R112). -/
def frameSize (f : DataFrame) : Nat := f.length + 36

/-- How many segments of 512 bytes a data frame is sent in (R114). -/
def segments (f : DataFrame) : Nat := (frameSize f + 511) / 512

/-- Bytes that a unit takes of a link frame's body; a stream segment's are counted by its sender. -/
def unitBytes : TxUnit → Nat
  | .cell _ _ => 32
  | .seg _ f i => min 512 (frameSize f - 512 * i)
  | .stream => 0

/-! ## Leaving -/

/-- Suspect reports of the last 100 µs and one more stay within 1 % of the payload rate, 12,500 bytes a lane (R115,
Table 12.1). -/
def reportRoom (now : Ns) (k : Link) : Bool :=
  decide (32 * ((k.repTimes.filter fun t => decide (now < t + 100000)).length + 1) ≤ 12500 * k.width)

/-- A link whose traffic waits in its queue: a training, a retune, a width change, a widening (R313, R317, R318). -/
def linkPaused (now : Ns) (k : Link) : Bool :=
  decide (now < k.pausedUntil) ||
    match k.state with
    | .training | .failed | .retuning | .changing => true
    | .down | .up => false

/-- The unit that leaves next: none while the replay buffer is full or the link pauses; strict priority of class, and the
order of queueing within a class (R114); a report beyond its share waits (R115). -/
def nextUnit (now : Ns) (k : Link) : Option TxUnit :=
  if decide (64 ≤ k.txUnacked.length) || linkPaused now k then none
  else
    [1, 2, 3, 4, 5, 6, 7].findSome? fun c =>
      if c = 5 && !reportRoom now k then none else k.txWait.find? fun u => unitClass u == c

/-- The link's record once a unit has left it. -/
def linkSent (now : Ns) (k : Link) (u : TxUnit) : Link :=
  { k with waitFrom := if k.txUnacked.isEmpty then now else k.waitFrom, txWait := k.txWait.erase u, txUnacked := k.txUnacked ++ [k.txFseq], txUnits := k.txUnits ++ [u],
           txFseq := k.txFseq + 1,
           repTimes := if unitClass u = 5 then (k.repTimes.filter fun t => decide (now < t + 100000)) ++ [now] else k.repTimes }

/-- What a unit shows on the line: a cell; a data frame with its last segment. -/
def unitOut (b : Block) (l : Nat) (u : TxUnit) : Block :=
  match u with
  | .cell hdr x => count (emit b (.cell l hdr x)) (portCounter l 8) 1
  | .seg ty f i => if i + 1 = segments f then emit b (.frame l ty f) else b
  | .stream => b

/-- A unit leaves: it takes a link frame of its own (DESIGN CHOICE, log entry 158: R309 allows packing). -/
def leaveUnit (b : Block) (l : Nat) (u : TxUnit) : Block :=
  let b1 := setLink b l (linkSent (nowNs b) (getLink b l) u)
  unitOut (count (count b1 (portCounter l 0) 1) (portCounter l 2) (unitBytes u)) l u

/-- Sends what a link's queue lets go, at most so many units. -/
def drainUnits : Nat → Nat → Block → Block
  | 0, _, b => b
  | n + 1, l, b =>
    match nextUnit (nowNs b) (getLink b l) with
    | none => b
    | some u => drainUnits n l (leaveUnit b l u)

/-- Sends what a link's queue lets go. -/
def drainLink (b : Block) (l : Nat) : Block := drainUnits (getLink b l).txWait.length l b

/-- Queues units on a link. -/
def queueUnits (b : Block) (l : Nat) (us : List TxUnit) : Block :=
  drainLink (modLink b l fun k => { k with txWait := k.txWait ++ us }) l

/-- A cell is queued on a port (UNITS_TX, Table 14.2, counts it as it leaves). -/
def cellOut (b : Block) (p : Nat) (hdr : CellHdr) (body : CellBody) : Block := queueUnits b p [.cell hdr body]

/-- A data frame is queued on a port, segment by segment. -/
def frameOut (b : Block) (p : Nat) (ty : FrameType) (f : DataFrame) : Block :=
  queueUnits b p ((upFrom 0 (segments f)).map fun i => .seg ty f i)

/-- What waits in a link's queue is taken out of it: it goes out elsewhere. -/
def clearQueue (b : Block) (l : Nat) : Block := modLink b l fun k => { k with txWait := [] }

/-! ## Tether messages -/

/-- Sends a message to the sentinel in a slot over port Tn, link 8 + n, as a new stream (Table 9.4). -/
def tellSn (b : Block) (slot : Nat) (m : TetherMsg) : Block :=
  let s := getSn b slot
  let sent := if tetherKept m then s.sentG ++ [(s.nextStreamGlt, m)] else s.sentG
  let b1 := setSn b slot { s with nextStreamGlt := s.nextStreamGlt + 1, sentG := sent }
  count (queueUnits (emit b1 (.toSentinel slot m)) (8 + slot) [.stream]) (portCounter (8 + slot) 8) 1

end Sys2Proof.Machine
end

