-- ==== Sys2Proof/Machine/Flags.lean ====
section
/-!
DEFINITION. Machine/Flags.lean: error flags and leaf bits (R10, R11, R353), pending groups and MSI-X (R354), the Flyleaf
writer (R377-R383) and the completion of commands (R344-R346).
-/

namespace Sys2Proof.Machine

/-! ## What a record says of its part -/

/-- Where a record's temperature and voltage are measured (Table 14.6). -/
inductive Meas where
  | sensor (s rail : Nat)
  | ddr (ch : Nat)
  | slot (n : Nat)
  deriving DecidableEq, Repr

/-- What a record names: place, GLT domain, source, context, tenant, argument, measurement, Kettle mark. -/
structure About where
  place : Place := 0
  domain : Nat := 0xFF
  source : Nat := 0
  context : Nat := 0
  tenant : Option Nat := none
  arg : Nat := 0
  meas : Meas := .sensor 0 0
  kettle : Bool := false
  deriving DecidableEq, Repr

/-- The accelerator's sensors read over the sideband, while the slot has power (Table 9.8). -/
def accTemps (b : Block) (n : Nat) : List Int :=
  if (getSlot b n).on then (upFrom 0 8).map fun i => (BitVec.ofInt 12 (Config.accelTemp b.freeCtr i)).toInt else []

/-- The sensors of a slot that count: the accelerator's, otherwise the sentinel's diodes (Table 14.6). -/
def slotTemps (b : Block) (n : Nat) : List Int := if (accTemps b n).isEmpty then (getSn b n).temps else accTemps b n

/-- A measured temperature is a free value of the die; a DIMM's is the last one read. -/
def measTemp (b : Block) : Meas → W16
  | .sensor _ _ => BitVec.ofNat 16 (freeVal b)
  | .ddr c => BitVec.ofInt 16 (4 * (getDdr b c).tempNow)
  | .slot n =>
    match slotTemps b n with
    | [] => 0x8000
    | x :: r => BitVec.ofInt 16 (foldOver max x r)

/-- A measured voltage in mV, a free value. -/
def measVolt (b : Block) : W16 := BitVec.ofNat 16 (freeVal b)

/-- Keeps the measurement in the sensor registers that show it (R411, Table 15.12). -/
def keepMeas (b : Block) (m : Meas) (t v : W16) : Block :=
  match m with
  | .sensor s r =>
    { b with pw := { b.pw with temps := tabPut b.pw.temps s (t.toInt % 4096), volts := tabPut b.pw.volts r v.toNat } }
  | .ddr _ => { b with pw := { b.pw with volts := tabPut b.pw.volts 4 v.toNat } }
  | .slot _ => b

/-! ## The Flyleaf ring -/

/-- Appends a record with the next SEQ; the ring holds the 65,536 newest (R378, R381).  Overwriting a record that
was not copied counts it lost and moves the mirror on to the oldest record on chip (R383). -/
def flyAppend (f : Flyleaf) (r : FlyRec) : Flyleaf :=
  let ring := f.ring ++ [{ r with seq := f.next }]
  if ring.length ≤ 65536 then { f with ring := ring, next := f.next + 1 }
  else
    let old := (nthD {} ring 0).seq
    if old ≤ f.mirrored then { f with ring := ring.drop 1, next := f.next + 1 }
    else { f with ring := ring.drop 1, next := f.next + 1, mirrored := old, mirrorLost := f.mirrorLost + 1,
                  lapFirst := some (f.lapFirst.getD old) }

/-- A record's FLAGS (Table 14.7). -/
def flyFlags (b : Block) (summary kettle : Bool) : Byte :=
  BitVec.ofNat 8 (bit (b.time.degraded || decide (b.time.state ≠ .locked)) + 2 * bit summary + 4 * bit kettle)

/-- The record of an event, without its SEQ. -/
def flyRecOf (b : Block) (type' : Nat) (a : About) (summary : Bool) (temp volt : W16) : FlyRec :=
  { type' := BitVec.ofNat 16 type', time := nowNs b, place := a.place, domain := BitVec.ofNat 8 a.domain,
    edition := if a.domain = 0xFF then 0 else (getDom b a.domain).edition, flags := flyFlags b summary a.kettle,
    temp := temp, voltage := volt, context := BitVec.ofNat 32 a.context, source := BitVec.ofNat 32 a.source,
    tenant := a.tenant, arg := BitVec.ofNat 128 a.arg }

/-- Writes a Flyleaf record: measures, and appends (R377-R381).  A Flyleaf that stopped at a power loss writes none
(R385). -/
def flyWrite (b : Block) (type' : Nat) (a : About) (summary : Bool := false) : Block :=
  if b.fly.stopped then b else
  let temp := measTemp b a.meas
  let b1 := takeFree b
  let volt := measVolt b1
  let b2 := keepMeas (takeFree b1) a.meas temp volt
  { b2 with fly := flyAppend b2.fly (flyRecOf b2 type' a summary temp volt) }

/-! ## Leaf registers -/

def leafFind : List (Leaf × W32) → Leaf → W32
  | [], _ => 0
  | (x, v) :: r, l => if x = l then v else leafFind r l

def leafPut : List (Leaf × W32) → Leaf → W32 → List (Leaf × W32)
  | [], l, v => [(l, v)]
  | (x, w) :: r, l, v => if x = l then (l, v) :: r else (x, w) :: leafPut r l v

/-- A leaf register's value. -/
def leafGet (b : Block) (l : Leaf) : W32 := leafFind b.leaf l

def leafBit (b : Block) (l : Leaf) (i : Nat) : Bool := (leafGet b l).getLsbD i

/-- The cause groups of a leaf bit (Table 13.12); BD_ERR.COLD_FAIL is bit 10 of BD_ERR and raises group 13 as well. -/
def leafGroups : Leaf → Nat → List Nat
  | .id, _ => []
  | .col, _ => [1] | .colv, _ => [1]
  | .gt, _ => [2] | .ddrUe, _ => [2]
  | .bd, i => if i = 10 then [2, 13] else [2]
  | .sp, _ => [3] | .lkS _, _ => [3]
  | .lkT _, _ => [4] | .sn _, _ => [4]
  | .st, _ => [5]
  | .ck, _ => [6]
  | .rs, _ => [7] | .sr, _ => [7]
  | .fl, _ => [9]
  | .pt, _ => [10]
  | .fw, _ => [11]
  | .hl _, _ => [12]
  | .rp _, _ => [13]
  | .sec _, _ => [14]

/-- The order of a leaf register within its group (R379). -/
def leafIndex : Leaf → Nat
  | .colv => 1 | .bd => 1 | .ddrUe => 2 | .lkS _ => 1 | .sn _ => 1 | .sr => 1
  | .id | .col | .gt | .sp | .lkT _ | .st | .ck | .rs | .fl | .pt | .fw | .hl _ | .rp _ | .sec _ => 0

/-- TYPE of a leaf bit's record (R379); ID_ERR has no group and no record. -/
def leafType (l : Leaf) (i : Nat) : Option Nat :=
  match leafGroups l i with
  | [] => none
  | g :: _ => some (g * 256 + leafIndex l * 32 + i)

/-- The PFs on which a leaf register pends its groups: every PF, but only its own for a register of which each PF has a
copy (R353, Table 13.13). -/
def leafPfs : Leaf → List Nat
  | .hl p => [p] | .rp p => [p] | .sec p => [p]
  | .id | .col | .colv | .gt | .bd | .ddrUe | .sp | .lkS _ | .lkT _ | .sn _ | .st | .ck | .rs | .sr | .fl | .pt
  | .fw => [0, 1, 2, 3]

/-- The registers that one event sets: RP_ERR and SEC_ERR have a copy in every PF (Table 13.13). -/
def leafCopies : Leaf → List Leaf
  | .rp _ => [.rp 0, .rp 1, .rp 2, .rp 3]
  | .sec _ => [.sec 0, .sec 1, .sec 2, .sec 3]
  | .hl p => [.hl p]
  | .id => [.id] | .col => [.col] | .colv => [.colv] | .gt => [.gt] | .bd => [.bd] | .ddrUe => [.ddrUe] | .sp => [.sp]
  | .lkS p => [.lkS p] | .lkT n => [.lkT n] | .sn n => [.sn n] | .st => [.st] | .ck => [.ck] | .rs => [.rs] | .sr => [.sr]
  | .fl => [.fl] | .pt => [.pt] | .fw => [.fw]

/-- Sends an MSI-X message and counts it (Table 14.1). -/
def msix (b : Block) (pf vf vector : Nat) : Block := count (emit b (.msix pf vf vector)) (pfCounter pf 5) 1

/-- Sets INT_PEND[g] on a PF; the vector is sent while INT_EN[g] is 1 (R354). -/
def pendPf (g vector : Nat) (pf : Nat) (b : Block) : Block :=
  let b1 := modPf b pf fun r => { r with intPend := putBit r.intPend g true }
  if (getPf b pf).intEn.getLsbD g then msix b1 pf 0 vector else b1

/-- Sets a bit of a VF's VF_INT_PEND (Table 13.14). -/
def pendVf (b : Block) (pf vf i : Nat) : Block :=
  let b1 := modVf b pf vf fun r => { r with intPend := putBit r.intPend i true }
  if (getVf b pf vf).intEn.getLsbD i then msix b1 pf vf i else b1

/-- Sets a bit of the VF bound to a tenant, if any. -/
def pendTenantVf (b : Block) (t i : Nat) : Block :=
  let r := getTen b t
  if r.exists' && r.vf != 0 then pendVf b r.creatingPf r.vf i else b

/-- An occurrence while the bit stays 1 waits for the next summary record (R380). -/
def dueBump : List SummaryDue → Leaf → Nat → W32 → Ns → List SummaryDue
  | [], l, i, s, t => [{ leaf := l, bit := i, source := s, count := 1, last := t }]
  | d :: r, l, i, s, t =>
    if d.leaf = l ∧ d.bit = i ∧ d.source = s then { d with count := d.count + 1 } :: r
    else d :: dueBump r l i s t

/-- The record of a 0-to-1 change starts the millisecond again (R380). -/
def dueStart : List SummaryDue → Leaf → Nat → W32 → Ns → List SummaryDue
  | [], l, i, s, t => [{ leaf := l, bit := i, source := s, count := 0, last := t }]
  | d :: r, l, i, s, t =>
    if d.leaf = l ∧ d.bit = i ∧ d.source = s then { d with count := 0, last := t } :: r
    else d :: dueStart r l i s t

/-- The leaf register's part of a raise: the bit itself. -/
def leafSet (b : Block) (l : Leaf) (i : Nat) : Block :=
  { b with leaf := leafPut b.leaf l (putBit (leafGet b l) i true) }

/-- Hardware sets a leaf bit: its groups' INT_PEND, the vectors and the record follow a change from 0 to 1; while it
stays 1 the occurrence is counted for a summary (R353, R354, R380). -/
def raiseLeaf (b : Block) (l : Leaf) (i : Nat) (a : About := {}) : Block :=
  let src : W32 := BitVec.ofNat 32 a.source
  let fresh := (leafCopies l).filter fun x => !leafBit b x i
  if fresh.isEmpty then
    { b with fly := { b.fly with dues := dueBump b.fly.dues l i src (nowNs b) } }
  else
    let b1 := each fresh (fun x c => leafSet c x i) b
    let b2 := each fresh (fun x => each (leafGroups x i) fun g => each (leafPfs x) (pendPf g g)) b1
    match leafType l i with
    | none => b2
    | some ty =>
      let b3 := flyWrite b2 ty a
      { b3 with fly := { b3.fly with dues := dueStart b3.fly.dues l i src (nowNs b) } }

/-- The lap of R383 after a record: FL_ERR.LAPPED is set once. -/
def lapCheck (b : Block) : Block :=
  if b.fly.lapFirst.isSome && !leafBit b .fl 1 then raiseLeaf b .fl 1 else b

/-- Writes an event record of Table 14.8. -/
def flyEvent (b : Block) (type' : Nat) (a : About := {}) : Block := lapCheck (flyWrite b type' a)

/-- Raises a leaf bit and sees to a lap of the ring. -/
def raise (b : Block) (l : Leaf) (i : Nat) (a : About := {}) : Block := lapCheck (raiseLeaf b l i a)

/-- Writing 1 to bits of a leaf register clears them (Table 0.3); the pending groups stay (R353). -/
def clearLeaf (b : Block) (l : Leaf) (v : W32) : Block :=
  { b with leaf := leafPut b.leaf l (leafGet b l &&& ~~~v) }

/-- The leaf registers that Table 13.12 gives a group, for a PF's INT_RAW. -/
def leafHasGroup (pf g : Nat) (x : Leaf × W32) : Bool :=
  (leafPfs x.1).contains pf && (upFrom 0 32).any fun i => x.2.getLsbD i && (leafGroups x.1 i).contains g

/-- INT_RAW of a PF (R353): per group the OR of its leaf bits.  Groups 0 and 8 have no leaf register. -/
def intRaw (b : Block) (pf : Nat) : W16 :=
  foldOver (fun v g => if b.leaf.any (leafHasGroup pf g) then putBit v g true else v) 0 (upFrom 1 14)

/-- IRQ_N, low while a raw group of the administrating PF's copy is enabled on the pin (R355). -/
def irqN (b : Block) : Bool := intRaw b b.ident.adminPf &&& (getPf b b.ident.adminPf).irqPinEn == 0

/-! ## About values of the parts -/

def aboutGlt (b : Block) : About := { place := ownPlace b }
def aboutTen (b : Block) (t : Nat) : About := { place := ownPlace b, tenant := some t }
/-- The Collator cluster of a core (R54). -/
def clusterOf (c : Nat) : Nat := c / 128 * 4 + c % 32 / 8
def aboutCore (b : Block) (c : Nat) : About :=
  { place := ownPlace b, domain := 2 + clusterOf c, source := c, context := (getCore b c).pc.toNat,
    meas := .sensor (1 + clusterOf c) 0 }
/-- A port 0-23 (S0-S7, then T0-T15); its SerDes group is the port's number over four. -/
def aboutPort (b : Block) (p : Nat) : About :=
  { place := if p < 8 then ownPlace b else slotPlace b (p - 8), domain := if p < 8 then 40 + p else 16 + p,
    source := p, meas := .sensor (17 + p / 4) 2 }
def aboutSlot (b : Block) (n : Nat) : About :=
  { place := slotPlace b n, domain := 24 + n, source := n * 256, tenant := slotTenant? b n, meas := .slot n }
def aboutDdr (b : Block) (c : Nat) : About := { place := ownPlace b, domain := 18, source := c, meas := .ddr c }
def aboutAon (b : Block) : About :=
  { place := ownPlace b, domain := 0, meas := .sensor 0 (if b.pw.aonSrc = 0 then 6 else if b.pw.aonSrc = 1 then 7 else 8) }

/-- LK_ERR of a link 0-23 (S0-S7, then T0-T15). -/
def lkLeaf (l : Nat) : Leaf := if l < 8 then .lkS l else .lkT (l - 8)

/-! ## Completion of commands -/

/-- A command completes: its reply waits to be written (R344); INTERNAL is recorded (Table 14.8). -/
def completeAt (b : Block) (iss : Issuer) (op : Nat) (st : Byte) (r0 r1 : Nat) (t : Ns) (dup : Bool := false) : Block :=
  let r : Reply := { iss := iss, opcode := BitVec.ofNat 16 op, status := st, dup := dup, r0 := BitVec.ofNat 64 r0,
                     r1 := BitVec.ofNat 64 r1, time := t }
  let b1 := { b with host := { b.host with done := b.host.done ++ [r] } }
  if st = stInternal then
    flyEvent b1 0x00E0 { place := ownPlace b, domain := 20 + iss.pf.val, source := iss.pf.val, context := op,
                         tenant := some iss.tenant.val }
  else b1

/-- A command completes with no values; TIME is the spine time of the reply. -/
def complete (b : Block) (iss : Issuer) (op : Nat) (st : Byte) : Block := completeAt b iss op st 0 0 (nowNs b)

/-- Completes a command whose issuer may be absent. -/
def completeOpt (b : Block) (i : Option Issuer) (op : Nat) (st : Byte) : Block :=
  match i with
  | none => b
  | some iss => complete b iss op st

/-- Writes bytes to host memory on behalf of a function. -/
def hostWrite (b : Block) (iss : Issuer) (addr : Nat) (bytes : List Byte) : Block :=
  count (emit b (.hostWrite iss.pf.val addr bytes)) (pfCounter iss.pf.val 4) bytes.length

/-- Drops an entry of an old edition and counts it (R274). -/
def countStale (b : Block) (n : Nat) : Block := { b with hr := { b.hr with staleCount := b.hr.staleCount + n } }

end Sys2Proof.Machine
end

