-- ==== Sys2Proof/Machine/RegOps.lean ====
section
/-!
DEFINITION. Machine/RegOps.lean: what every register write shares: its source (R27), a refused field (R10), and the fields
that reserved bits leave alone (R9).
-/

namespace Sys2Proof.Machine

/-- A write from a source that the region does not accept: ignored and recorded (R27). -/
def badSource (b : Block) (pf off : Nat) : Block :=
  flyEvent b 0x0CE0 { place := ownPlace b, domain := 20 + pf, source := pf, context := off }

/-- A write that only the administrating PF may make (Table 1.12). -/
def adminWrite (b : Block) (pf off : Nat) (f : Block → Block) : Block :=
  if pf = b.ident.adminPf then f b else badSource b pf off

/-- A refused field sets the error flag of its register block, bit 0 of its leaf register (R10). -/
def refuse (b : Block) (l : Leaf) : Block := raise b l 0 (aboutGlt b)

/-- A field that is written when its value is in range and its condition holds, and refused otherwise (R10). -/
def fieldIf (ok : Bool) (l : Leaf) (f : Block → Block) (b : Block) : Block := if ok then f b else refuse b l

/-- A value within a stated range. -/
def within (lo hi v : Nat) : Bool := decide (lo ≤ v) && decide (v ≤ hi)

end Sys2Proof.Machine
end

