-- ==== Sys2Proof/Machine/SpineOps.lean ====
section
/-!
DEFINITION. Machine/SpineOps.lean: how the Spine carries control cells and data frames (R110-R120): hops and rails, rings
and heads, the two laps of a fixed-order round, control broadcasts, and unicast routes.
-/

namespace Sys2Proof.Machine

/-! ## Hops and ports -/

/-- The port of a hop on a rail: hop 0 L1 west (S0, S2), 1 L1 east (S1, S3), 2 uplink west (S4, S6), 3 uplink east
(S5, S7). -/
def hopRail (h : Nat) (railB : Bool) : Nat := h / 2 * 4 + h % 2 + 2 * bit railB

/-- The hop of a Spine port, and whether the port is on rail B. -/
def portHop (p : Nat) : Nat := p / 4 * 2 + p % 2
def portRailB (p : Nat) : Bool := p / 2 % 2 == 1

def hopPort (b : Block) (h : Nat) : Nat := hopRail h (getHop b h).railB
def otherPort (b : Block) (h : Nat) : Nat := hopRail h (!(getHop b h).railB)

/-- The hop on the other side of this GLT in the same ring. -/
def turnHop (h : Nat) : Nat := if h % 2 = 0 then h + 1 else h - 1

/-- Whether a hop carries traffic: it is not folded and its active rail is ACTIVE. -/
def hopUsable (b : Block) (h : Nat) : Bool :=
  !(getHop b h).folded && decide ((getPort b (hopPort b h)).state = .active)

/-- Whether a rail can still transmit. -/
def canTransmit (b : Block) (p : Nat) : Bool :=
  match (getPort b p).state with
  | .active | .standby => true
  | .down | .training | .failed | .miscabled => false

/-- Sync cells are hop-local and never forwarded (R163). -/
def hopLocal : CellBody → Bool
  | .sync _ | .delayReq _ _ | .delayResp _ _ => true
  | .timed _ _ _ | .hold _ | .release _ | .mark _ | .cancel _ | .fold _ | .unfold _ _ | .census _ _ | .failover _
  | .selftest | .vote _ | .sewn _ | .barrier _ | .reduce _ | .reduceX _ | .report _ | .summary _ | .probe _
  | .probeAck _ | .suspect _ | .restored _ _ _ => false

/-- Sends a control cell on a hop: it takes the hop's next SEQ and stays unacknowledged until the link has delivered
it.  In a dual-active window it goes out on both rails, with DUAL on the new one (R126). -/
def sendOn (b : Block) (h : Nat) (hdr : CellHdr) (body : CellBody) : Block :=
  let hop := getHop b h
  let hd := { hdr with seq := hop.seqTx, dual := hop.dualUntil.isSome }
  let b1 := setHop b h { hop with seqTx := hop.seqTx + 1, unacked := hop.unacked ++ [(hd, body)] }
  let b2 := cellOut b1 (hopPort b h) hd body
  if hop.dualUntil.isSome && canTransmit b (otherPort b h) then cellOut b2 (otherPort b h) { hd with dual := false } body
  else b2

/-- Sends a control cell over a hop, or turns it back where the hop is a gap (R120). -/
def sendHop (b : Block) (h : Nat) (hdr : CellHdr) (body : CellBody) : Block :=
  if hopUsable b h then sendOn b h hdr body
  else if hopUsable b (turnHop h) then sendOn b (turnHop h) { hdr with turned := true } body
  else b

/-- Sends a data frame on a hop's active rail, never on the old one: it takes the hop's next DSEQ and stays unacknowledged
until the link has delivered it (R126). -/
def sendFrameOn (b : Block) (h : Nat) (ty : FrameType) (f : DataFrame) : Block :=
  let hop := getHop b h
  let g := { f with dseq := hop.dseqTx }
  frameOut (setHop b h { hop with dseqTx := hop.dseqTx + 1, dunacked := hop.dunacked ++ [(ty, g)] }) (hopPort b h) ty g

/-- Sends a data frame over a hop, or turns it back where the hop is a gap (R120). -/
def sendFrameHop (b : Block) (h : Nat) (ty : FrameType) (f : DataFrame) : Block :=
  if hopUsable b h then sendFrameOn b h ty f
  else if hopUsable b (turnHop h) then sendFrameOn b (turnHop h) ty { f with turned := true }
  else b

/-! ## Rings (R25, R116) -/

/-- The uplink ring that this tray joins as a delegate (Table 1.11): 1 for L2, 2 for L3, 3 for L4. -/
def uplinkLevel (b : Block) : Option Nat :=
  let i := b.ident
  if i.tray = 0 then some 1
  else if i.tray = 1 ∧ i.rack = 0 then some 2
  else if i.tray = 2 ∧ i.rack = 0 ∧ i.block = 0 then some 3
  else none

def ringMember (b : Block) (k : Nat) : Bool := k == 0 || uplinkLevel b == some k

/-- The rings of this GLT up to a level, L1 first. -/
def ownRings (b : Block) (top : Nat) : List Nat := (0 :: (uplinkLevel b).toList).filter fun k => decide (k ≤ top)

/-- A place's member number in the ring of a level. -/
def memberNo (k : Nat) (p : Place) : Nat :=
  match k with
  | 0 => placeTray p
  | 1 => placeRack p
  | 2 => placeBlock p
  | _ => placeHall p

def ringSize (k : Nat) : Nat := match k with | 0 => 32 | 1 => 64 | 2 => 64 | _ => 8

/-- The east and west hops of a ring at this GLT. -/
def eastHop (k : Nat) : Nat := if k = 0 then 1 else 3
def westHop (k : Nat) : Nat := if k = 0 then 0 else 2

/-- No neighbour can be reached on the ring: its laps close at once. -/
def ringAlone (b : Block) (k : Nat) : Bool := !hopUsable b (eastHop k) && !hopUsable b (westHop k)

/-- Whether member `i` was present at the last census; before any census every member counts as present. -/
def ringHas (b : Block) (k i : Nat) : Bool := (getRing b k).map == 0 || (getRing b k).map.getLsbD i

/-- The lowest member of a census map. -/
def lowestMember (map : BitVec 64) : Nat := ((setBits 64 map.toNat).head?).getD 0

/-- The head: the lowest present member (R116). -/
def headNo (b : Block) (k : Nat) : Nat :=
  if ringAlone b k then memberNo k (ownPlace b) else lowestMember (getRing b k).map

def isHead (b : Block) (k : Nat) : Bool := ringMember b k && headNo b k == memberNo k (ownPlace b)

/-- The lowest ring that holds every one of the trays (R117). -/
def topRing (places : List Place) : Nat :=
  match places with
  | [] => 0
  | p :: r =>
    if r.all fun q => placeHall q == placeHall p && placeBlock q == placeBlock p && placeRack q == placeRack p then 0
    else if r.all fun q => placeHall q == placeHall p && placeBlock q == placeBlock p then 1
    else if r.all fun q => placeHall q == placeHall p then 2
    else 3

/-- Whether a participant lies in the subtree that this GLT joins to ring `k` (R117): its own tray for L1, its rack,
its block, its hall. -/
def subtreeHas (b : Block) (places : List Place) (k : Nat) : Bool :=
  let o := ownPlace b
  places.any fun q =>
    match k with
    | 0 => q == o
    | 1 => placeHall q == placeHall o && placeBlock q == placeBlock o && placeRack q == placeRack o
    | 2 => placeHall q == placeHall o && placeBlock q == placeBlock o
    | _ => placeHall q == placeHall o

/-- Whether the partial of ring `k` can go up to the next ring from here (R117, R123): the L1 head is tray 0; the L2
head is rack 0, beside a present tray 1; the L3 head is block 0, beside a present tray 2. -/
def canClimb (b : Block) (k : Nat) : Bool :=
  match k with
  | 0 => b.ident.tray == 0
  | 1 => b.ident.tray == 0 && b.ident.rack == 0 && !ringAlone b 0 && ringHas b 0 1
  | 2 => b.ident.tray == 1 && b.ident.rack == 0 && b.ident.block == 0 && !ringAlone b 0 && ringHas b 0 2
  | _ => false

/-! ## Fixed-order laps (R116, R117) -/

/-- What a GLT does for a lap: send it on east on ring `k`, hand it to a neighbouring delegate over L1 (up on the
first lap, down on the second), find a first lap closed where the result is made (`cut` where the path upwards is
cut), or take the result that the second lap of L1 brings. -/
inductive LapAct (β : Type) where
  | send (k : Nat) (lap2 abort : Bool) (x : β)
  | hand (level : Nat) (lap2 abort : Bool) (x : β)
  | result (k : Nat) (cut abort : Bool) (x : β)
  | deliver (abort : Bool) (x : β)

/-- Starts the second lap of L1 here. -/
def spread0 {β : Type} (b : Block) (abort : Bool) (x : β) : List (LapAct β) :=
  .deliver abort x :: (if ringAlone b 0 then [] else [.send 0 true abort x])

/-- What the second lap of ring `k` does at a member: it passes the result into the ring below. -/
def lap2At {β : Type} (b : Block) (k : Nat) (abort : Bool) (x : β) : List (LapAct β) :=
  match k with
  | 0 => [.deliver abort x]
  | 1 => spread0 b abort x
  | _ => [.hand (k - 1) true abort x]

/-- Starts the second lap of ring `k` at its head. -/
def spreadFrom {β : Type} (b : Block) (k : Nat) (abort : Bool) (x : β) : List (LapAct β) :=
  lap2At b k abort x ++ (if ringAlone b k then [] else [.send k true abort x])

/-- A second lap received on ring `k`: it ends at the head, and passes every other member. -/
def lap2Recv {β : Type} (b : Block) (k : Nat) (abort : Bool) (x : β) : List (LapAct β) :=
  if isHead b k then [] else lap2At b k abort x ++ [.send k true abort x]

/-- How a kind of round combines: the partial from the left with a contribution, giving ABORT where they differ. -/
abbrev Comb (β : Type) := β → β → β × Bool

/-- The first lap of ring `k` has closed at this head. -/
def closeAt {β : Type} (b : Block) (top k : Nat) (abort : Bool) (x : β) (l : Lap β) : Lap β × List (LapAct β) :=
  let l1 := { l with closed := withEntry l.closed k }
  if k ≥ top then (l1, [.result k false abort x])
  else if !canClimb b k then (l1, [.result k true abort x])
  else if k = 0 then ({ l1 with up := l1.up ++ [(1, abort, x)] }, [])
  else (l1, [.hand (k + 1) false abort x])

/-- A GLT's contribution to ring `k`: its own ranks' part for L1, and the partial of its subtree above. -/
def lapOwn {β : Type} (b : Block) (places : List Place) (own : Option (Bool × β)) (empty : β) (l : Lap β) (k : Nat) :
    Option (Bool × β) :=
  if k = 0 then own
  else if subtreeHas b places k then (l.up.find? fun u => u.1 == k).map Prod.snd
  else some (false, empty)

/-- One waiting lap leaves, combined with the GLT's contribution; a lap with ABORT passes as it is. -/
def lapPass {β : Type} (comb : Comb β) (k : Nat) (c : Option (Bool × β)) (w : CellHdr × β) : Option (LapAct β) :=
  if w.1.abort then some (.send k false true w.2)
  else c.map fun o =>
    let r := comb w.2 o.2
    .send k false (o.1 || r.2) r.1

/-- Moves the laps of ring `k` on as far as they can go here. -/
def lapLevel {β : Type} (b : Block) (places : List Place) (own : Option (Bool × β)) (empty : β) (comb : Comb β)
    (top k : Nat) (l : Lap β) : Lap β × List (LapAct β) :=
  if !ringMember b k then (l, []) else
  let c := lapOwn b places own empty l k
  if isHead b k then
    if l.started.contains k then (l, []) else
    match c with
    | none => (l, [])
    | some (a, x) =>
      let l1 := { l with started := l.started ++ [k] }
      if ringAlone b k then closeAt b top k a x l1 else (l1, [.send k false a x])
  else
    let here := l.waiting.filter fun w => w.1.level.val == k
    let moved := here.filterMap (lapPass comb k c)
    if moved.isEmpty then (l, [])
    else ({ l with waiting := l.waiting.filter fun w => w.1.level.val != k, started := withEntry l.started k }, moved)

/-- Moves the laps of every ring of the round on, the lowest ring first. -/
def lapPump {β : Type} (b : Block) (places : List Place) (own : Option (Bool × β)) (empty : β) (comb : Comb β)
    (top : Nat) : List Nat → Lap β → Lap β × List (LapAct β)
  | [], l => (l, [])
  | k :: r, l =>
    let (l1, a1) := if k ≤ top then lapLevel b places own empty comb top k l else (l, [])
    let (l2, a2) := lapPump b places own empty comb top r l1
    (l2, a1 ++ a2)

/-- A first-lap cell arrives: over L1 from a delegate below (`hand`), back at the head that started it, or at a
member where it waits for the contribution. -/
def lapArrive {β : Type} (b : Block) (top : Nat) (hand : Bool) (hdr : CellHdr) (x : β) (l : Lap β) :
    Lap β × List (LapAct β) :=
  let k := hdr.level.val
  if hand then ({ l with up := l.up ++ [(k, hdr.abort, x)] }, [])
  else if isHead b k && l.started.contains k then closeAt b top k hdr.abort x l
  else ({ l with waiting := l.waiting ++ [(hdr, x)] }, [])

/-- Carries out the sending part of a lap's actions; `put` sends the body's cells over a hop. -/
def lapSend {β : Type} (put : Nat → CellHdr → β → Block → Block) (hdr : CellHdr) (a : LapAct β) (b : Block) : Block :=
  match a with
  | .send k lap2 abort x =>
    put (eastHop k) { hdr with level := Fin.ofNat 4 k, lap2 := lap2, abort := abort, turned := false } x b
  | .hand j lap2 abort x =>
    put (if lap2 then 0 else 1) { hdr with level := Fin.ofNat 4 j, lap2 := lap2, abort := abort, turned := false } x b
  | .result _ _ _ _ => b
  | .deliver _ _ => b

/-- Whether a cell came over L1 as a handoff between delegates: its level is not L1's. -/
def isHandoff (port : Nat) (hdr : CellHdr) : Bool := decide (port < 4) && hdr.level.val != 0

/-- Members of the trays that the last census of ring `k` lacks (R135 case 2). -/
def censusLacks (b : Block) (k : Nat) (places : List Place) : Bool :=
  ringMember b k && !ringAlone b k && places.any fun p =>
    decide (topRing [p, ownPlace b] ≤ k) && !ringHas b k (memberNo k p)

/-! ## Control broadcasts (R118) -/

/-- The next move of a control broadcast that climbs and stands at ring `k` here: the head of the top ring spreads it,
and so does a head from which no delegate leads up. -/
def climb (b : Block) (top k : Nat) (body : CellBody) : List (LapAct CellBody) :=
  if !isHead b k then [.send k false false body]
  else if k ≥ top || !canClimb b k then spreadFrom b k false body
  else if k = 0 then
    (if !isHead b 1 then [.send 1 false false body]
     else if top ≤ 1 || !canClimb b 1 then spreadFrom b 1 false body
     else [.hand 2 false false body])
  else [.hand (k + 1) false false body]

/-- Sends a cell of a control broadcast over a hop; VOTE cells carry ABORT (R142). -/
def putBody (h : Nat) (hdr : CellHdr) (x : CellBody) (b : Block) : Block := sendHop b h hdr x

/-- Sends a list of broadcast moves. -/
def sendMoves (b : Block) (hdr : CellHdr) (abort : Bool) (l : List (LapAct CellBody)) : Block :=
  each l (fun a b =>
    match a with
    | .send k lap2 _ x => lapSend putBody hdr (.send k lap2 abort x) b
    | .hand j lap2 _ x => lapSend putBody hdr (.hand j lap2 abort x) b
    | .result _ _ _ _ => b
    | .deliver _ _ => b) b

/-- Originates a control broadcast: it travels east to the head of L1 and on to the head of the top ring. -/
def broadcastCell (b : Block) (top : Nat) (hdr : CellHdr) (abort : Bool) (body : CellBody) : Block :=
  sendMoves b hdr abort (climb b top 0 body)

/-- Passes a control broadcast on: it climbs on its first lap and spreads on its second. -/
def passBroadcast (b : Block) (top : Nat) (port : Nat) (hdr : CellHdr) (body : CellBody) : Block :=
  let k := hdr.level.val
  if !ringMember b k then b
  else if hdr.lap2 then
    sendMoves b hdr hdr.abort (if isHandoff port hdr then spreadFrom b k false body else lap2Recv b k false body)
  else sendMoves b hdr hdr.abort (climb b top k body)

/-! ## Unicast routes (R119) -/

/-- Hops from member `a` to member `c` going up through the present members of ring `k`. -/
def hopsUp (b : Block) (k a c : Nat) : Nat :=
  let n := ringSize k
  let d := (c + n - a) % n
  ((upFrom 1 d).filter fun i => ringHas b k ((a + i) % n)).length

/-- Whether the way east from member `a` of ring `k` to member `c` meets the gap whose east side is member `g`. -/
def eastMeets (k a c g : Nat) : Bool :=
  let n := ringSize k
  decide (g ≠ a) && decide ((g + n - a) % n ≤ (c + n - a) % n)

/-- The hop on ring `k` toward member `c`: the shorter direction, east when both are equal, never the one that meets a gap
(R119). -/
def toward (b : Block) (k c : Nat) : Nat :=
  let a := memberNo k (ownPlace b)
  if !hopUsable b (eastHop k) then westHop k
  else if !hopUsable b (westHop k) then eastHop k
  else
    match (getRing b k).gap with
    | some g => if eastMeets k a c g then westHop k else eastHop k
    | none => if hopsUp b k a c ≤ hopsUp b k c a then eastHop k else westHop k

/-- The hop on which a cell for another tray leaves this GLT. -/
def nextHop (b : Block) (dest : Place) : Option Nat :=
  let o := ownPlace b
  let up (level : Nat) : Nat :=            -- toward the delegate of the level, or over its ring
    if uplinkLevel b = some level then toward b level (memberNo level dest)
    else toward b 0 (level - 1)
  if dest = o then none
  else
    match topRing [o, dest] with
    | 0 => some (toward b 0 (placeTray dest))
    | 1 => some (up 1)
    | 2 => some (if placeRack o = 0 then up 2 else if uplinkLevel b = some 1 then toward b 1 0 else toward b 0 0)
    | _ => some (if placeRack o = 0 ∧ placeBlock o = 0 then up 3
                 else if placeRack o = 0 then
                   (if uplinkLevel b = some 2 then toward b 2 0 else toward b 0 1)
                 else if uplinkLevel b = some 1 then toward b 1 0 else toward b 0 0)

/-- Sends a cell toward the GLT of a tray. -/
def sendTo (b : Block) (dest : Place) (hdr : CellHdr) (body : CellBody) : Block :=
  (nextHop b (trayOf dest)).elim b fun h =>
    sendHop b h { hdr with level := Fin.ofNat 4 (if h < 2 then 0 else (uplinkLevel b).getD 0) } body

/-- Sends a data frame toward the GLT of its DEST. -/
def routeFrame (b : Block) (ty : FrameType) (f : DataFrame) : Block :=
  (nextHop b (trayOf f.dest)).elim b fun h => sendFrameHop b h ty f

/-- SP_STATUS (Table 5.12): a ring is up while one of its hops here carries traffic. -/
def spStatus (b : Block) : W32 :=
  let up (k : Nat) : Bool := hopUsable b (eastHop k) || hopUsable b (westHop k)
  match uplinkLevel b with
  | none => BitVec.ofNat 32 (bit (up 0))
  | some k => BitVec.ofNat 32 (bit (up 0) + 2 * bit (up k) + 4 * k)

/-- A dropped cell or frame (R112, R113). -/
def dropCell (b : Block) (port : Nat) : Block :=
  let b1 := { b with spine := { b.spine with dropCount := b.spine.dropCount + 1 } }
  raise (count b1 (portCounter port 10) 1) .sp 9 (aboutPort b port)

end Sys2Proof.Machine
end

