-- ==== Sys2Proof/Machine/Codec.lean ====
section
/-!
DEFINITION. Machine/Codec.lean: the byte layouts of chapter 8: binding transfers, reads and digests (Tables 8.2 to 8.4) and
the colophon (Tables 8.5 to 8.7), written and read back.
-/

namespace Sys2Proof.Machine

/-! ## Bytes -/

/-- A field of some bytes, little-endian (R5). -/
def byteField (l : List Byte) (off size : Nat) : Nat := leNat ((l.drop off).take size)

/-- Bit `i` of a byte. -/
def byteBit (l : List Byte) (off i : Nat) : Bool := (nthD 0 l off).getLsbD i

/-- The digest that 32 bytes hold, its first byte first. -/
def digestAt (l : List Byte) (off : Nat) : BitVec 256 := BitVec.ofNat 256 (leNat ((l.drop off).take 32).reverse)

/-- Writes bytes into a list at an offset; what lies between reads as zero. -/
def patchBytes (l : List Byte) (off : Nat) (new : List Byte) : List Byte :=
  let l1 := l ++ zeroBytes (off - l.length)
  l1.take off ++ new ++ l1.drop (off + new.length)

/-- Reads bytes of a list; what it does not list reads as zero. -/
def readBytes (l : List Byte) (off len : Nat) : List Byte :=
  let x := (l.drop off).take len
  x ++ zeroBytes (len - x.length)

/-- Pads to a multiple of 64 bytes. -/
def pad64 (l : List Byte) : List Byte := l ++ zeroBytes ((64 - l.length % 64) % 64)

/-- Cuts bytes into `n` records of a size. -/
def records (l : List Byte) (size n : Nat) : List (List Byte) := (upFrom 0 n).map fun i => (l.drop (i * size)).take size

/-! ## Binding transfers (Table 8.2) -/

def xferKindCode : XferKind → Nat
  | .parityIn => 1 | .entries => 2 | .restorePush => 3 | .readReply => 4 | .ack => 5

/-- The kind of a code; other codes are reserved. -/
def xferKindOf : Nat → Option XferKind
  | 1 => some .parityIn
  | 2 => some .entries
  | 3 => some .restorePush
  | 4 => some .readReply
  | 5 => some .ack
  | _ => none

def xferStatusCode : XferStatus → Nat
  | .ok => 0 | .notPopulated => 1 | .lost => 2 | .noSpace => 3

def xferStatusOf : Nat → Option XferStatus
  | 0 => some .ok
  | 1 => some .notPopulated
  | 2 => some .lost
  | 3 => some .noSpace
  | _ => none

/-- The 64-byte header of a transfer. -/
def xferHeader (x : Xfer) : List Byte :=
  leBytes 1 (xferKindCode x.kind) ++ leBytes 1 x.member ++ leBytes 1 (xferStatusCode x.status) ++ zeroBytes 1 ++
    leBytes 4 x.gathering ++ leBytes 8 x.handle.toNat ++ leBytes 4 x.row ++ zeroBytes 4 ++ leBytes 8 x.length ++
    digestBytes x.digest

/-- A transfer's bytes: its header, and from offset 64 what it describes (R211). -/
def xferBytes (x : Xfer) : List Byte := xferHeader x ++ x.bytes

/-- The transfer that bytes spell, from a source under a STREAM; none where its KIND or STATUS is reserved. -/
def xferOf (l : List Byte) (tenant : Fin 1024) (src dest : Place) (stream : W32) : Option Xfer :=
  match xferKindOf (byteField l 0 1), xferStatusOf (byteField l 2 1) with
  | some k, some st =>
    let len := byteField l 0x18 8
    some { kind := k, member := byteField l 1 1, status := st, gathering := byteField l 4 4,
           handle := BitVec.ofNat 64 (byteField l 8 8), row := byteField l 0x10 4, length := len, digest := digestAt l 0x20,
           bytes := (l.drop 64).take len, tenant := tenant, src := src, dest := dest, stream := stream }
  | _, _ => none

/-! ## BIND_READ and DIGEST (Tables 8.3, 8.4) -/

def readPayload (r : BindReadReq) : List Byte :=
  leBytes 6 r.offset ++ zeroBytes 2 ++ leBytes 8 r.length ++ leBytes 4 r.replyStream.toNat ++ leBytes 4 r.gathering ++
    leBytes 8 r.handle.toNat ++ zeroBytes 32

def readOf (l : List Byte) (tenant : Fin 1024) (src : Place) : BindReadReq :=
  { offset := byteField l 0 6, length := byteField l 8 8, replyStream := BitVec.ofNat 32 (byteField l 0x10 4),
    gathering := byteField l 0x14 4, handle := BitVec.ofNat 64 (byteField l 0x18 8), tenant := tenant, src := src }

def digestPayload (m : DigestMsg) : List Byte :=
  leBytes 8 m.handle.toNat ++ leBytes 1 m.region.val ++ leBytes 1 m.member ++ leBytes 1 m.groupSize ++ zeroBytes 5 ++
    leBytes 8 m.length ++ zeroBytes 8 ++ digestBytes m.digest

def digestOf (l : List Byte) : DigestMsg :=
  { handle := BitVec.ofNat 64 (byteField l 0 8), region := Fin.ofNat 256 (byteField l 8 1), member := byteField l 9 1,
    groupSize := byteField l 10 1, length := byteField l 0x10 8, digest := digestAt l 0x20 }

/-! ## The colophon (R215) -/

def regionEntryBytes (e : RegionEntry) : List Byte :=
  leBytes 4 e.rank ++ leBytes 1 e.region.val ++ leBytes 1 e.cls.toNat ++ leBytes 1 (bit e.deepOnly) ++ leBytes 1 e.groupSize ++
    leBytes 4 e.repFirst ++ leBytes 4 e.repStride ++ leBytes 8 e.length ++ leBytes 4 e.firstIndex ++ zeroBytes 4

def regionEntryAt (l : List Byte) : RegionEntry :=
  { rank := byteField l 0 4, region := Fin.ofNat 256 (byteField l 4 1), cls := nthD 0 l 5, deepOnly := byteBit l 6 0,
    groupSize := byteField l 7 1, repFirst := byteField l 8 4, repStride := byteField l 0x0C 4, length := byteField l 0x10 8,
    firstIndex := byteField l 0x18 4 }

/-- The STRIPE of an unstriped signature, and the INDEX of an absent member. -/
def noneCode : Nat := 0xFFFFFFFF

def codeOpt (n : Nat) : Option Nat := if n = noneCode then none else some n

def dataEntryBytes (e : DataEntry) : List Byte :=
  leBytes 4 e.index ++ leBytes 1 (bit e.parity) ++ leBytes 1 (bit e.replicated + 2 * bit e.unprotected + 4 * bit e.rebuilt) ++
    leBytes 1 e.region.val ++ leBytes 1 e.member ++ leBytes 4 (e.stripe.getD noneCode) ++ leBytes 4 e.rank ++
    leBytes 5 e.place.toNat ++ leBytes 6 e.offset ++ leBytes 5 e.length ++ digestBytes e.digest

def dataEntryAt (l : List Byte) : DataEntry :=
  { index := byteField l 0 4, parity := byteBit l 4 0, replicated := byteBit l 5 0, unprotected := byteBit l 5 1,
    rebuilt := byteBit l 5 2, region := Fin.ofNat 256 (byteField l 6 1), member := byteField l 7 1,
    stripe := codeOpt (byteField l 8 4), rank := byteField l 0x0C 4, place := BitVec.ofNat 40 (byteField l 0x10 5),
    offset := byteField l 0x15 6, length := byteField l 0x1B 5, digest := digestAt l 0x20 }

def stripeEntryBytes (e : StripeEntry) : List Byte :=
  leBytes 4 e.stripe ++ leBytes 1 e.g ++ leBytes 1 e.mPrime ++ zeroBytes 2 ++
    ((upFrom 0 14).flatMap fun i => leBytes 4 ((nthD none e.members i).getD noneCode))

def stripeEntryAt (l : List Byte) : StripeEntry :=
  { stripe := byteField l 0 4, g := byteField l 4 1, mPrime := byteField l 5 1,
    members := (upFrom 0 (byteField l 4 1)).map fun i => codeOpt (byteField l (8 + 4 * i) 4) }

/-- The colophon's header (Table 8.5). -/
def colophonHeader (c : Colophon) : List Byte :=
  leBytes 4 0x4E4F4C43 ++ leBytes 2 1 ++ leBytes 2 c.revision ++ leBytes 2 c.tenant.val ++ leBytes 1 c.sigShift ++
    leBytes 1 c.k ++ leBytes 1 c.m ++ leBytes 1 (bit c.deep + 2 * bit c.protectRepl + 4 * bit c.someUnprotected) ++
    zeroBytes 2 ++ leBytes 4 c.gathering ++ leBytes 4 c.step ++ leBytes 8 (r111 c.startTime).toNat ++ leBytes 4 c.ranks ++
    leBytes 4 c.regions.length ++ leBytes 4 c.data.length ++ leBytes 4 c.stripes.length ++ leBytes 4 c.parity.length ++
    zeroBytes 4 ++ leBytes 8 (r111 c.sealTime).toNat ++ leBytes 5 c.lead.toNat ++ zeroBytes 3 ++ leBytes 8 c.leadSerial.toNat ++
    zeroBytes 48

/-- The colophon's bytes before its signature, in the order of R215. -/
def colophonBody (c : Colophon) : List Byte :=
  colophonHeader c ++ pad64 (c.regions.flatMap regionEntryBytes) ++ c.data.flatMap dataEntryBytes ++
    c.stripes.flatMap stripeEntryBytes ++ c.parity.flatMap dataEntryBytes

/-- The signed colophon. -/
def colophonBytes (c : Colophon) : List Byte := colophonBody c ++ c.sig

/-- The colophon that bytes spell; none where MAGIC, FORMAT_VER or the length is wrong. -/
def colophonAt (l : List Byte) : Option Colophon :=
  let nr := byteField l 0x24 4
  let nd := byteField l 0x28 4
  let ns := byteField l 0x2C 4
  let np := byteField l 0x30 4
  let oData := 128 + (32 * nr + 63) / 64 * 64
  let oStripe := oData + 64 * nd
  let oParity := oStripe + 64 * ns
  let oSig := oParity + 64 * np
  if byteField l 0 4 ≠ 0x4E4F4C43 ∨ byteField l 4 2 ≠ 1 ∨ l.length < oSig + 96 then none
  else
    some { revision := byteField l 6 2, tenant := Fin.ofNat 1024 (byteField l 8 2), sigShift := byteField l 0x0A 1,
           k := byteField l 0x0B 1, m := byteField l 0x0C 1, deep := byteBit l 0x0D 0, protectRepl := byteBit l 0x0D 1,
           someUnprotected := byteBit l 0x0D 2, gathering := byteField l 0x10 4, step := byteField l 0x14 4,
           startTime := r111Ns (BitVec.ofNat 64 (byteField l 0x18 8)), ranks := byteField l 0x20 4,
           sealTime := r111Ns (BitVec.ofNat 64 (byteField l 0x38 8)), lead := BitVec.ofNat 40 (byteField l 0x40 5),
           leadSerial := BitVec.ofNat 64 (byteField l 0x48 8), regions := (records (l.drop 128) 32 nr).map regionEntryAt,
           data := (records (l.drop oData) 64 nd).map dataEntryAt,
           stripes := (records (l.drop oStripe) 64 ns).map stripeEntryAt,
           parity := (records (l.drop oParity) 64 np).map dataEntryAt, sig := (l.drop oSig).take 96 }

end Sys2Proof.Machine
end

