-- ==== Sys2Proof/Machine/FrameOps.lean ====
section
/-!
DEFINITION. Machine/FrameOps.lean: data frames (R112): their bytes and trailer, the frames a transfer is cut into, and how a
receiver puts a transfer together again (R119, R211).
-/

namespace Sys2Proof.Machine

/-! ## A frame's bytes (Table 5.2) -/

/-- TYPE of a frame (Table 5.3). -/
def frameCode : FrameType → Nat
  | .bindWrite => 0x80 | .bindRead => 0x81 | .bindData => 0x82 | .digest => 0x83 | .bcast _ => 0x84 | .bcastAck => 0x85

/-- The bytes that the trailer covers, with FLAGS and DSEQ as zero (R112). -/
def frameBytes (ty : FrameType) (f : DataFrame) : List Byte :=
  leBytes 1 (frameCode ty) ++ zeroBytes 3 ++ leBytes 2 f.length ++ leBytes 2 f.tenant.val ++ leBytes 5 f.dest.toNat ++
    leBytes 5 f.src.toNat ++ zeroBytes 2 ++ leBytes 4 f.stream.toNat ++ leBytes 6 f.offset ++ zeroBytes 2 ++ f.payload

/-- The trailer of a frame. -/
def frameCrc (ty : FrameType) (f : DataFrame) : W32 := crc32c (frameBytes ty f)

/-- A frame with its trailer. -/
def sealFrame (ty : FrameType) (f : DataFrame) : DataFrame := { f with crc := frameCrc ty f }

/-! ## Transfers -/

/-- The frames of a transfer: payloads of 4,096 bytes, the last one padded to a multiple of 64 (DESIGN CHOICE within LENGTH's
range, log entry 159). -/
def cutFrames (ty : FrameType) (f : DataFrame) (l : List Byte) : List DataFrame :=
  let n := Nat.max 1 ((l.length + 4095) / 4096)
  (upFrom 0 n).map fun i =>
    let p := (l.drop (4096 * i)).take 4096
    let q := if p.isEmpty then zeroBytes 64 else pad64 p
    sealFrame ty { f with last := i + 1 == n, offset := 4096 * i, length := q.length, payload := q }

/-- A frame of this GLT before its payload. -/
def frameOf (b : Block) (t : Fin 1024) (dest : Place) (stream : W32) : DataFrame :=
  { tenant := t, dest := dest, src := ownPlace b, stream := stream }

/-- Sends a unicast transfer. -/
def sendTransfer (b : Block) (ty : FrameType) (t : Fin 1024) (dest : Place) (stream : W32) (l : List Byte) : Block :=
  each (cutFrames ty (frameOf b t dest stream) l) (fun f b => routeFrame b ty f) b

/-- The next STREAM of this GLT. -/
def takeStream (b : Block) : Block := { b with spine := { b.spine with nextStream := b.spine.nextStream + 1 } }

/-! ## Receiving -/

/-- Whether a partial transfer is the one a frame belongs to. -/
def samePartial (ty : FrameType) (f : DataFrame) (p : Partial) : Bool := p.ty == ty && p.src == f.src && p.stream == f.stream

/-- A partial transfer with one more frame; a second copy of an offset replaces the first. -/
def addChunk (p : Partial) (f : DataFrame) : Partial :=
  { p with chunks := tabPut p.chunks f.offset f.payload, total := if f.last then some (f.offset + f.length) else p.total }

/-- The bytes of a transfer once all of it is here. -/
def wholePartial (p : Partial) : Option (List Byte) :=
  if p.total = some (listSum (p.chunks.map fun c => c.2.length)) then some (p.chunks.flatMap Prod.snd) else none

/-- A frame joins its transfer, in any order (R119); the bytes of a transfer that is complete with it come back. -/
def takeChunk (b : Block) (ty : FrameType) (f : DataFrame) : Block × Option (List Byte) :=
  let rest := b.spine.partials.filter fun p => !samePartial ty f p
  let p := addChunk ((b.spine.partials.find? (samePartial ty f)).getD { ty := ty, src := f.src, stream := f.stream, since := nowNs b }) f
  match wholePartial p with
  | some l => ({ b with spine := { b.spine with partials := rest } }, some l)
  | none => ({ b with spine := { b.spine with partials := rest ++ [p] } }, none)

/-- Whether a binding transfer has waited BD_XFER_TIMEOUT for its header (R211). -/
def partialStale (b : Block) (stream : W32) (p : Partial) : Bool :=
  (p.ty == .bindWrite || p.ty == .bindData) && p.stream == stream && !tabHas p.chunks 0 &&
    decide (p.since + b.bd.xferTimeoutMs * 1000000 ≤ nowNs b)

end Sys2Proof.Machine
end

