-- ==== Sys2Proof/Machine/HoldOps.lean ====
section
/-!
DEFINITION. Machine/HoldOps.lean: scheduling and ending a hold (R257, R258, R267) as every chapter that orders one uses
it: HOLD_AT, RELEASE_AT and the recovery leader.
-/

namespace Sys2Proof.Machine

/-- The header of a tenant's cells: its fixed-order channel is its tenant id (R128). -/
def tenHdr (t : Nat) : CellHdr := { chan := BitVec.ofNat 11 t }

/-- The top ring of a tenant by its participants (R117). -/
def tenTop (b : Block) (t : Nat) : Nat :=
  if (getTen b t).places.isEmpty then 3 else topRing (participants (getTen b t))

/-- R258: the earlier hold, and on equal times the one whose origin place is lower. -/
def holdBefore (t : Ns) (o : Place) (t' : Ns) (o' : Place) : Bool :=
  decide (t < t') || (decide (t = t') && decide (o.toNat < o'.toNat))

/-- The commands that a hold's report completes. -/
def holdOwners (h : Hold) : List (Issuer × Nat) :=
  (match h.iss with | none => [] | some i => [(i, h.resultAddr)]) ++ h.merged

/-- A hold as it is armed: `cmd` is the HOLD_AT command of this GLT, if it has one. -/
def newHold (b : Block) (c : HoldBody) (cmd : Option (Issuer × Nat)) (merged : List (Issuer × Nat)) : Hold :=
  { phase := .scheduled, collateInHold := c.collateInHold, holdId := c.holdId, origin := c.place, time := c.time,
    isOrigin := c.place == ownPlace b, iss := cmd.map Prod.fst, resultAddr := (cmd.map Prod.snd).getD 0,
    merged := merged }

/-- Sends HOLD_AT to the sentinels of the tenant's slots. -/
def tellHold (b : Block) (t : Nat) (time : Ns) : Block :=
  each (tenantSlots b (getTen b t)) (fun n b => tellSn b n (.holdAt time)) b

/-- The bits of a hop's two ports in a mask of marks. -/
def hopBits (h : Nat) : BitVec 8 := putBit (putBit 0 (hopRail h false) true) (hopRail h true) true

/-- MARKs that came before their hold was armed here count for it (R259, R261). -/
def takeEarly (r : TenantRec) (h : Hold) : TenantRec :=
  let own (x : W32 × Ns × Nat) : Bool := x.1 == h.holdId && decide (x.2.1 = h.time)
  let seen := foldOver (fun m (x : W32 × Ns × Nat) => m ||| hopBits x.2.2) h.marksSeen (r.earlyMarks.filter own)
  { r with hold := { h with marksSeen := seen }, earlyMarks := r.earlyMarks.filter fun x => !own x }

/-- Arms a hold and records it (R258, 0x07E2). -/
def putHold (b : Block) (t : Nat) (h : Hold) : Block :=
  let b1 := modTen b t fun r => takeEarly r h
  tellHold (flyEvent b1 0x07E2 { aboutTen b t with arg := h.holdId.toNat }) t h.time

/-- Arms a hold of a HOLD cell or of this GLT's own (R258): the earlier of two scheduled holds stays, and the other is
merged into it; a tenant already held keeps its hold. -/
def armHold (b : Block) (t : Nat) (c : HoldBody) (cmd : Option (Issuer × Nat)) : Block :=
  let h := (getTen b t).hold
  match h.phase with
  | .none => putHold b t (newHold b c cmd [])
  | .scheduled =>
    if h.holdId = c.holdId ∧ h.origin = c.place then b
    else if holdBefore c.time c.place h.time h.origin then putHold b t (newHold b c cmd (holdOwners h))
    else modTen b t fun r => { r with hold := { h with merged := h.merged ++ cmd.toList } }
  | .cutting | .held | .incomplete => b

/-- Schedules a hold with this GLT as its origin: numbers it, arms it and sends HOLD (R257). -/
def scheduleHold (b : Block) (t : Nat) (time : Ns) (collate : Bool) (cmd : Option (Issuer × Nat)) : Block :=
  let c : HoldBody := { holdId := b.hr.nextHoldId, tenant := Fin.ofNat 1024 t, collateInHold := collate, time := time,
                        place := ownPlace b }
  let b1 := { b with hr := { b.hr with nextHoldId := b.hr.nextHoldId + 1 } }
  let b2 := armHold b1 t c cmd
  broadcastCell b2 (tenTop b t) (tenHdr t) false (.hold c)

/-- HR_MIN_LEAD in ns. -/
def minLeadNs (b : Block) : Ns := b.hr.minLeadUs * 1000

/-- Slots of a tenant whose SNT_HOLD nothing else holds: a Kettle hold and a withdrawal keep it high (Table 10.4, R298). -/
def lowerable (b : Block) (r : TenantRec) : List Nat :=
  (tenantSlots b r).filter fun n => !(getSlot b n).heldByHold && !(getSlot b n).heldByKettle

/-- When a slot's line may fall: at a time, and not before a released Kettle hold of it ends (Table 10.4). -/
def lowerAt (b : Block) (n : Nat) (time : Ns) : Ns := Nat.max time (tabGet 0 b.hr.kettleEnds n)

/-- Arms the release: RELEASE_AT goes to the tenant's sentinels (R267). -/
def armRelease (b : Block) (t : Nat) (time : Ns) (iss : Option Issuer) : Block :=
  let b1 := modTen b t fun r =>
    { r with hold := { r.hold with releaseAt := some time, releaseIss := iss.orElse fun _ => r.hold.releaseIss } }
  each (lowerable b (getTen b t)) (fun n b => tellSn b n (.releaseAt (lowerAt b n time))) b1

/-- Orders the release of a tenant's hold at a time: RELEASE as a control broadcast (R267). -/
def scheduleRelease (b : Block) (t : Nat) (time : Ns) (iss : Option Issuer) : Block :=
  let h := (getTen b t).hold
  let c : HoldBody := { holdId := h.holdId, tenant := Fin.ofNat 1024 t, collateInHold := h.collateInHold, time := time,
                        place := h.origin }
  broadcastCell (armRelease b t time iss) (tenTop b t) (tenHdr t) false (.release c)

/-- A tenant is held, or a hold of it is scheduled. -/
def heldOrHolding (h : Hold) : Bool := decide (h.phase ≠ .none)

end Sys2Proof.Machine
end

