-- ==== Sys2Proof/Machine/Images.lean ====
section
/-!
DEFINITION. Machine/Images.lean: what the bytes of an image say: the header of Table 13.16, the signature at its end (R75), and the
entries of a specimen bundle (R365).
-/

namespace Sys2Proof

open Sys2Proof.Machine (leNat crc32c upFrom)

/-- A little-endian field of an image. -/
def FwImage.nat (i : FwImage) (off n : Nat) : Nat := leNat ((i.raw.drop off).take n)

def FwImage.magic (i : FwImage) : W32 := BitVec.ofNat 32 (i.nat 0 4)
def FwImage.formatVer (i : FwImage) : W16 := BitVec.ofNat 16 (i.nat 4 2)
def FwImage.kind (i : FwImage) : Nat := i.nat 6 1
def FwImage.keySlot (i : FwImage) : Nat := i.nat 7 1
def FwImage.imageLen (i : FwImage) : Nat := i.nat 8 4
def FwImage.version (i : FwImage) : W32 := BitVec.ofNat 32 (i.nat 0x0C 4)
def FwImage.svn (i : FwImage) : Nat := i.nat 0x10 4
def FwImage.handoverVer (i : FwImage) : Nat := i.nat 0x14 2
def FwImage.handoverMin (i : FwImage) : Nat := i.nat 0x16 2

/-- The signed bytes, and the signature: the last 96 bytes. -/
def FwImage.body (i : FwImage) : List Byte := i.raw.take (i.raw.length - 96)
def FwImage.sig (i : FwImage) : List Byte := i.raw.drop (i.raw.length - 96)

/-- Whether the header is one of Table 13.16 for a kind and a length: its magic, format, KIND and IMAGE_LEN, and zero in its
reserved bytes (the last DEDUCED, log entry 154). -/
def FwImage.headerOk (i : FwImage) (kind len : Nat) : Bool :=
  i.magic == 0x4D495746 && i.formatVer == 1 && i.kind == kind && i.imageLen == len && i.raw.length == len &&
    i.nat 0x18 232 == 0

/-- An entry of a specimen bundle (Table 13.20). -/
def FwImage.specEntry (i : FwImage) (k : Nat) : SpecEntry :=
  let o := 0x110 + 32 * k
  { accel := i.nat o 1 == 1, dieId := BitVec.ofNat 32 (i.nat (o + 4) 4), off := i.nat (o + 8) 4, len := i.nat (o + 12) 4,
    addr := BitVec.ofNat 64 (i.nat (o + 16) 8), seed := BitVec.ofNat 32 (i.nat (o + 24) 4),
    firstUnit := BitVec.ofNat 12 (i.nat (o + 28) 4), lastUnit := BitVec.ofNat 12 (i.nat (o + 28) 4 / 4096) }

/-- The entries that N_CORE and N_ACCEL count, as far as the bundle is long. -/
def FwImage.specs (i : FwImage) : List SpecEntry :=
  (upFrom 0 (min (i.nat 0x100 4 + i.nat 0x104 4) (i.raw.length / 32))).map i.specEntry

/-- The expected verdict record of a core specimen: the last 32 bytes of its blob (R365). -/
def FwImage.expected (i : FwImage) (e : SpecEntry) : List Byte := (i.raw.drop (e.off + e.len - 32)).take 32

/-- The state of a PRBS31 generator after one bit: x³¹ + x²⁸ + 1 (PRESUMED: ITU-T O.150; the manual names the pattern only). -/
def prbsNext (s : BitVec 31) : BitVec 31 := (s <<< 1) ||| BitVec.ofNat 31 ((s.getLsbD 30 ^^ s.getLsbD 27).toNat)

/-- A byte of the pattern, its first bit in bit 0, and the state after it. -/
def prbsByte : Nat → BitVec 31 → Byte → Byte × BitVec 31
  | 0, s, x => (x, s)
  | n + 1, s, x => prbsByte n (prbsNext s) ((x >>> 1) ||| (if (prbsNext s).getLsbD 0 then 0x80 else 0))

/-- The pattern of a length in bytes. -/
def prbs31 : Nat → BitVec 31 → List Byte
  | 0, _ => []
  | n + 1, s => (prbsByte 8 s 0).1 :: prbs31 n (prbsByte 8 s 0).2

/-- The CRC-32C that a specimen area reads back (R366). -/
def SpecEntry.areaCrc (e : SpecEntry) : W32 := crc32c (prbs31 e.len (e.seed.setWidth 31))

/-- Whether an area belongs to the specimen of an accelerator of a die: to the whole, or to a unit that its range covers. -/
def SpecEntry.covers (e : SpecEntry) (die : W32) (unit : Option Nat) : Bool :=
  e.accel && e.dieId == die && unit.all fun u => decide (e.firstUnit.toNat ≤ u) && decide (u ≤ e.lastUnit.toNat)

end Sys2Proof
end

