-- ==== Sys2Proof/Machine/RecoveryOps.lean ====
section
/-!
DEFINITION. Machine/RecoveryOps.lean: what the recovery leader does (R293-R298) and the parts that commands share with it:
withdrawing a slot, fencing a unit, tipping in a spare, sampling policy.
-/

namespace Sys2Proof.Machine

/-! ## Sampling policy over the Tether (R90, R91) -/

/-- A class's exponent in force: lowered by RAISE while raised, floor 0; a class that is off stays off (R91). -/
def effRate (r : TenantRec) (j : Option Nat) : Option Nat := j.map fun x => if r.raised then x - r.raiseNow else x

/-- The exponents of a slot: 0 for a candidate of an isolation's first replay (R293 step 1). -/
def slotRates (b : Block) (t n : Nat) : List (Option Nat) :=
  let r := getTen b t
  let cand := match slotRank? b r n with
    | none => false
    | some k => r.rec'.candidates.contains k && r.rec'.tries == 0
  if cand then r.rates.map fun _ => some 0 else r.rates.map (effRate r)

/-- Sends the slot's exponents and a fresh random seed (R90); the seed is an open value. -/
def sendPolicy (b : Block) (t n : Nat) : Block :=
  tellSn (takeFree b) n (.policy { rates := slotRates b t n, seed := BitVec.ofNat 64 (freeVal b) })

/-! ## Slots -/

/-- The off sequence of R277: SLOT_PERST_N low at once; SLOT_PWREN follows 1 ms later. -/
def slotOff (b : Block) (n : Nat) : Block :=
  modSlot b n fun r => { r with on := false, perstN := false, seqStart := some (nowNs b) }

/-- The on sequence of R277: SLOT_PWREN high with SLOT_PERST_N low. -/
def slotOn (b : Block) (n : Nat) : Block :=
  modSlot b n fun r => { r with on := true, pwren := true, perstN := false, seqStart := some (nowNs b) }

/-- Every accelerator domain of a slot is asserted or released. -/
def slotDomains (b : Block) (n : Nat) (assert : Bool) : Block :=
  each (upFrom 0 ((((getSlot b n).decl).map fun d => d.nDomains).getD 0))
    (fun d b => tellSn b n (.domain (Fin.ofNat 64 d) assert)) b

/-- A withdrawn slot keeps SNT_HOLD high and every accelerator domain asserted (R298). -/
def withdrawSlot (b : Block) (n : Nat) : Block :=
  let b1 := modSlot b n fun r => { r with role := roleWithdrawn, claimed := false, heldByHold := true }
  slotDomains (tellSn b1 n (.holdAt (nowNs b))) n true

/-- A slot is withdrawn here, or ordered to be on its own tray. -/
def withdrawPlace (p : Place) (b : Block) : Block :=
  if onTray b p then withdrawSlot b (placeSlot p) else emit b (.order (trayOf p) (.withdraw (accelOf p)))

/-- The areas of the specimen store that an accelerator's specimen, of a unit or of the whole, tests (R366). -/
def specAreas (b : Block) (n : Nat) (unit : Option Nat) : List SpecEntry :=
  match b.fw.specStore, (getSlot b n).decl with
  | some i, some d => i.specs.filter fun e => e.covers d.dieId unit
  | _, _ => []

/-- The sentinel runs an accelerator specimen: it writes and reads back each area, or with none reads 64 times (R366; the
manual names no message for it: DESIGN CHOICE, log entry 170). -/
def runSpec (b : Block) (n : Nat) (unit : Option Nat) : Block :=
  let l := specAreas b n unit
  tellSn (modSlot b n fun r => { r with specAreas := l, specFrom := nowNs b }) n (.specimen (unit.map (BitVec.ofNat 12)) l)

/-- An accelerator specimen of a unit, or of the whole, starts once those before it have ended (R303, R305, R366). -/
def startSpec (b : Block) (n : Nat) (unit : Option Nat) (iss : Option Issuer) : Block :=
  let b1 := modSlot b n fun r => { r with specs := r.specs ++ [(unit, iss)] }
  if (getSlot b n).specs.isEmpty then runSpec b1 n unit else b1

/-- A readmission's specimen of the whole accelerator starts, its domains released (R305). -/
def startWhole (b : Block) (n : Nat) : Block := startSpec (slotDomains b n false) n none none

/-- A readmission begins: the slot is powered on if it is off, and its specimen starts once its sentinel is RUNNING
(R305); one that step 4 of R293 begins completes no command. -/
def readmitSlot (b : Block) (n : Nat) (iss : Option Issuer) : Block :=
  let s := getSlot b n
  let b1 := modSlot b n fun r => { r with readmitting := true, readmitIss := iss, readmitAt := nowNs b + 10 * nsPerSec }
  let b2 := if s.on then b1 else slotOn b1 n
  if s.mirrorPhase = .running then startWhole b2 n else b2

/-- A slot is readmitted here, or ordered to be on its own tray. -/
def readmitPlace (p : Place) (b : Block) : Block :=
  if onTray b p then readmitSlot b (placeSlot p) none else emit b (.order (trayOf p) (.readmit (accelOf p)))

/-- The GLT sends a trim to the sentinel and keeps its copy (R250, R254). -/
def trimSlot (b : Block) (n u : Nat) (fence : Bool) : Block :=
  let b1 := modSlot b n fun r => { r with trimCopy := if fence then withEntry r.trimCopy u else without r.trimCopy u }
  tellSn b1 n (.trim (BitVec.ofNat 12 u) fence)

/-- R297: whether slot `n` qualifies as a spare for the accelerator of slot `f` on this tray, from its declaration. -/
def spareFits (b : Block) (n : Nat) (group : BitVec 12) (fd : Option Declare) : Bool :=
  let s := getSlot b n
  decide (s.role = roleSpare) && !s.claimed && s.group == group && decide (s.mirrorPhase = .running) &&
    s.trimCopy.isEmpty &&
    match s.decl, fd with
    | some d, some f =>
      d.nUnits == f.nUnits && d.nEngines == f.nEngines && d.nDomains == f.nDomains && decide (f.memPages ≤ d.memPages)
    | _, _ => false

/-- WARM of SR_SLOT (Table 11.11): the slot qualifies as a spare of its group. -/
def warm (b : Block) (n : Nat) : Bool := spareFits b n (getSlot b n).group (getSlot b n).decl

/-- The first spare on this tray that qualifies for the accelerator of slot `f`. -/
def findSpare (b : Block) (f : Nat) : Option Nat :=
  (upFrom 0 16).find? fun n => n != f && spareFits b n (getSlot b f).group (getSlot b f).decl

/-- A slot becomes ACTIVE for a tenant: its counters zero (R374). -/
def activateSlot (b : Block) (n t : Nat) : Block :=
  zeroCounters (modSlot b n fun r => { r with role := roleActive, claimed := false, tenant := t }) (slotCounter n 0) 16

/-- A rank's place changes (R298). -/
def setRankPlace (b : Block) (t rank : Nat) (p : Place) : Block :=
  modTen b t fun r => { r with places := setNth r.places rank p }

/-- A spare of this tray takes a rank: place, region list, exponents; it becomes ACTIVE and, where the failed slot is
on this tray, that one is withdrawn (R298). -/
def tipInHere (b : Block) (t rank spare : Nat) (failed : Place) : Block :=
  let f := placeSlot failed
  let local' := onTray b failed
  let b1 := setRankPlace b t rank (slotPlace b spare)
  let b2 := activateSlot b1 spare t
  let b3 := if local' then modSlot b2 spare fun r => { r with regions := (getSlot b f).regions } else b2
  let b4 := if local' then
    modTen b3 t fun r => { r with pendLists := r.pendLists.map fun q => if q.slot = f then { q with slot := spare } else q }
    else b3
  let b5 := if local' then withdrawSlot b4 f else b4
  let b6 := sendPolicy b5 t spare
  each (((participants (getTen b t)).foldl withEntry (participants (getTen b6 t))).filter fun p => p != ownPlace b)
    (fun p b => emit b (.order p (.place t rank (slotPlace b spare)))) b6

/-! ## The leader (R294) -/

/-- Whether a tray is present as far as this GLT's censuses show. -/
def trayPresent (b : Block) (p : Place) : Bool :=
  let o := ownPlace b
  if p = o then true
  else
    match topRing [p, o] with
    | 0 => !ringAlone b 0 && ringHas b 0 (placeTray p)
    | k => if ringMember b k then !ringAlone b k && ringHas b k (memberNo k p) else true

/-- Whether a place is suspect as far as this GLT knows: its table holds a SUSPECT entry, or a SUSPECT broadcast named it. -/
def isSuspect (b : Block) (p : Place) : Bool :=
  b.sus.told.contains p || b.sus.entries.any fun (_, e) => decide (e.state = .suspect) && e.target == p

/-- The recovery leader: the GLT of the lowest rank whose GLT is present and not suspect. -/
def leaderOf (b : Block) (t : Nat) : Place :=
  let ps := participants (getTen b t)
  ((ps.find? fun p => trayPresent b p && !isSuspect b p).getD (leadPlace (getTen b t)))

def isLeader (b : Block) (t : Nat) : Bool := leaderOf b t == ownPlace b && !(getTen b t).places.isEmpty

def modRec (b : Block) (t : Nat) (f : Recovery → Recovery) : Block := modTen b t fun r => { r with rec' := f r.rec' }

/-- The tenant enters WAIT_HOST and stays held (R295). -/
def waitHost (b : Block) (t : Nat) : Block :=
  raise (modRec b t fun r => { r with phase := .waitHost }) .sr 3 (aboutTen b t)

/-! ## The steps of R295 -/

/-- Step 4: every participant is ordered to restore every rank; RESTORED is awaited. -/
def orderRestores (b : Block) (t : Nat) : Block :=
  let b1 := modRec b t fun r =>
    { r with phase := .restoring, restoredBy := [], restoreAt := nowNs b + b.sus.restoreTimeoutS * nsPerSec }
  each (participants (getTen b t)) (fun p b => emit b (.order p (.restore t))) b1

/-- The rank that a place serves in a tenant: the accelerator of the place. -/
def rankOfPlace (r : TenantRec) (p : Place) : Option Nat :=
  (upFrom 0 r.places.length).find? fun k => accelOf p == accelOf (nthD 0 r.places k)

/-- What removing a part led to: done, a tip-in that another GLT is to answer, or a step that cannot be taken. -/
inductive Removal where
  | done | remote | stuck
  deriving DecidableEq, Repr

/-- Step 3 for an accelerator: withdrawn, and a spare of the same GLT tipped in. -/
def removeAccel (b : Block) (t : Nat) (p : Place) : Block × Removal :=
  let a := accelOf p
  match rankOfPlace (getTen b t) p with
  | none => (b, .done)
  | some k =>
    if onTray b p then
      if !b.sus.autoTipin then (withdrawSlot b (placeSlot a), .stuck)
      else
        match findSpare b (placeSlot a) with
        | none => (withdrawSlot b (placeSlot a), .stuck)
        | some n => (tipInHere b t k n a, .done)
    else
      let b1 := emit b (.order (trayOf a) (.withdraw a))
      if b.sus.autoTipin then (emit b1 (.order (trayOf a) (.tipIn t k a)), .remote) else (b1, .stuck)

/-- Step 3 for a unit: trimmed, or its accelerator removed beyond SR_TRIM_MAX. -/
def removeUnit (b : Block) (t : Nat) (p : Place) : Block × Removal :=
  if onTray b p then
    let s := getSlot b (placeSlot p)
    if (withEntry s.trimCopy (placeUnit p)).length > b.sus.trimMax then removeAccel b t p
    else (trimSlot b (placeSlot p) (placeUnit p) true, .done)
  else (emit b (.order (trayOf p) (.trim p)), .done)

/-- Step 3 by the level of the target; a tray is never handled automatically. -/
def removePart (b : Block) (t : Nat) (p : Place) : Block × Removal :=
  match placeLevel p with
  | 0 => removeUnit b t p
  | 1 => removeAccel b t p
  | _ => (b, .stuck)

/-- Removes every target in turn; one step that cannot be taken stands for all. -/
def removeParts (t : Nat) : List Place → Block × Removal → Block × Removal
  | [], x => x
  | p :: r, (b, res) =>
    let (b1, one) := removePart b t p
    removeParts t r (b1, match res, one with
      | .stuck, _ => .stuck
      | _, .stuck => .stuck
      | .remote, _ => .remote
      | _, x => x)

/-- Steps 3 and 4: the parts are removed, then the restores are ordered; an isolation that found no candidate withdraws
every one left and waits for the host (R293 step 5). -/
def recAct (b : Block) (t : Nat) : Block :=
  let r := (getTen b t).rec'
  let b1 := modRec b t fun r => { r with phase := .acting, targets := [],
                                         restoreAt := nowNs b + b.sus.restoreTimeoutS * nsPerSec }
  if r.isoFailed then waitHost (modRec (each r.targets withdrawPlace b1) t fun r => { r with isoFailed := false }) t
  else
    match removeParts t r.targets (b1, .done) with
    | (b2, .done) => orderRestores b2 t
    | (b2, .remote) => b2
    | (b2, .stuck) => waitHost b2 t

/-- The management cores do not run although an image has booted: a control gap, or MPLL out of lock (R361, R327). -/
def fwStalled (b : Block) : Bool :=
  match b.fw.phase with
  | .gap => true
  | .boot => false
  | .running | .rebinding => (getPll b 1).stopped

/-- A decision of firmware: taken now, or when the cores run again (R361). -/
def whenFw (k : FwTask) (f : Block → Block) (b : Block) : Block :=
  if fwStalled b then { b with fw := { b.fw with tasks := b.fw.tasks ++ [k] } } else f b

/-- Step 2 ends: the cut of the tenant is HELD or INCOMPLETE (R295). -/
def recCut (b0 : Block) (t : Nat) : Block :=
  b0 |> whenFw (.cut t) fun b =>
  if (getTen b t).rec'.phase = .holding && isLeader b t then
    if b.sus.auto then recAct b t else waitHost b t
  else b

/-- Step 1: a hold is scheduled, or one already scheduled is joined; a tenant already held goes on to step 3. -/
def recBegin (b : Block) (t : Nat) (targets : List Place) : Block :=
  let h := (getTen b t).hold
  let b1 := modRec b t fun r =>
    { r with phase := .holding, count := if r.count < 0xFFFFFFFF then r.count + 1 else r.count,
             target := targets.headD r.target, targets := targets, restoredBy := [], failedVoteAt := none,
             failedHost := targets.isEmpty && r.failedHost }
  match h.phase with
  | .none => scheduleHold b1 t (nowNs b + minLeadNs b) true none
  | .scheduled | .cutting => b1
  | .held | .incomplete => recCut b1 t

/-- The leader acts on a SUSPECT for one of a tenant's places (R295, R300). -/
def recSuspectNow (b : Block) (t : Nat) (p : Place) : Block :=
  let add := modRec b t fun r => { r with target := p, targets := withEntry r.targets p }
  match (getTen b t).rec'.phase with
  | .none | .replaying | .isolating => recBegin b t [p]
  | .holding => add
  | .acting | .restoring => if b.sus.auto then recAct add t else waitHost add t
  | .waitHost => modRec b t fun r => { r with target := p }

/-- The leader of a tenant receives a SUSPECT for one of its places. -/
def recSuspect (b : Block) (t : Nat) (p : Place) : Block := whenFw (.suspect t p) (fun b => recSuspectNow b t p) b

/-- Tenants with a rank on a place, led by this GLT. -/
def ledTenants (b : Block) (p : Place) : List Nat :=
  (liveTenants b).filter fun t =>
    isLeader b t && (getTen b t).places.any fun q => placeWithin q p || placeWithin p q

/-- SUSPECT reaches a GLT: every tenant it leads that has a rank there is recovered (R292, R295). -/
def onSuspectPlace (b : Block) (p : Place) : Block := each (ledTenants b p) (fun t b => recSuspect b t p) b

/-- Step 5: every participant has restored: the leader orders the release, or after a HOST vote leaves the tenant held
(R295, R296). -/
def recAllRestored (b : Block) (t : Nat) : Block :=
  if (getTen b t).rec'.failedHost then waitHost b t
  else scheduleRelease b t (nowNs b + minLeadNs b) none

/-- A participant's RESTORED reaches the leader. -/
def recRestored (b0 : Block) (t : Nat) (p : Place) (status : Byte) : Block :=
  b0 |> whenFw (.restored t p status) fun b =>
  if (getTen b t).rec'.phase ≠ .restoring || !isLeader b t then b
  else if status ≠ stOk then waitHost b t
  else
    let b1 := modRec b t fun r => { r with restoredBy := (r.restoredBy.filter fun x => x.1 != p) ++ [(p, status)] }
    if (participants (getTen b t)).all fun q => (getTen b1 t).rec'.restoredBy.any fun x => x.1 == q then
      recAllRestored b1 t
    else b1

/-! ## A new leader (R294, R300) -/

/-- The suspect places of a tenant that this GLT's table names: those of units and accelerators. -/
def knownSuspects (b : Block) (t : Nat) : List Place :=
  (b.sus.entries.filter fun (_, e) =>
    decide (e.state = .suspect) && decide (placeLevel e.target ≤ 1) &&
      (getTen b t).places.any fun q => placeWithin q e.target || placeWithin e.target q).map fun x => x.2.target

/-- Whether this GLT has seen that a tenant's hold belongs to a recovery: a restore ran or runs, a vote failed, or a place of
the tenant is suspect (DESIGN CHOICE, log entry 167: no cell tells the participants). -/
def recoverySeen (b : Block) (t : Nat) : Bool :=
  let r := getTen b t
  r.hold.restored || (b.bd.jobs.any fun j => decide (j.for' = .recovery) && j.tenant == t) ||
    (r.gatherings.any fun g => decide (g.round = .failed) && !g.released) || !(knownSuspects b t).isEmpty

/-- The leadership of a tenant has come here, by a census or a SUSPECT, while its hold stands: the new leader resumes from
step 2 (R300). -/
def takeLead (was : Block) (t : Nat) (b : Block) : Block :=
  let r := getTen b t
  if isLeader was t || !isLeader b t || decide (r.rec'.phase ≠ .none) || !heldOrHolding r.hold || !recoverySeen b t then b
  else
    let b1 := modRec b t fun r => { r with phase := .holding, targets := knownSuspects b t, restoredBy := [] }
    match r.hold.phase with
    | .none | .scheduled | .cutting => b1
    | .held | .incomplete => recCut b1 t

/-- The recoveries whose leadership a change has brought here go on. -/
def takeLeads (was b : Block) : Block := each (liveTenants b) (takeLead was) b

/-- SUSPECT names a tray: it leads no tenant from now on (R294); the tenants that this GLT leads are recovered (R292). -/
def onSuspectTray (b : Block) (p : Place) : Block :=
  onSuspectPlace { b with sus := { b.sus with told := withEntry b.sus.told p } } p

/-! ## Failed votes (R296) -/

/-- A failed sew vote reaches the leader of a tenant: with no recovery under way it waits SR_MERGE_WINDOW for a SUSPECT;
HOST is kept for step 5. -/
def recFailedVote (b : Block) (t : Nat) (host : Bool) : Block :=
  if !isLeader b t then b
  else if heldOrHolding (getTen b t).hold then b
  else modRec b t fun r =>
    { r with failedHost := r.failedHost || host,
             failedVoteAt := r.failedVoteAt.orElse fun _ => some (nowNs b + b.sus.mergeWindowUs * 1000) }

/-! ## Isolation (R293) -/

/-- Whether a candidate has a transient divergence within the last 24 h. -/
def recentTransient (b : Block) (r : Recovery) (k : Nat) : Bool :=
  r.transient.any fun (i, at') => i == k && decide (nowNs b < at' + 86400 * nsPerSec)

/-- The candidates of a tenant are cleared, and their slots here sample at their own exponents again (R293). -/
def isoClear (b : Block) (t : Nat) : Block :=
  let r := getTen b t
  let slots := (tenantSlots b r).filter fun n => ((slotRank? b r n).map r.rec'.candidates.contains).getD false
  each slots (fun n b => sendPolicy b t n)
    (modRec b t fun r => { r with candidates := [], isoUntil := none, tries := 0, tried := [] })

/-- Members of a divergence become candidates, up to four, until the replay begins (R293). -/
def isoMark (b : Block) (t : Nat) (ranks : List Nat) : Block :=
  let r := (getTen b t).rec'
  if !b.sus.isolateEn || r.isoUntil.isSome || decide (0 < r.tries) then b
  else modRec b t fun r => { r with candidates := sortNat ((ranks.foldl withEntry r.candidates).take 4) }

/-- Step 4 of R293: the next candidate is removed under a hold, with a spare in its place. -/
def isoTry (b : Block) (t : Nat) : Block :=
  let r := (getTen b t).rec'
  let p := nthD 0 (getTen b t).places (nthD 0 r.candidates r.tries)
  recSuspect (modRec b t fun r => { r with tries := r.tries + 1, tried := r.tried ++ [p], isoUntil := none }) t p

/-- Step 5 of R293: no candidate was found; those not tried are withdrawn too, and the tenant waits for the host. -/
def isoExhaust (b : Block) (t : Nat) : Block :=
  let r := (getTen b t).rec'
  let left := (r.candidates.drop r.tries).map fun k => nthD 0 (getTen b t).places k
  let b1 := raise (isoClear b t) .sr 5 (aboutTen b t)
  recBegin (modRec b1 t fun r => { r with isoFailed := true }) t left

/-- A digest comparison without a strict majority names the members' ranks (R293): they become candidates, or, where the
replay of earlier candidates diverges again, the next one is tried.  A GLT that is not the leader tells it (DESIGN CHOICE,
log entry 167: the manual names no message). -/
def isoDiverged (b : Block) (t : Nat) (ranks : List Nat) : Block :=
  let r := (getTen b t).rec'
  if !b.sus.isolateEn then b
  else if !isLeader b t then emit (isoMark b t ranks) (.order (leaderOf b t) (.isolate t ranks))
  else if r.isoUntil.isNone then isoMark b t ranks
  else if r.tries ≥ b.sus.isolateMax || r.tries ≥ r.candidates.length then isoExhaust b t
  else isoTry b t

/-- A gathering of the tenant is sewn while candidates stand: without tries the divergence was transient, and a second
one within 24 h withdraws its candidate; after tries the last candidate stays withdrawn and the earlier ones are
readmitted (R293 steps 3 and 4). -/
def isoSewn (b : Block) (t n : Nat) : Block :=
  let r := (getTen b t).rec'
  if r.candidates.isEmpty || n < r.isoUntil.getD (n + 1) then b
  else if r.tries = 0 then
    let again := r.candidates.filter (recentTransient b r)
    let b1 := modRec (isoClear b t) t fun x => { x with transient := r.transient ++ r.candidates.map fun k => (k, nowNs b) }
    if isLeader b t then each again (fun k b => recSuspect b t (nthD 0 (getTen b t).places k)) b1 else b1
  else each (r.tried.take (r.tried.length - 1)) readmitPlace (isoClear b t)

/-- A confirmed FAIL on a candidate ends the isolation (R293 step 2). -/
def isoFail (b : Block) (t rank : Nat) : Block :=
  if (getTen b t).rec'.candidates.contains rank then isoClear b t else b

/-- SUSPECT for a failing unit reaches the leader: where its rank was a candidate the candidates are cleared. -/
def isoFailAt (b : Block) (t : Nat) (kind : RepKind) (p : Place) : Block :=
  match kind, rankOfPlace (getTen b t) p with
  | .tileFail, some k => isoFail b t k
  | _, _ => b

/-- The replay of an isolation begins at the release: the next gathering decides it (R293, R299). -/
def isoReplay (b : Block) (t : Nat) : Block :=
  modRec b t fun r => if r.candidates.isEmpty then r else { r with isoUntil := some ((getTen b t).started + 2) }

end Sys2Proof.Machine
end

