-- ==== Sys2Proof/Machine/UpstreamOps.lean ====
section
/-!
DEFINITION. Machine/UpstreamOps.lean: the upstream of spine time (R162), which every census chooses anew.
-/

namespace Sys2Proof.Machine

/-! ## The upstream (R162) -/

/-- The hop of ring `k` toward its head: the shorter way, west on a tie, never into a gap of this GLT. -/
def headward (b : Block) (k : Nat) : Nat :=
  let a := memberNo k (ownPlace b)
  let c := headNo b k
  if !hopUsable b (westHop k) then eastHop k
  else if !hopUsable b (eastHop k) then westHop k
  else if hopsUp b k c a ≤ hopsUp b k a c then westHop k else eastHop k

/-- Whether an uplink ring of a level is formed as far as this GLT knows: its last census found two members. -/
def ringFormed (b : Block) (k : Nat) : Bool := decide ((getRing b k).present ≥ 2)

/-- The delegate of this rack that joins it to ring `k` + 1, for the head of ring `k` (case 2 of R162). -/
def nextDelegate (b : Block) (k : Nat) : Option Nat :=
  let i := b.ident
  if k = 1 ∧ i.rack = 0 then some 1
  else if k = 2 ∧ i.rack = 0 ∧ i.block = 0 then some 2
  else none

/-- The hop of the upstream, or none at the time root. -/
def upstreamHop (b : Block) : Option Nat :=
  let viaL1 := if isHead b 0 then none else some (headward b 0)
  match uplinkLevel b with
  | none => viaL1
  | some k =>
    if ringAlone b k then viaL1
    else if !isHead b k then some (headward b k)
    else
      match nextDelegate b k with
      | none => none
      | some d => if ringFormed b (k + 1) && !ringAlone b 0 && ringHas b 0 d then some (toward b 0 d) else none

/-- The upstream that the GLT has: the hop of UP_PORT. -/
def upHop (b : Block) : Option Nat := if b.time.upValid then some (portHop b.time.upPort) else none

/-- Recomputes the upstream (R162, R164): a GLT without one is the root; a new one starts ACQUIRING, except that
FREE_RUN waits for a SYNC. -/
def chooseUpstream (b : Block) : Block :=
  match upstreamHop b with
  | none =>
    { b with time := { b.time with state := .root, upValid := false, upPort := 0, depth := 0, upHoldover := false,
                                   exchange := none, rootPlace := ownPlace b } }
  | some h =>
    let p := hopPort b h
    if upHop b = some h then { b with time := { b.time with upPort := p } }
    else
      let st := match b.time.state with
        | .freeRun => TimeState.freeRun
        | .acquiring | .locked | .holdover | .root => TimeState.acquiring
      { b with time := { b.time with state := st, upValid := true, upPort := p, ext := false, goodRun := 0, badRun := 0,
                                     missedSync := 0, upStep := b.time.stepCount, followDue := false, exchange := none } }

/-- The next 8 exchanges of the upstream hop are discarded after its path has changed (R167, R322). -/
def discardUp (b : Block) (h : Nat) : Block :=
  if upHop b = some h then { b with time := { b.time with discard := 8, exchange := none } } else b

end Sys2Proof.Machine
end

