-- ==== Sys2Proof/Machine/SuspectOps.lean ====
section
/-!
DEFINITION. Machine/SuspectOps.lean: filing, merging, forwarding and weighing suspect reports (R283-R292), and folding a
hop (R120), which files one.
-/

namespace Sys2Proof.Machine

/-- Codes of Table 11.1. -/
def repCode : RepKind → Nat
  | .tileFail => 1 | .hang => 2 | .seal => 3 | .divergence => 4 | .reach => 5 | .tetherLost => 6 | .slotAlert => 7
  | .slotAbsent => 8 | .domainLimit => 9 | .gltDomain => 10 | .pageCrc => 11 | .spineSilent => 12 | .hopLost => 13
  | .trimTimeout => 14 | .reporter => 15 | .thermal => 16

/-- Kinds that are recorded only (Table 11.1). -/
def recordedOnly : RepKind → Bool
  | .reach | .thermal => true
  | .tileFail | .hang | .seal | .divergence | .tetherLost | .slotAlert | .slotAbsent | .domainLimit | .gltDomain
  | .pageCrc | .spineSilent | .hopLost | .trimTimeout | .reporter => false

/-! ## Arbiters (R285) -/

/-- The lowest-numbered present member of a tray's L1 ring other than the tray: known from the census in this GLT's own
rack; elsewhere tray 0, or tray 1 for tray 0. -/
def trayArbiter (b : Block) (p : Place) : Place :=
  let o := ownPlace b
  let tray (i : Nat) : Place := mkPlace 2 (placeHall p) (placeBlock p) (placeRack p) i 0 0
  if topRing [p, o] = 0 then
    match (upFrom 0 32).find? fun i => i != placeTray p && trayPresent b (tray i) with
    | some i => tray i
    | none => o
  else tray (if placeTray p = 0 then 1 else 0)

/-- The arbiter of a target: the GLT of its tray for a unit or an accelerator. -/
def arbiterOf (b : Block) (p : Place) : Place := if placeLevel p ≤ 1 then trayOf p else trayArbiter b p

/-! ## Table entries (R287, R288) -/

/-- The entry that holds a target. -/
def findEntry (b : Block) (p : Place) : Option Nat :=
  (b.sus.entries.find? fun (_, e) => decide (e.state ≠ .free) && e.target == p).map Prod.fst

/-- An entry for a new target: a free one, else the WATCH entry that has gone longest without a report; none when
every entry is OPEN or SUSPECT. -/
def freeEntry (b : Block) : Option Nat :=
  match (upFrom 0 4096).find? fun i => decide ((getEntry b i).state = .free) with
  | some i => some i
  | none =>
    foldOver (fun best (x : Nat × Entry) =>
      if x.2.state ≠ .watch then best
      else
        match best with
        | none => some x.1
        | some k => if x.2.lastTime < (getEntry b k).lastTime then some x.1 else best) none b.sus.entries

/-- Whether an entry's merge window is running. -/
def windowOpen (e : Entry) : Bool := decide (e.windowEnd ≠ 0)

/-- The host is informed of an entry: cause group 7 (R287, R292). -/
def informHost (b : Block) : Block := each [0, 1, 2, 3] (pendPf 7 7) b

/-- A suspect cell goes toward a tray's GLT and is counted (R285, Table 14.1). -/
def sendSuspectCell (b : Block) (dest : Place) (body : CellBody) : Block :=
  if trayOf dest = ownPlace b then b else count (sendTo b dest {} body) (spineCounter 4) 1

/-! ## Decisions (R290-R292) -/

/-- The tenant of a place that this GLT knows. -/
def tenantOfPlace (b : Block) (p : Place) : Option Nat :=
  (liveTenants b).find? fun t => (getTen b t).places.any fun q => placeWithin q p || placeWithin p q

/-- SUSPECT goes out: to the recovery leader of the slot's tenant, or for a tray as a broadcast of system scope; where
this GLT leads, it acts (R292). -/
def sendSuspect (b : Block) (e : Entry) : Block :=
  let c : SuspectBody := { kind := e.lastKind, reporterRule := e.reporterRule, silent := e.silent, target := e.target,
                           arbiter := ownPlace b, time := stamp48 e.decided }
  if placeLevel e.target ≤ 1 then
    match tenantOfPlace b e.target with
    | none => b
    | some t =>
      if isLeader b t then recSuspect (isoFailAt b t e.lastKind e.target) t e.target
      else sendSuspectCell b (leaderOf b t) (.suspect c)
  else onSuspectTray (broadcastCell b 3 {} false (.suspect c)) e.target

/-- An entry becomes SUSPECT (R292); a report against a target that is already SUSPECT brings no new action (R300). -/
def decideSuspect (b : Block) (i : Nat) : Block :=
  let e := getEntry b i
  if e.state = .suspect then b
  else
    let e1 := { e with state := .suspect, decided := nowNs b }
    let b1 := raise (setEntry b i e1) .sr 1 { place := e.target, source := i, tenant := tenantOfPlace b e.target }
    sendSuspect b1 e1

/-- R290: with two distinct reporters, those that the reporter rule set aside left out, the target is suspect when it is
silent or has reported itself; a tray target is probed as soon as a second reporter names it. -/
def weigh (b0 : Block) (i : Nat) : Block :=
  b0 |> whenFw (.weigh i) fun b =>
  let e := getEntry b i
  if (e.reporters.filter fun p => !e.aside.contains p).length < 2 || e.state = .suspect then b
  else if e.silent || e.selfRep then decideSuspect b i
  else if placeLevel e.target ≥ 2 && !e.probed then
    let id := b.sus.nextProbe
    let b1 := { b with sus := { b.sus with nextProbe := id + 1 } }
    let till := nowNs b + b.sus.probeTimeoutMs * 1000000
    let b2 := setEntry b1 i { e with probed := true, probeId := id, probeUntil := some till }
    sendSuspectCell b2 e.target (.probe { target := e.target, arbiter := ownPlace b, probeId := id })
  else b

/-! ## Merging (R287) -/

/-- What a local report says of its target (R283). -/
structure RepAbout where
  isLocal : Bool := false
  context : W32 := 0
  temp : W16 := 0x8000
  voltage : W16 := 0xFFFF
  aside : Bool := false              -- the reporter rule sets the report aside (R291)
  deriving DecidableEq, Repr

/-- Whether a report names a candidate of an isolation (R293). -/
def namesCandidate (b : Block) (r : RepBody) : Bool := r.kind == RepKind.divergence && !r.conclusive && b.sus.isolateEn

/-- What the first local report tells of its target (Table 11.10). -/
def firstLocal (e : Entry) (a : RepAbout) : Entry :=
  if a.isLocal && !e.isLocal then { e with isLocal := true, temp := a.temp, voltage := a.voltage, context := a.context } else e

/-- A report opens a window in an entry or merges into the running one. -/
def mergeInto (b : Block) (e0 : Entry) (r : RepBody) (a : RepAbout) : Entry :=
  let now := nowNs b
  let e := firstLocal e0 a
  let e1 := { e with count := e.count + r.count, last := r.reporter, lastTime := now, lastKind := r.kind,
                     reporterRule := e.reporterRule || r.kind == RepKind.reporter,
                     isolating := e.isolating || namesCandidate b r }
  if windowOpen e then
    { e1 with merged := e.merged + r.count, reporters := withEntry e.reporters r.reporter,
              mergedConcl := e.mergedConcl || (r.conclusive && !a.aside), selfRep := e.selfRep || (r.self && !a.aside),
              aside := if a.aside then withEntry e.aside r.reporter else e.aside }
  else
    { e1 with state := if e.state = EntryState.suspect then EntryState.suspect else EntryState.opened, merged := 0, probed := false, reporters := [r.reporter],
              mergedConcl := false, selfRep := r.self && !a.aside, aside := if a.aside then [r.reporter] else [],
              windowEnd := now + b.sus.mergeWindowUs * 1000, silent := if e.state = EntryState.suspect then e.silent else false }

/-- A new entry for a report. -/
def entryOf (b : Block) (r : RepBody) (a : RepAbout) : Entry :=
  { state := .opened, target := r.target, kind := r.kind, lastKind := r.kind, isLocal := a.isLocal,
    selfRep := r.self && !a.aside, reporterRule := r.kind == RepKind.reporter, isolating := namesCandidate b r,
    aside := if a.aside then [r.reporter] else [],
    first := r.reporter, last := r.reporter, reporters := [r.reporter], count := r.count, firstTime := nowNs b,
    lastTime := nowNs b, temp := a.temp, voltage := a.voltage, context := a.context,
    windowEnd := nowNs b + b.sus.mergeWindowUs * 1000, ours := arbiterOf b r.target == ownPlace b }

/-- A rank that a divergence names becomes a candidate on its own tray too, so that its slot samples at exponent 0 (R293). -/
def markCandidate (b : Block) (r : RepBody) : Block :=
  match tenantOfPlace b r.target with
  | none => b
  | some t => if namesCandidate b r then isoMark b t (rankOfPlace (getTen b t) r.target).toList else b

/-- The arbiter weighs a report that it has merged (R290); recorded-only kinds lead to no action, and one set aside counts
for no target (R291). -/
def arbitrate (b0 : Block) (i : Nat) (r : RepBody) (aside : Bool) : Block :=
  b0 |> whenFw (.judge i r aside) fun b1 =>
  let b := markCandidate b1 r
  if aside then b
  else if recordedOnly r.kind then informHost b
  else if r.conclusive then decideSuspect b i
  else weigh b i

/-- Merges a report into the table and sends on the first of a window; a report that finds no room is forwarded
unmerged (R287, R288). -/
def absorb (b : Block) (r : RepBody) (a : RepAbout) (cell : CellBody) : Block :=
  let arb := arbiterOf b r.target
  let mine := arb == ownPlace b
  match findEntry b r.target with
  | some i =>
    let e := getEntry b i
    let b1 := setEntry b i (mergeInto b e r a)
    let b2 := if windowOpen e then b1 else if mine then informHost b1 else sendSuspectCell b1 arb cell
    if mine then arbitrate b2 i r a.aside else b2
  | none =>
    match freeEntry b with
    | some i =>
      let b1 := setEntry b i (entryOf b r a)
      if mine then arbitrate (informHost b1) i r a.aside else sendSuspectCell b1 arb cell
    | none =>
      let b1 := { b with sus := { b.sus with unmerged := b.sus.unmerged + 1 } }
      let b2 := raise b1 .sr 2 { place := r.target }
      if mine then b2 else sendSuspectCell b2 arb cell

/-! ## Filing (R283, R289, R291) -/

/-- The Flyleaf record of a report filed or received (R289, Table 14.8). -/
def reportRecord (b : Block) (type' : Nat) (r : RepBody) (context source : Nat) (meas : Meas) : Block :=
  flyEvent b type' { place := r.target, source := source, context := context, tenant := tenantOfPlace b r.target,
                     arg := repCode r.kind, meas := meas }

/-- The report that this GLT files, with the distinct targets that it has named (Table 11.2). -/
def ownReport (b : Block) (kind : RepKind) (target : Place) (conclusive self : Bool) : RepBody :=
  { kind := kind, self := self, conclusive := conclusive, distinct := min 255 (withEntry b.sus.named target).length,
    target := target, reporter := ownPlace b, count := 1, time := stamp48 (nowNs b) }

/-- R291: whether the reporter rule sets a report aside: its reporter names four or more targets. -/
def reporterRule (b : Block) (r : RepBody) : Bool :=
  decide (r.kind ≠ .reporter) &&
    (decide (r.distinct ≥ 4) ||
      decide ((withEntry (((b.sus.byReporter.find? fun x => x.1 == r.reporter).map Prod.snd).getD []) r.target).length ≥ 4))

/-- Keeps which targets a reporter has named in this arbiter's windows. -/
def noteReporter (l : List (Place × List Place)) (rep target : Place) : List (Place × List Place) :=
  match l with
  | [] => [(rep, [target])]
  | (p, ts) :: r => if p = rep then (p, withEntry ts target) :: r else (p, ts) :: noteReporter r rep target

def noteReport (b : Block) (r : RepBody) : Block :=
  { b with sus := { b.sus with byReporter := noteReporter b.sus.byReporter r.reporter r.target } }

/-- A report that this GLT files itself; `aside` where the reporter rule, which holds for its own reports as for others',
sets it aside. -/
def fileAs (b : Block) (kind : RepKind) (target : Place) (conclusive self aside : Bool) (context source : Nat) (meas : Meas) :
    Block :=
  let r := ownReport b kind target conclusive self
  let b1 := { b with sus := { b.sus with named := withEntry b.sus.named target, reports := b.sus.reports + 1 } }
  let b2 := reportRecord b1 0x07E0 r context source meas
  let local' := onTray b target
  absorb b2 r { isLocal := local', context := BitVec.ofNat 32 context, aside := aside,
                temp := if local' then measTemp b1 meas else 0x8000,
                voltage := if local' then measVolt (takeFree b1) else 0xFFFF } (.report r)

/-- REPORTER is filed against a reporter's tray; it is itself set aside by no rule (DESIGN CHOICE, log entry 168). -/
def fileReporter (b : Block) (reporter : Place) : Block :=
  fileAs (raise b .sr 4 { place := reporter }) .reporter (trayOf reporter) true false false 0 0 (.sensor 0 0)

/-- A report that this GLT files itself, weighed by the reporter rule where this GLT is the target's arbiter (R291). -/
def fileOne (b : Block) (kind : RepKind) (target : Place) (conclusive self : Bool) (context source : Nat) (meas : Meas) :
    Block :=
  if arbiterOf b target ≠ ownPlace b then fileAs b kind target conclusive self false context source meas
  else
    let r := ownReport b kind target conclusive self
    let b1 := noteReport b r
    if reporterRule b r then fileReporter (fileAs b1 kind target conclusive self true context source meas) (ownPlace b)
    else fileAs b1 kind target conclusive self false context source meas

/-- Files a suspect report (R283).  A unit or accelerator of a tray that is absent from the census makes it
SPINE_SILENT against that tray (R285); a GLT that names its fourth distinct target reports itself too (R291). -/
def fileReport (b : Block) (kind : RepKind) (target : Place) (conclusive : Bool) (context source : Nat := 0)
    (meas : Meas := .sensor 0 0) : Block :=
  let before := b.sus.named.length
  let b1 :=
    if placeLevel target ≤ 1 && !trayPresent b (trayOf target) then
      fileOne b .spineSilent (trayOf target) false false context source meas
    else fileOne b kind target conclusive false context source meas
  if before < 4 && b1.sus.named.length ≥ 4 then fileOne b1 .gltDomain (ownPlace b) false true 0 0 (.sensor 0 0) else b1

/-- A report against this GLT itself (R271, R291). -/
def fileSelf (b : Block) (source : Nat) : Block :=
  fileOne b .gltDomain (ownPlace b) false true 0 source (.sensor 0 0)

/-- A conclusive local report against a slot's accelerator. -/
def fileSlot (b : Block) (kind : RepKind) (n : Nat) : Block := fileReport b kind (slotPlace b n) true 0 (n * 256) (.slot n)

/-- A conclusive local report against a unit of a slot. -/
def fileUnit (b : Block) (kind : RepKind) (n u context : Nat) : Block :=
  fileReport b kind (unitPlace b n u) true context (n * 256) (.slot n)

/-- A report or a summary received on the Spine (R287-R291): one that the reporter rule sets aside is merged and counted, and
its reporter's tray is reported. -/
def receiveReport (b : Block) (r : RepBody) (cell : CellBody) : Block :=
  let b1 := { b with sus := { b.sus with reports := b.sus.reports + 1 } }
  let b2 := reportRecord b1 0x07E1 r 0 0 (.sensor 0 0)
  if arbiterOf b r.target ≠ ownPlace b then absorb b2 r {} cell
  else
    let b3 := noteReport b2 r
    if reporterRule b r then fileReporter (absorb b3 r { aside := true } cell) r.reporter else absorb b3 r {} cell

/-! ## Folding a hop (R120) -/

/-- The place of the member beyond a hop, as training found it. -/
def hopNeighbour (b : Block) (h : Nat) : Place := (getPort b (hopPort b h)).nbr

/-- The ring of a hop. -/
def hopRing (b : Block) (h : Nat) : Nat := if h < 2 then 0 else (uplinkLevel b).getD 1

/-- The census that the head starts: its own bit and the next EPOCH; alone it takes its result at once, and its upstream is
chosen anew (R121, R162). -/
def startCensus (b : Block) (k : Nat) : Block :=
  let own := memberNo k (ownPlace b)
  let r := getRing b k
  let map : BitVec 64 := BitVec.ofNat 64 (2 ^ own)
  if ringAlone b k then
    takeLeads b <| chooseUpstream (setRing b k
      { r with present := 1, head := true, member := true, epoch := r.epoch + 1, map := map,
               folded := r.gap.isSome || (getHop b (eastHop k)).folded || (getHop b (westHop k)).folded })
  else sendHop b (eastHop k) { level := Fin.ofNat 4 k } (.census map (r.epoch + 1))

/-- The member east of the gap that a fold of hop `h` here opens, where it is known. -/
def gapOf (b : Block) (h : Nat) : Option Nat :=
  let k := hopRing b h
  if h % 2 = 0 then some (memberNo k (ownPlace b))
  else if hopNeighbour b h = 0 then none
  else some (memberNo k (hopNeighbour b h))

/-- A hop folds: traffic turns around here, its unacknowledged cells and frames are resent turned, SP_ERR.FOLD is set,
HOP_LOST is filed against the tray beyond, and the head takes a census (R120, R121, R283).  The member whose west hop
folded sends FOLD east round the ring with its own number; LAP 1 says that the head knows of the fold (DESIGN CHOICE, log
entry 157). -/
def foldHop (b : Block) (h : Nat) : Block :=
  let hop := getHop b h
  if hop.folded then b
  else
    let k := hopRing b h
    let p := hopPort b h
    let b1 := setHop b h { hop with folded := true, unacked := [], dunacked := [], dualUntil := none, failoverSent := false,
                                    unfoldOffer := none, unfoldAt := none, lateTurned := false, failbackOffer := none,
                                    failbackAt := none, waiting := [], rxAny := false, drxAny := false }
    let b1 := clearQueue (clearQueue b1 (hopRail h false)) (hopRail h true)
    let b2 := portNote (modPort b1 p fun r => { r with turned := true, dual := false }) p 0x0C 1 0 0
    let b3 := modRing b2 k fun r => { r with folded := true, gap := (gapOf b h).orElse fun _ => r.gap }
    let b4 := count (raise b3 .sp 2 (aboutPort b p)) (spineCounter 5) 1
    let resent := each (hop.unacked.filter fun c => !hopLocal c.2) (fun c b => sendHop b h c.1 c.2) b4
    let b5 := each hop.dunacked (fun f b => sendFrameHop b h f.1 f.2) resent
    let own := memberNo k (ownPlace b)
    let tell := !ringAlone b5 k && h % 2 == 0
    let b6 := onlyIf tell (fun b => sendHop b (eastHop k) { level := Fin.ofNat 4 k, lap2 := isHead b k } (.fold own)) b5
    let b6 := onlyIf (isHead b6 k) (fun b => startCensus b k) b6
    let beyond := hopNeighbour b h
    if beyond = 0 then b6 else fileReport b6 .hopLost beyond false 0 p (.sensor (17 + p / 4) 2)

/-- A rail of a hop is down or its grade FAILED: whether both are (R120). -/
def railDown (b : Block) (p : Nat) : Bool :=
  let r := getPort b p
  r.grade == .failed ||
    match r.state with
    | .active | .standby => false
    | .down | .training | .failed | .miscabled => true

end Sys2Proof.Machine
end

