-- ==== Sys2Proof/Machine/SewOps.lean ====
section
/-!
DEFINITION. Machine/SewOps.lean: barrier rounds up to their release time (R136-R140), sew votes (R141-R144) and what
SEWN does (R216, R225).  Carrying a release out and starting a gathering stand in StartOps.
-/

namespace Sys2Proof.Machine

/-! ## Gatherings of a tenant -/

def findG (l : List Gathering) (n : Nat) : Gathering := (l.find? fun g => g.n == n).getD { n := n }

/-- The record of gathering `n`; one that is not held reads as a fresh one. -/
def getG (b : Block) (t n : Nat) : Gathering := findG (getTen b t).gatherings n
def hasG (b : Block) (t n : Nat) : Bool := (getTen b t).gatherings.any fun g => g.n == n

/-- Puts a record in ascending order of its number. -/
def putG : List Gathering → Gathering → List Gathering
  | [], g => [g]
  | x :: r, g => if g.n < x.n then g :: x :: r else if g.n = x.n then g :: r else x :: putG r g

def setG (b : Block) (t : Nat) (g : Gathering) : Block := modTen b t fun r => { r with gatherings := putG r.gatherings g }
def modG (b : Block) (t n : Nat) (f : Gathering → Gathering) : Block := setG b t (f (getG b t n))
def dropG (b : Block) (t n : Nat) : Block :=
  modTen b t fun r => { r with gatherings := r.gatherings.filter fun g => g.n != n }

/-! ## Barriers -/

def getBar (b : Block) (t g : Nat) : Barrier := tabGet {} (getTen b t).barriers g
def modBar (b : Block) (t g : Nat) (f : Barrier → Barrier) : Block :=
  modTen b t fun r => { r with barriers := tabMod {} r.barriers g f }

/-- Member ranks of a group: group 0 holds every rank (R136). -/
def barMembers (r : TenantRec) (g : Nat) : List Nat :=
  if g = 0 then upFrom 0 r.places.length else (tabGet {} r.barriers g).members

def barConfigured (b : Block) (t g : Nat) : Bool :=
  if g = 0 then !(getTen b t).places.isEmpty else (getBar b t g).configured

/-- The GLTs that serve a member rank. -/
def barParticipants (r : TenantRec) (g : Nat) : List Place :=
  foldOver (fun l k => withEntry l (trayOf (nthD 0 r.places k))) [] (barMembers r g)

/-- Member ranks of this GLT. -/
def barLocal (b : Block) (t g : Nat) : List Nat :=
  (localRanks b (getTen b t)).filter fun k => (barMembers (getTen b t) g).contains k

/-- R18: whether a release of group 0 waits for a sew: it would start a gathering, and the newest gathering that has
started and was not rolled back is not sewn. -/
def waitsForSew (b : Block) (t : Nat) : Bool :=
  let r := getTen b t
  decide (r.s ≠ 0) && decide ((r.step + 1) % r.s = 0) &&
    r.gatherings.any fun g => g.n == r.started && !g.rolledBack && decide (g.round ≠ .sewn)

/-- This GLT's contribution to a barrier round (R137). -/
def barOwn (b : Block) (t g : Nat) : Option (Bool × BarBody) :=
  let bar := getBar b t g
  let body : BarBody := { round := bar.round % 65536, tenant := Fin.ofNat 1024 t }
  let mine := barLocal b t g
  if mine.isEmpty then some (false, body)
  else if !(mine.all fun k => bar.arrived.contains k) then none
  else if g = 0 && waitsForSew b t then none
  else some (false, { body with count := 1 })

/-- BARRIER partials add their participants. -/
def barComb : Comb BarBody := fun x y => ({ x with count := x.count + y.count }, false)

def barHdr (t g : Nat) : CellHdr := { chan := BitVec.ofNat 11 t, group := Fin.ofNat 4 g }

def putBar (h : Nat) (hdr : CellHdr) (x : BarBody) (b : Block) : Block := sendHop b h hdr (.barrier x)

/-- Completes the ARRIVEs of a round with a status. -/
def finishArrives (b : Block) (t g : Nat) (st : Byte) : Block :=
  each (getBar b t g).arriveIss (fun x b => complete b x.2.1 0x0401 st) b

/-- A round ends: the next arrival belongs to the next round (R136). -/
def nextBarRound (b : Block) (t g : Nat) : Block :=
  modBar b t g fun x => { x with round := x.round + 1, arrived := [], arriveIss := [], lap := {}, early := [], release := none,
                                 lateRelease := false, withheld := false, withheldSewn := false }

/-- A GLT that holds the tenant and serves none of its ranks follows the step of group 0, so that it can head the laps of
the votes to come (R116). -/
def followStep (b : Block) (t : Nat) : Block :=
  let r := getTen b t
  if !r.exists' || !(localRanks b r).isEmpty then b
  else
    let b1 := modTen b t fun r => { r with step := r.step + 1 }
    if r.s ≠ 0 ∧ (r.step + 1) % r.s = 0 then modG b1 t ((r.step + 1) / r.s) fun g => g else b1

/-- The second lap of a barrier reaches this GLT: T_r is set, or the round ends without a release (R134, R136, R123).
An aborted round whose COUNT is 0 was cut off; the others differ in shape. -/
def barResult (b : Block) (t g : Nat) (abort : Bool) (x : BarBody) : Block :=
  let b1 := count b (spineCounter 1) 1
  if abort then
    let st := if x.count = 0 then stWithdrawn else stShapeMismatch
    let b2 := finishArrives b1 t g st
    nextBarRound (if x.count = 0 then b2 else raise b2 .sp 7 (aboutTen b t)) t g
  else if (barLocal b t g).isEmpty then nextBarRound (if g = 0 then followStep b1 t else b1) t g
  else modBar b1 t g fun y => { y with release := some x.release, lap := {} }

/-- The first lap has closed at the head of the top ring: the release time goes out, or the round is cut short. -/
def barTop (b : Block) (t g k : Nat) (cut abort : Bool) (x : BarBody) : Bool × BarBody :=
  let parts := barParticipants (getTen b t) g
  if abort then (true, { x with count := Nat.max 1 x.count })
  else if cut || decide (x.count < parts.length) || censusLacks b k parts then (true, { x with count := 0 })
  else (false, { x with release := nowNs b + nthD 0 b.spine.relLead k })

/-- Carries out a round's lap actions. -/
def barAct (t g : Nat) (a : LapAct BarBody) (b : Block) : Block :=
  match a with
  | .deliver abort x => barResult b t g abort x
  | .result k cut abort x =>
    let (ab, y) := barTop b t g k cut abort x
    each (spreadFrom b k ab y) (fun a b =>
      match a with
      | .deliver abort x => barResult b t g abort x
      | .send k l ab x => lapSend putBar (barHdr t g) (.send k l ab x) b
      | .hand k l ab x => lapSend putBar (barHdr t g) (.hand k l ab x) b
      | .result _ _ _ _ => b) b
  | .send k l ab x => lapSend putBar (barHdr t g) (.send k l ab x) b
  | .hand k l ab x => lapSend putBar (barHdr t g) (.hand k l ab x) b

/-- The rings whose laps of a group can move here: a GLT that serves ranks starts none of a group that is not configured on it,
since the group has not taken effect (R136). -/
def barRings (b : Block) (t g : Nat) : List Nat :=
  [0, 1, 2, 3].filter fun k => barConfigured b t g || !isParticipant b (getTen b t) || !isHead b k

/-- Moves a barrier round on as far as it can go here. -/
def pumpBar (t g : Nat) (b : Block) : Block :=
  let r := getTen b t
  let bar := getBar b t g
  let body : BarBody := { round := bar.round % 65536, tenant := Fin.ofNat 1024 t }
  let (l, acts) := lapPump b (participants r) (barOwn b t g) body barComb (tenTop b t) (barRings b t g) bar.lap
  each acts (barAct t g) (modBar b t g fun x => { x with lap := l, withheldSewn := g == 0 && waitsForSew b t })

/-! ## Sew votes -/

/-- Votes combine: the pass bits are ANDed, the HOST bits ORed, and tags that differ fail the vote (R141).  A GLT that holds
no colophon has no tag, which is 0 and differs from none (DESIGN CHOICE, log entry 160). -/
def voteComb : Comb VoteBody := fun x y =>
  let clash := x.tag != 0 && y.tag != 0 && x.tag != y.tag
  ({ x with pass := x.pass && y.pass && !clash, tagMismatch := x.tagMismatch || y.tagMismatch || clash,
            host := x.host || y.host, count := x.count + y.count, tag := if x.tag = 0 then y.tag else x.tag }, false)

/-- Whether every earlier vote has ended (R141): rolled-back gatherings have none. -/
def prevEnded (b : Block) (t n : Nat) : Bool :=
  (getTen b t).gatherings.all fun g => decide (n ≤ g.n) || g.rolledBack || decide (g.round ≠ .pending)

/-- This GLT's VOTE. -/
def voteBody (g : Gathering) : VoteBody :=
  { gathering := g.n, pass := decide (g.localVote = .pass), host := g.hostFail, count := 1, tag := g.tag }

def voteOwn (b : Block) (t n : Nat) : Option (Bool × VoteBody) :=
  let g := getG b t n
  if !isParticipant b (getTen b t) then
    (if (getTen b t).gatherings.any fun g => decide (g.n < n) then none else some (false, { gathering := n, count := 0 }))
  else if g.localVote = .notPosted then none
  else some (false, voteBody g)

def putVote (h : Nat) (hdr : CellHdr) (x : VoteBody) (b : Block) : Block := sendHop b h hdr (.vote x)

/-- A vote ends as failed on this GLT: recovery hears of it (R142, R296). -/
def endFailed (b : Block) (t n : Nat) (host : Bool) : Block :=
  if (getG b t n).round ≠ .pending || (getG b t n).rolledBack then b
  else recFailedVote (modG b t n fun g => { g with round := .failed, phase := .failed }) t host

/-! ## Pages of an extent (R203) -/

/-- Whether a page of an extent passes its check (R203). -/
def pageOk (e : Extent) (i : Nat) : Bool :=
  !e.lost && !e.badPages.contains i && sha256 (readBytes e.bytes (i * 65536) 65536) == nthD 0 e.pageDigests i

/-- Pages of a range of an extent that fail their check. -/
def badIn (e : Extent) (off len : Nat) : List Nat :=
  if e.kind = .data || e.kind = .parity then
    (upFrom (off / 65536) ((len + 65535) / 65536)).filter fun i => !pageOk e i
  else if e.lost then [0] else []

/-- Counts pages that failed R203. -/
def countBad (b : Block) (k : Nat) : Block := { b with bd := { b.bd with digestBad := b.bd.digestBad + k } }

/-! ## Cold copies (R225) -/

/-- Drives that take part in a cold copy. -/
def coldDrives (b : Block) : List Nat := (upFrom 0 4).filter fun d => (getDrive b d).en && (getDrive b d).ready

/-- The extents that a cold copy of a gathering holds: data, parity and the colophon copy. -/
def coldExtents (b : Block) (t n : Nat) : List Extent :=
  b.bd.extents.filter fun e =>
    e.tenant == t && e.gathering == n &&
      match e.kind with
      | .data | .parity | .colophon => true
      | .loadArea => false

/-- An extent's entry in a cold copy's table, 32 bytes: kind, member, first tray of the group, row, handle, offset, length
(DESIGN CHOICE, log entry 161: R225 gives no layout). -/
def coldEntry (e : Extent) : List Byte :=
  let kind := match e.kind with
    | .data => 0 | .parity => 1 | .colophon => 2 | .loadArea => 3
  leBytes 1 kind ++ leBytes 1 e.member ++ leBytes 1 e.group ++ zeroBytes 1 ++ leBytes 4 e.row ++ leBytes 8 e.handle.toNat ++
    leBytes 6 e.offset ++ zeroBytes 2 ++ leBytes 8 e.length

/-- The extent table of a cold copy. -/
def coldTable (b : Block) (t n : Nat) : List Byte := (coldExtents b t n).flatMap coldEntry

/-- The header of a cold copy, 4,096 bytes: tenant, gathering, COLOPHON_TAG, device serial, place, and the extent table as far
as it fits; the rest of the table follows the data (log entry 161). -/
def coldHeader (b : Block) (t n : Nat) : List Byte :=
  readBytes (leBytes 2 t ++ zeroBytes 2 ++ leBytes 4 n ++ leBytes 8 (getG b t n).tag.toNat ++ leBytes 8 b.ident.serial.toNat ++
    leBytes 5 (ownPlace b).toNat ++ zeroBytes 3 ++ leBytes 4 (coldExtents b t n).length ++ zeroBytes 28 ++ coldTable b t n) 0 4096

/-- The data of a cold copy: each extent with its page-digest list, and what the header does not hold of the table. -/
def coldImage (b : Block) (t n : Nat) : List Byte :=
  (coldExtents b t n).flatMap (fun e => readBytes e.bytes 0 e.length ++ e.pageDigests.flatMap digestBytes) ++
    (coldTable b t n).drop 4032

/-- Bytes of one MiB chunk of a copy. -/
def chunkBytes (total i : Nat) : Nat := min 1048576 (total - i * 1048576)

/-- First LBA of a half of a drive's range. -/
def halfLba (d : Nvme) (half : Bool) : Nat := d.lba.toNat + (if half then d.cnt.toNat / 2 else 0)

/-- An NVMe command: Flush 0, Write 1, Read 2, with its counters (Table 14.1). -/
def nvmeCmd (b : Block) (d op lba bytes : Nat) (data : List Byte) : Block :=
  let b1 := emit b (.nvme d op lba bytes data)
  let k := if op = 1 then 0 else if op = 2 then 1 else 2
  count (count b1 (driveCounter d k) 1) (driveCounter d 3) bytes

/-- Whether a cold copy may start: COLD_EN, no other copy or read of one, drives, and a STORAGE domain in service. -/
def coldFree (b : Block) : Bool :=
  b.bd.coldEn && b.bd.cold.isNone && b.bd.jobs.all (fun j => j.action != 2) && !(coldDrives b).isEmpty && !(getDom b 19).inReset && !(getDom b 19).withdrawn

/-- The gathering of a tenant's newest complete copy among those that the drives hold. -/
def newestCold (l : List ColdStored) (t : Nat) : Nat :=
  ((l.reverse.find? fun x => x.tenant == t).map fun x => x.gathering).getD 0

/-- A half is about to be overwritten: the copy that it held is complete no more (R225). -/
def dropHalf (b : Block) (half : Bool) : Block :=
  let kept := b.bd.coldStore.filter fun x => x.half != half
  let gone := (b.bd.coldStore.filter fun x => x.half == half).map fun x => x.tenant
  each gone (fun t b => modTen b t fun r => { r with coldGathering := newestCold kept t })
    { b with bd := { b.bd with coldStore := kept } }

/-- The data of a cold copy goes out in 1 MiB chunks striped across the drives, to the half that does not hold the newest
complete copy. -/
def coldWrite (b : Block) (t n : Nat) (ds : List Nat) : Block :=
  let half := ds.any fun d => match (getDrive b d).newest with
    | some (_, _, h) => !h
    | none => false
  let image := coldImage b t n
  let total := image.length
  let chunks := (total + 1048575) / 1048576
  let b1 := each (upFrom 0 chunks) (fun i b =>
    let d := nthD 0 ds (i % ds.length)
    nvmeCmd b d 1 (halfLba (getDrive b d) half + 1 + i / ds.length * 256) (chunkBytes total i)
      ((image.drop (i * 1048576)).take 1048576)) b
  let b2 := if chunks = 0 then each ds (fun d b => nvmeCmd b d 0 0 0 []) b1 else b1
  let c : ColdCopy := { tenant := t, gathering := n, step := if chunks = 0 then .flush1 else .data,
                        left := if chunks = 0 then ds.length else chunks, half := half, drives := ds }
  let b3 := dropHalf b2 half
  count { b3 with bd := { b3.bd with cold := some c } } (bindCounter 8) total

/-- The pages of a cold copy's extents that fail R203. -/
def coldBad (b : Block) (t n : Nat) : List (Nat × Nat) :=
  (coldExtents b t n).flatMap fun e => (badIn e 0 e.length).map fun i => (e.offset, i)

/-- Starts a cold copy: every page is checked, and a bad one is rebuilt before the copy is written (R203, R213). -/
def coldStart (b : Block) (t n : Nat) : Block :=
  let ds := coldDrives b
  let b1 := modTen b t fun r => { r with coldBusy := some n }
  let bad := coldBad b t n
  if bad.isEmpty then coldWrite b1 t n ds
  else
    let c : ColdCopy := { tenant := t, gathering := n, step := .repair, drives := ds }
    let b2 := countBad b1 bad.length
    { b2 with bd := { b2.bd with cold := some c, repairDue := foldOver withEntry b2.bd.repairDue bad } }

/-- A cold copy that waited for its pages goes on once they are sound. -/
def coldResume (b : Block) : Block :=
  match b.bd.cold with
  | none => b
  | some c =>
    if decide (c.step = .repair) && (coldBad b c.tenant c.gathering).isEmpty then coldWrite b c.tenant c.gathering c.drives else b

/-- A cold copy stops: it is discarded and BD_ERR.COLD_FAIL is set (R224, R271). -/
def stopCold (b : Block) : Block :=
  match b.bd.cold with
  | none => b
  | some c =>
    let b1 := modTen { b with bd := { b.bd with cold := none } } c.tenant fun r => { r with coldBusy := none }
    raise b1 .bd 10 (aboutTen b1 c.tenant)

/-- The group pushes of a tenant's restore are over (R222). -/
def forgetPushes (b : Block) (t : Nat) : Block :=
  { b with bd := { b.bd with groupPushes := b.bd.groupPushes.filter fun x => field x.1 54 10 != t,
                             pushed := b.bd.pushed.filter fun h => field h 54 10 != t } }

/-! ## SEWN (R143, R216) -/

/-- The sewn bindings that a tenant retains, oldest first. -/
def retained (r : TenantRec) : List Gathering :=
  r.gatherings.filter fun g => decide (g.round = .sewn) && !g.displaced && !g.released && !g.fromCold

/-- Displaces the oldest sewn bindings beyond RETAIN (R216). -/
def displace (r : TenantRec) : TenantRec :=
  let old := ((retained r).take ((retained r).length - r.retain)).map fun g => g.n
  { r with gatherings := r.gatherings.map fun g => if old.contains g.n then { g with displaced := true } else g }

/-- Whether R17 excludes a sew from the hold in force or scheduled: its T_c is not before the hold time. -/
def excluded (h : Hold) (tc : Ns) : Bool := heldOrHolding h && decide (h.time ≤ tc)

/-- The restore point (R17): the last sewn gathering whose T_c lies before the hold time; without a hold, the last
sewn one.  0 for none. -/
def restorePoint (r : TenantRec) : Nat :=
  listMax ((r.gatherings.filter fun g =>
    decide (g.round = .sewn) && !g.released && !g.fromCold && !excluded r.hold g.completion).map fun g => g.n)

/-- A participant takes gathering `n` as sewn (R143, R216): retention, the withheld barrier, cold copy, recovery; what
was loaded from a cold copy is freed (R226). -/
def onSewn (b : Block) (t n : Nat) (tc : Ns) (tag : W64) : Block :=
  let g := getG b t n
  if !isParticipant b (getTen b t) || g.rolledBack || g.round = .sewn then b
  else
    let b0 := { b with bd := { b.bd with extents := b.bd.extents.filter fun e => !(e.tenant == t && e.cold) } }
    let b1 := modG b0 t n fun g => { g with round := .sewn, phase := .sewn, completion := tc, tag := tag }
    let b2 := modTen b1 t fun r =>
      let r1 := { r with lastSewn := Nat.max r.lastSewn n, lastTc := tc, sewnCount := r.sewnCount + 1,
                         raiseEndDue := r.raised,
                         gatherings := r.gatherings.map fun g => if g.fromCold then { g with released := true, colophon := none } else g,
                         rec' := if r.rec'.phase = .replaying || r.rec'.phase = .isolating then
                           { r.rec' with phase := .none } else r.rec' }
      if excluded r.hold tc then r1 else displace r1
    let b3 := isoSewn b2 t n
    let r := getTen b3 t
    let b4 := if decide (r.coldEvery ≠ 0) && decide (r.sewnCount % r.coldEvery = 0) && coldFree b3 then coldStart b3 t n
              else b3
    pumpBar t 0 b4

/-- The second lap of a vote reaches this GLT (R142, R143): a unanimous pass makes the lead controller send SEWN. -/
def voteResult (b : Block) (t n : Nat) (x : VoteBody) : Block :=
  if !isParticipant b (getTen b t) then dropG b t n
  else if (getG b t n).round ≠ .pending then b
  else if !x.pass then endFailed b t n x.host
  else if isLead b (getTen b t) then
    let tc := nowNs b
    let body : VoteBody := { x with completion := tc }
    onSewn (broadcastCell b (tenTop b t) (tenHdr t) false (.sewn body)) t n tc x.tag
  else b

/-- The first lap of a vote has closed at the head of the top ring: a pass needs every participant's. -/
def voteTop (b : Block) (t k : Nat) (cut abort : Bool) (x : VoteBody) : VoteBody :=
  let parts := participants (getTen b t)
  if cut || abort || decide (x.count < parts.length) || censusLacks b k parts then { x with pass := false } else x

def voteAct (t n : Nat) (a : LapAct VoteBody) (b : Block) : Block :=
  match a with
  | .deliver _ x => voteResult b t n x
  | .result k cut abort x =>
    let b1 := count b (spineCounter 2) 1
    each (spreadFrom b k false (voteTop b t k cut abort x)) (fun a b =>
      match a with
      | .deliver _ x => voteResult b t n x
      | .send k l ab x => lapSend putVote (tenHdr t) (.send k l ab x) b
      | .hand k l ab x => lapSend putVote (tenHdr t) (.hand k l ab x) b
      | .result _ _ _ _ => b) b1
  | .send k l ab x => lapSend putVote (tenHdr t) (.send k l ab x) b
  | .hand k l ab x => lapSend putVote (tenHdr t) (.hand k l ab x) b

/-- Moves a vote's laps on as far as they can go here. -/
def pumpVote (t n : Nat) (b : Block) : Block :=
  let r := getTen b t
  let empty : VoteBody := { gathering := n, count := 0 }
  let (l, acts) := lapPump b (participants r) (voteOwn b t n) empty voteComb (tenTop b t) [0, 1, 2, 3] (getG b t n).lap
  each acts (voteAct t n) (modG b t n fun g => { g with lap := l })

/-- Posts this GLT's fail vote: it goes out at once as a control broadcast with ABORT, and joins the lap (R142). -/
def postFail (b : Block) (t n : Nat) (host veto : Bool) : Block :=
  let v : LocalVote := if veto then .vetoed else .fail
  let b1 := modG b t n fun g => { g with localVote := v, hostFail := g.hostFail || host, failDue := false }
  let body := voteBody (getG b1 t n)
  let b2 := broadcastCell b1 (tenTop b t) (tenHdr t) true (.vote body)
  endFailed (pumpVote t n b2) t n (host || (getG b t n).hostFail)

/-- A cause to fail gathering `n` on this GLT: the fail vote is posted, or waits until the previous vote has ended
(R141).  A vote already posted or ended stays. -/
def failVote (b : Block) (t n : Nat) (host : Bool) : Block :=
  let g := getG b t n
  if !isParticipant b (getTen b t) || g.rolledBack || g.round ≠ .pending || g.localVote ≠ .notPosted then b
  else if prevEnded b t n then postFail b t n host false
  else modG b t n fun g => { g with failDue := true, hostFail := g.hostFail || host }

end Sys2Proof.Machine
end

