-- ==== Sys2Proof/Machine/StartOps.lean ====
section
/-!
DEFINITION. Machine/StartOps.lean: the start of a gathering (R178, R183, R202, R206) and the release of a barrier round
(R138), which brings it about.
-/

namespace Sys2Proof.Machine

def pageBytes : Nat := 65536
def gib : Nat := 1073741824

/-! ## Binding memory in use (R204, Table 8.9) -/

/-- Bytes that an extent takes, on 64 KiB boundaries, with its page-digest list. -/
def extentBytes (e : Extent) : Nat := (e.length + 65535) / 65536 * 65536 + (32 * e.pageDigests.length + 65535) / 65536 * 65536

/-- Bytes in bindings, colophons and load areas. -/
def bdUsed (b : Block) : Nat := listSum (b.bd.extents.map extentBytes)

/-- Bytes of binding memory outside staging and the tile queue (Table 8.8). -/
def bdCapacity (b : Block) : Nat := (b.ident.fittedGib - b.gt.stageGib - b.ver.queueGib) * gib
def bdFree (b : Block) : Nat := bdCapacity b - bdUsed b

/-! ## Regions, pages and signatures -/

/-- Whether a gathering tracks a region (R183). -/
def tracks (deep : Bool) (d : RegionDesc) : Bool := deep || !d.deepOnly

def regionPages (d : RegionDesc) : Nat := d.length / 65536

/-- The rank whose map entry indexes a region's signatures (R202). -/
def mapRank (rank : Nat) (d : RegionDesc) : Nat := if d.groupSize = 1 then rank else d.repFirst

/-- FIRST_INDEX of a region in a map (R202). -/
def firstIndex (map : List MapEntry) (rank : Nat) (d : RegionDesc) : Option Nat :=
  (map.find? fun e => e.rank == mapRank rank d && e.region == d.region.val).map fun e => e.firstIndex

/-- The member index of a rank in a replica group (R181). -/
def memberIdx (rank : Nat) (d : RegionDesc) : Nat := if d.groupSize = 1 then 0 else (rank - d.repFirst) / Nat.max 1 d.repStride

/-- The rank that owns signature `j` of a region (R193). -/
def ownerRank (rank : Nat) (d : RegionDesc) (j : Nat) : Nat :=
  if d.groupSize = 1 then rank else d.repFirst + j % d.groupSize * d.repStride

def sigCount (shift : Nat) (d : RegionDesc) : Nat := (d.length + 2 ^ shift - 1) / 2 ^ shift

/-- Bytes of signature `j` of a region (R201). -/
def sigBytes (shift : Nat) (d : RegionDesc) (j : Nat) : Nat := min (2 ^ shift) (d.length - j * 2 ^ shift)

/-- The work that a slot's signatures are: one record each. -/
def sigWorks (shift rank : Nat) (d : RegionDesc) : List SigWork :=
  (upFrom 0 (sigCount shift d)).map fun j =>
    { rank := rank, region := d.region.val, index := j, pages := sigBytes shift d j / 65536,
      owned := ownerRank rank d j == rank, groupSize := d.groupSize }

/-! ## Pace and credits (R188, R192) -/

/-- Slots with tracked pages not yet copied at the sentinel. -/
def pacedSlots (b : Block) : List Nat := (upFrom 0 16).filter fun n => decide ((getSlot b n).left ≠ 0)

/-- Shares GT_PACE equally; a slot whose share exceeds its cap keeps the cap, and the rest passes on (R188).  In MB/s. -/
def paceShares (caps : Nat → Nat) : Nat → Nat → List Nat → List (Nat × Nat)
  | 0, _, _ => []
  | _, _, [] => []
  | f + 1, total, l =>
    let share := total / l.length
    let full := l.filter fun n => decide (caps n ≠ 0) && decide (caps n < share)
    if full.isEmpty then l.map fun n => (n, share)
    else
      full.map (fun n => (n, caps n)) ++
        paceShares caps f (total - listSum (full.map caps)) (l.filter fun n => !full.contains n)

/-- The pace shares of the copying slots, in MB/s. -/
def sharesNow (b : Block) : List (Nat × Nat) :=
  paceShares (fun n => (getSlot b n).paceCap * 1000) 17 (b.gt.pace * 1000) (pacedSlots b)

/-- The share of one slot. -/
def shareOf (b : Block) (n : Nat) : Nat := (((sharesNow b).find? fun x => x.1 == n).map Prod.snd).getD 0

/-- Grants a slot push credits; the message carries its pace share and PREGATHER_EN too (Table 9.5). -/
def sendCredit (b : Block) (n urgent pre : Nat) : Block :=
  let b1 := modSlot b n fun s => { s with credU := s.credU + urgent, credP := s.credP + pre }
  tellSn b1 n (.credit { urgent := urgent, pre := pre, paceMBs := shareOf b n, pregatherEn := b.gt.pregatherEn })

/-- Sends each copying slot its pace share and PREGATHER_EN. -/
def sendPace (b : Block) : Block := each (pacedSlots b) (fun n b => sendCredit b n 0 0) b

/-- The sentinel's credits are gone: none is counted there, and none is owed (R192). -/
def dropCredits (b : Block) (n : Nat) : Block :=
  modSlot { b with gt := { b.gt with urgentWait := b.gt.urgentWait.filter fun x => x != n,
                                     preWait := b.gt.preWait.filter fun x => x != n } } n fun s => { s with credU := 0, credP := 0 }

/-- Keeps a slot supplied with credits up to its push buffer, 32 urgent and 24 pre-gathering pages, as the level in force
allows; what it does not allow is owed (R192).  The numbers are a DESIGN CHOICE. -/
def supplySlot (n : Nat) (b : Block) : Block :=
  let s := getSlot b n
  let u := 32 - s.credU - b.gt.urgentWait.count n
  let p := 24 - s.credP - b.gt.preWait.count n
  match b.gt.level with
  | .normal => sendCredit b n u p
  | .throttled => sendCredit { b with gt := { b.gt with preWait := b.gt.preWait ++ List.replicate p n } } n u 0
  | .backpressure =>
    { b with gt := { b.gt with preWait := b.gt.preWait ++ List.replicate p n,
                               urgentWait := b.gt.urgentWait ++ List.replicate u n } }

/-! ## The start of a gathering -/

/-- Sampling and mode that wait for this start take effect (R90, R91, R104, R106). -/
def applySampling (b : Block) (t n : Nat) : Block :=
  modTen b t fun r =>
    let r1 := match r.pendRates with
      | some (f, x) => if f ≤ n then { r with rates := x, pendRates := none } else r
      | none => r
    let r2 := match r1.pendMode with
      | some (f, m) => if f ≤ n then { r1 with strict := m, pendMode := none } else r1
      | none => r1
    let ends := r2.raised && r2.raiseEndDue
    { r2 with effStrict := r2.strict || b.ver.force, raised := r2.raised && !ends, raiseEndDue := false,
              raiseNow := r2.raise }

/-- The binding policies and maps that wait for this start take effect, in the order of their FROM_GATHERING (R228). -/
def applyBinding (b : Block) (t n : Nat) : Block :=
  modTen b t fun r =>
    let policy (r : TenantRec) (x : Nat × Nat × Nat × Nat × Nat × Bool) : TenantRec :=
      if x.1 ≤ n then
        { r with sigShift := x.2.1, k := x.2.2.1, m := x.2.2.2.1, coldEvery := x.2.2.2.2.1, protectRepl := x.2.2.2.2.2 }
      else r
    let map (r : TenantRec) (x : Nat × List MapEntry) : TenantRec := if x.1 ≤ n then { r with map := x.2 } else r
    let r1 := foldOver map (foldOver policy r r.pendPolicy) r.pendMap
    { r1 with pendPolicy := r.pendPolicy.filter fun x => !decide (x.1 ≤ n),
              pendMap := r.pendMap.filter fun x => !decide (x.1 ≤ n) }

/-- Region lists that wait for this start take effect (R199). -/
def applyLists (b : Block) (t n : Nat) : Block :=
  let due := (getTen b t).pendLists.filter fun p => decide (p.from' ≤ n)
  let b1 := each due (fun p b => modSlot b p.slot fun s => { s with regions := p.list }) b
  modTen b1 t fun r => { r with pendLists := r.pendLists.filter fun p => !decide (p.from' ≤ n) }

/-- Arms a slot for the gathering on the GLT's side (R178, Table 7.6). -/
def armSlot (n gathering t : Nat) (deep : Bool) (b : Block) : Block :=
  let s := getSlot b n
  let pages := listSum ((s.regions.filter (tracks deep)).map regionPages)
  setSlot b n { s with gphase := if pages = 0 then .idle else .copying, deep := deep, gathering := gathering, tenant := t,
                       staged := [], digestedPages := [], left := pages, crcFails := [] }

/-- Data bytes of a gathering on this GLT. -/
def dataBytes (b : Block) (t n : Nat) : Nat :=
  listSum ((b.bd.extents.filter fun e => e.tenant == t && e.gathering == n && decide (e.kind = .data)).map (·.length))

/-- R206: free memory that does not cover the previous binding's data and its parity sets LOW_SPACE. -/
def checkSpace (b : Block) (t n : Nat) : Block :=
  let r := getTen b t
  let prev := listMax ((r.gatherings.filter fun g => decide (g.n < n) && !g.rolledBack && !g.released).map fun g => g.n)
  let d := dataBytes b t prev
  if bdFree b < d + d * r.m / Nat.max 1 r.k then raise b .bd 2 (aboutTen b t) else b

/-- Slots of the tenant on this tray with their ranks. -/
def slotRanks (b : Block) (t : Nat) : List (Nat × Nat) :=
  (localRanks b (getTen b t)).map fun k => (placeSlot (nthD 0 (getTen b t).places k), k)

/-- A tracked region without a map entry (R202). -/
def lacksMap (b : Block) (t : Nat) (deep : Bool) : Bool :=
  (slotRanks b t).any fun x =>
    ((getSlot b x.1).regions.filter (tracks deep)).any fun d => (firstIndex (getTen b t).map x.2 d).isNone

/-- Gathering `n` starts at a release (R14, R178): what waits for the start takes effect, the slots are armed, seeds are
renewed, space and map are checked. -/
def gatherStart (b : Block) (t n : Nat) : Block :=
  let b1 := applyLists (applyBinding (applySampling b t n) t n) t n
  let r := getTen b1 t
  let deep := decide (r.deepMark = n) && decide (n ≠ 0)
  let works := (slotRanks b1 t).flatMap fun x =>
    ((getSlot b1 x.1).regions.filter (tracks deep)).flatMap (sigWorks r.sigShift x.2)
  let noMap := lacksMap b1 t deep
  let was := getTen b t
  let b2 := modG b1 t n fun g =>
    { g with strict := was.effStrict, raised := was.raised, deep := deep, startTime := nowNs b, step := n * r.s, phase := .binding, noMap := noMap, sigs := works,
             map := r.map, sigShift := r.sigShift, k := r.k, m := r.m, protectRepl := r.protectRepl }
  let b3 := modTen b2 t fun r => { r with started := n, deepMark := if r.deepMark ≤ n then 0 else r.deepMark }
  let b4 := each (tenantSlots b3 r) (armSlot · n t deep) b3
  let b5 := each (tenantSlots b4 r) (fun s b => sendPolicy b t s) b4
  let b6 := checkSpace b5 t n
  let b7 := if noMap then failVote (raise b6 .bd 3 (aboutTen b6 t)) t n true else b6
  -- R271: a withdrawn BIND domain fails the vote of every gathering
  each (tenantSlots b7 r) supplySlot (sendPace (onlyIf (getDom b7 48).withdrawn (fun b => failVote b t n false) b7))

/-! ## The release of a barrier round (R138) -/

/-- The block that an ARRIVE writes (R151). -/
def arriveBlock (t round step : Nat) (tr : Ns) : List Byte :=
  leBytes 4 (round % 65536 + t * 65536) ++ leBytes 4 step ++ leBytes 8 (r111 tr).toNat

/-- Releases a round at T_r: the step advances and a gathering may start (group 0), the sentinels of the member ranks
are told, and every ARRIVE completes. -/
def barFire (b : Block) (t g : Nat) (tr : Ns) : Block :=
  let bar := getBar b t g
  let r := getTen b t
  let slots := (barLocal b t g).map fun k => placeSlot (nthD 0 r.places k)
  let step := if g = 0 then r.step + 1 else r.step
  let starts := g = 0 && decide (r.s ≠ 0) && decide (step % r.s = 0)
  let n := if r.s = 0 then 0 else step / r.s
  let b1 := if g = 0 then forgetPushes (modTen b t fun r => { r with step := step, released0 := true }) t else b
  let b2 := if starts then gatherStart b1 t n else b1
  let b3 := each slots (fun s b =>
    let sl := getSlot b s
    tellSn b s (.release { group := Fin.ofNat 4 g, step := BitVec.ofNat 32 step, arm := starts,
                           gathering := if starts then n else 0,
                           regions := if starts then sl.regions.filter (tracks sl.deep) else [] })) b2
  let b4 := each bar.arriveIss (fun x b =>
    complete (hostWrite b x.2.1 x.2.2 (arriveBlock t bar.round (if g = 0 then step else 0) tr)) x.2.1 0x0401 stOk) b3
  nextBarRound b4 t g

/-- A release that falls at or after the tenant's hold time is not carried out (R139). -/
def heldBack (h : Hold) (tr : Ns) : Bool := heldOrHolding h && decide (h.time ≤ tr)

/-- Carries a due release out, or withholds it for the hold. -/
def releaseDue (b : Block) (t g : Nat) (tr : Ns) : Block :=
  if heldBack (getTen b t).hold tr then modBar b t g fun x => { x with withheld := true } else barFire b t g tr

/-- A release whose second lap came at or after T_r: released at once and counted (R138). -/
def lateRelease (b : Block) (t g : Nat) : Block :=
  let b1 := { b with spine := { b.spine with lateCount := b.spine.lateCount + 1 } }
  raise (count b1 (spineCounter 7) 1) .sp 5 { aboutTen b t with arg := g }

/-- After a barrier cell: a release time that has come is acted on at once. -/
def lateCheck (t g : Nat) (b : Block) : Block :=
  let bar := getBar b t g
  match bar.release with
  | none => b
  | some tr => if tr ≤ nowNs b && !bar.withheld then releaseDue (lateRelease b t g) t g tr else b

end Sys2Proof.Machine
end

