-- ==== Sys2Proof/Machine/Collect.lean ====
section
/-!
DEFINITION. Machine/Collect.lean: the collectives of chapter 5: scalar reductions (R128-R135), barrier groups (R136-R140) and
sew votes (R141-R144).
-/

namespace Sys2Proof.Machine

/-! ## Combining (R131, Table 5.7) -/

/-- A 64-bit word as a signed integer. -/
def isNan64 (w : W64) : Bool := decide ((w.toNat / 2 ^ 52) % 2048 = 2047) && decide (w.toNat % 2 ^ 52 ≠ 0)
def isNan32 (w : W64) : Bool := decide ((w.toNat / 2 ^ 23) % 256 = 255) && decide (w.toNat % 2 ^ 23 ≠ 0)

/-- A key that orders floats of `n` bits that are not NaN, with −0 below +0. -/
def floatKey (n : Nat) (w : W64) : Int :=
  let m := w.toNat % 2 ^ (n - 1)
  if w.getLsbD (n - 1) then -(m : Int) - 1 else (m : Int)

/-- MIN or MAX of two floats; any NaN gives a NaN with open payload. -/
def floatPick (fp32 least : Bool) (x y : W64) : W64 :=
  let n := if fp32 then 32 else 64
  if fp32 && (isNan32 x || isNan32 y) then 0x7FC00000 ||| (Config.minMaxNan x y &&& 0x803FFFFF)
  else if !fp32 && (isNan64 x || isNan64 y) then 0x7FF8000000000000 ||| (Config.minMaxNan x y &&& 0x8007FFFFFFFFFFFF)
  else if decide (floatKey n x ≤ floatKey n y) == least then x else y

/-- SUM of two INT64, and whether it overflowed. -/
def sumInt (x y : W64) : W64 × Bool :=
  let s := x + y
  (s, decide (s.toInt ≠ x.toInt + y.toInt))

/-- SUM of two floats, round to nearest even, with the default quiet NaN. -/
def sumFloat (fp32 : Bool) (x y : W64) : W64 :=
  if fp32 then
    BitVec.ofNat 64 (encodeFloat fmtB32 0x7FC00000
      (fpAdd fmtB32 0 false (decodeFmt fmtB32 (x.toNat % 2 ^ 32)) (decodeFmt fmtB32 (y.toNat % 2 ^ 32))))
  else
    BitVec.ofNat 64 (encodeFloat fmtB64 0x7FF8000000000000
      (fpAdd fmtB64 0 false (decodeFmt fmtB64 x.toNat) (decodeFmt fmtB64 y.toNat)))

/-- Combines two operands; the flag is INT64 overflow. -/
def combineOne (op ty : Nat) (x y : W64) : W64 × Bool :=
  match op with
  | 0 => if ty = 0 then sumInt x y else (sumFloat (ty == 1) x y, false)
  | 1 => (if ty = 0 then (if x.toInt ≤ y.toInt then x else y) else floatPick (ty == 1) true x y, false)
  | 2 => (if ty = 0 then (if x.toInt ≤ y.toInt then y else x) else floatPick (ty == 1) false x y, false)
  | 3 => (x &&& y, false)
  | 4 => (x ||| y, false)
  | 5 => (x ^^^ y, false)
  | _ => (x + y, false)

/-- What a rank's operand enters a COUNT as: 1 where its value is not zero; a float −0 is zero (DEDUCED). -/
def countOperand (ty : Nat) (x : W64) : W64 :=
  let z := if ty = 0 then x == 0 else if ty = 1 then x.toNat % 2 ^ 31 == 0 else x.toNat % 2 ^ 63 == 0
  if z then 0 else 1

/-- Two partials, left to right: they must agree in tenant, operation, type and count (R134); an empty one adds nothing. -/
def redComb : Comb RedBody := fun x y =>
  if y.count = 0 then (x, x.shape) else if x.count = 0 then (y, y.shape)
  else if x.tenant ≠ y.tenant ∨ x.op ≠ y.op ∨ x.ty ≠ y.ty ∨ x.count1 ≠ y.count1 then
    ({ x with shape := true, count := x.count + y.count }, true)
  else
    let vs := List.zipWith (combineOne x.op.toNat x.ty.toNat) x.values y.values
    ({ x with values := vs.map Prod.fst, overflow := x.overflow || y.overflow || vs.any Prod.snd,
              count := x.count + y.count, shape := x.shape || y.shape, short := x.short || y.short,
              timeout := x.timeout || y.timeout }, x.shape || y.shape)

/-! ## Rounds -/

def isExpress (c : Nat) : Bool := c ≥ 1024

/-- The tenant that a channel serves (R128). -/
def chanTenant (b : Block) (c : Nat) : Nat := if isExpress c then (tabGet {} b.spine.xchan (c - 1024)).tenant else c

def findRound (ch : RedChan) (n : Nat) : RedRound := (ch.rounds.find? fun r => r.round == n).getD { round := n }

def putRound : List RedRound → RedRound → List RedRound
  | [], x => [x]
  | y :: r, x => if x.round < y.round then x :: y :: r else if x.round = y.round then x :: r else y :: putRound r x

def modRound (b : Block) (c n : Nat) (f : RedRound → RedRound) : Block :=
  modChan b c fun ch => { ch with rounds := putRound ch.rounds (f (findRound ch n)) }

/-- Whether a round has ended here. -/
def roundEnded (ch : RedChan) (n : Nat) : Bool := decide (n < ch.lastRound) || ch.ended.contains n

/-- The round that a cell's 16-bit number names, from the next round to complete on; none for one that has ended here. -/
def roundOf (ch : RedChan) (r : Nat) : Option Nat :=
  let d := (r + 65536 - ch.lastRound % 65536) % 65536
  if d < 32768 && !roundEnded ch (ch.lastRound + d) then some (ch.lastRound + d) else none

/-- Takes the rounds that ended next to one another into the count of the rounds that have ended. -/
def settleEnded : Nat → RedChan → RedChan
  | 0, ch => ch
  | fuel + 1, ch =>
    if ch.ended.contains ch.lastRound then
      settleEnded fuel { ch with lastRound := ch.lastRound + 1, ended := ch.ended.filter fun n => n != ch.lastRound }
    else ch

/-- A round ends here.  Express rounds may end in any order, and four at most are in flight: the fourth before one that ends
has ended too (R129, R133). -/
def endRound (ch : RedChan) (n : Nat) : RedChan :=
  let rest := ch.rounds.filter fun y => y.round != n
  if roundEnded ch n then { ch with rounds := rest }
  else
    let low := Nat.max ch.lastRound (n - 3)
    settleEnded 4 { ch with rounds := rest, lastRound := low,
                            ended := (ch.ended ++ [n]).filter fun m => decide (low ≤ m) }

/-- The number of the round after every one known here. -/
def nextRoundNo (ch : RedChan) : Nat :=
  listMax (ch.lastRound :: ((ch.rounds.map fun r => r.round) ++ ch.ended).map fun n => n + 1)

/-- The ranks of a place list that this GLT serves, rising. -/
def ranksHere (b : Block) (places : List Place) : List Nat :=
  (upFrom 0 places.length).filter fun k => onTray b (nthD 0 places k)

/-- The trays of a place list. -/
def traysOf (places : List Place) : List Place := foldOver (fun l p => withEntry l (trayOf p)) [] places

/-- A round in flight keeps the place list with which it started (R129). -/
def roundPlaces (b : Block) (t : Nat) (r : RedRound) : List Place :=
  if r.places.isEmpty then (getTen b t).places else r.places

/-- The round's first cell has come or goes: the place list stays (R129). -/
def keepPlaces (c n : Nat) (b : Block) : Block :=
  modRound b c n fun r => { r with places := roundPlaces b (chanTenant b c) r }

def redHdr (c : Nat) : CellHdr := { chan := BitVec.ofNat 11 c }

/-- Sends a partial over a hop: one cell, or two back to back for three or four operands (R130). -/
def putRed (x : Bool) (h : Nat) (hdr : CellHdr) (r : RedBody) (b : Block) : Block :=
  let cell (y : RedBody) : CellBody := if x then .reduceX y else .reduce y
  if r.count1.toNat < 2 then sendHop b h { hdr with part := false } (cell r)
  else sendHop (sendHop b h { hdr with part := false } (cell { r with values := r.values.take 2 })) h
    { hdr with part := true } (cell { r with values := r.values.drop 2 })

/-- This GLT's part of a round: its ranks' operands combined in ascending rank order (R129). -/
def ownPartial (t n : Nat) (posts : List RedPost) : Bool × RedBody :=
  let one (p : RedPost) : RedBody :=
    { round := n % 65536, tenant := Fin.ofNat 1024 t, op := p.op, ty := p.ty, count1 := p.count1, count := 1,
      values := if p.op = 6 then p.operands.map (countOperand p.ty.toNat) else p.operands }
  let ranks := sortNat (posts.map fun p => p.rank)
  let parts := ranks.filterMap fun r => (posts.find? fun p => p.rank == r).map one
  match parts with
  | [] => (false, { round := n % 65536, tenant := Fin.ofNat 1024 t })
  | x :: r =>
    let (a, y) := foldOver (fun (acc : Bool × RedBody) z =>
      let c := redComb acc.2 z
      (acc.1 || c.2, c.1)) (false, x) r
    (a, { y with count := 1 })

/-- The contribution, once every rank served here has posted (R129); empty where none is served. -/
def redOwn (b : Block) (t : Nat) (r : RedRound) : Option (Bool × RedBody) :=
  let mine := ranksHere b (roundPlaces b t r)
  if mine.isEmpty then some (false, { round := r.round % 65536, tenant := Fin.ofNat 1024 t })
  else if mine.all fun k => r.posts.any fun p => p.rank == k then some (ownPartial t r.round r.posts)
  else none

/-- The result block of REDUCE_POST (R150). -/
def redBlock (b : Block) (x : RedBody) : List Byte :=
  let vals := (x.values ++ [0, 0, 0, 0]).take 4
  vals.flatMap (fun v => leBytes 8 v.toNat) ++ leBytes 2 x.round ++
    [BitVec.ofNat 8 (bit x.overflow + 2 * bit x.shape + 4 * bit x.short + 8 * bit x.timeout), 0] ++ leBytes 4 x.count ++
    leBytes 8 (r111 (nowNs b)).toNat ++ zeroBytes 16

/-- The status with which the posts of a round complete (R134, R135). -/
def redStatus (abort : Bool) (x : RedBody) : Byte :=
  if !abort then stOk else if x.shape then stShapeMismatch else if x.timeout then stTimeout else stWithdrawn

/-- A post of a round that has ended completes. -/
def finishPost (abort : Bool) (x : RedBody) (p : RedPost) (b : Block) : Block :=
  complete (hostWrite b p.iss p.resultAddr (redBlock b x)) p.iss 0x0402 (redStatus abort x)

/-- Ranks served here that have still to post to a round. -/
def ranksDue (b : Block) (c n : Nat) : List Nat :=
  let ch := getChan b c
  (ranksHere b (roundPlaces b (chanTenant b c) (findRound ch n))).filter fun k => decide (tabGet 0 ch.nextPost k ≤ n)

/-- A round ends here; a rank that posts to it only later learns how it ended (R134). -/
def closeRound (c n : Nat) (abort : Bool) (x : RedBody) (b : Block) : Block :=
  let late := !(ranksDue b c n).isEmpty
  modChan b c fun ch =>
    let ch1 := endRound ch n
    if late then { ch1 with outcomes := tabPut ch1.outcomes n (abort, x) } else ch1

/-- The second lap of a round reaches this GLT: its posts complete and the round ends (R134, R135, R150). -/
def redResult (b : Block) (c n : Nat) (abort : Bool) (x : RedBody) : Block :=
  let r := findRound (getChan b c) n
  let b1 := each r.posts (finishPost abort x) b
  let b2 := count (closeRound c n abort x b1) (spineCounter 0) 1
  let about := aboutTen b2 (chanTenant b c)
  if !abort then b2 else if x.shape then raise b2 .sp 7 about else raise b2 .sp 6 about

/-- The first lap has closed where the result is made: a short count aborts the round (R135 case 2). -/
def redTop (b : Block) (parts : List Place) (k : Nat) (cut abort : Bool) (x : RedBody) : Bool × RedBody :=
  if abort then (true, x)
  else if cut || decide (x.count < parts.length) || censusLacks b k parts then (true, { x with short := true })
  else (false, x)

/-- The trays of a round's place list: its participants. -/
def redPlaces (b : Block) (t : Nat) (r : RedRound) : List Place := traysOf (roundPlaces b t r)

/-- Carries out a round's lap actions. -/
def redAct (c n : Nat) (parts : List Place) (a : LapAct RedBody) (b : Block) : Block :=
  let put (a : LapAct RedBody) (b : Block) : Block := match a with
    | .deliver abort x => redResult b c n abort x
    | .send k l ab x => lapSend (putRed (isExpress c)) (redHdr c) (.send k l ab x) b
    | .hand k l ab x => lapSend (putRed (isExpress c)) (redHdr c) (.hand k l ab x) b
    | .result _ _ _ _ => b
  match a with
  | .result k cut abort x =>
    let (ab, y) := redTop b parts k cut abort x
    each (spreadFrom b k ab y) put b
  | .deliver abort x => put (.deliver abort x) b
  | .send k l ab x => put (.send k l ab x) b
  | .hand k l ab x => put (.hand k l ab x) b

/-- Whether this GLT has nothing to add to ring `k` of a round. -/
def nothingToAdd (b : Block) (places : List Place) (k : Nat) : Bool :=
  if k = 0 then !places.contains (ownPlace b) else !subtreeHas b places k

/-- R116: a head with nothing to add starts the first lap of a ring once the channel's previous round has closed there; any
other head starts it with its own contribution. -/
def mayStart (b : Block) (ch : RedChan) (places : List Place) (n k : Nat) : Bool :=
  !isHead b k || !nothingToAdd b places k || (ch.rounds.all fun r => decide (n ≤ r.round) || r.lap.closed.contains k)

/-- Moves a fixed-order round on as far as it can go here; a lap that waits for this GLT starts its timeout. -/
def pumpRed (c n : Nat) (b : Block) : Block :=
  let t := chanTenant b c
  let ch := getChan b c
  let r := findRound ch n
  let places := redPlaces b t r
  let top := if places.isEmpty then 3 else topRing places
  let empty : RedBody := { round := n % 65536, tenant := Fin.ofNat 1024 t }
  let (l, acts) := lapPump b places (redOwn b t r) empty redComb top ([0, 1, 2, 3].filter (mayStart b ch places n)) r.lap
  let since := if l.waiting.isEmpty then none else r.waitSince.orElse fun _ => some (nowNs b)
  let b1 := modRound b c n fun x => { x with lap := l, waitSince := since }
  each acts (redAct c n places) (onlyIf (!acts.isEmpty) (keepPlaces c n) b1)

/-- Moves every round of a channel on, the oldest first. -/
def pumpChan (c : Nat) (b : Block) : Block := each ((getChan b c).rounds.map fun r => r.round) (fun n b => pumpRed c n b) b

/-- The rings whose laps this GLT starts by itself: it heads them and has nothing to add. -/
def emptyHeads (b : Block) (t : Nat) : List Nat :=
  [0, 1, 2, 3].filter fun k => isHead b k && decide (k ≤ tenTop b t) && nothingToAdd b (participants (getTen b t)) k

/-- Whether one of those rings has closed every round here, and another round may be held (R116, R129). -/
def mayKick (b : Block) (t : Nat) : Bool :=
  let r := getTen b t
  let rounds := (getChan b t).rounds
  r.exists' && !r.places.isEmpty && decide (rounds.length < 4) &&
    (emptyHeads b t).any fun k => rounds.all fun x => x.lap.closed.contains k

/-- A head with nothing to add starts its laps by itself, one round after another, while four are not in flight (R116). -/
def kickRounds (t : Nat) : Nat → Block → Block
  | 0, b => b
  | fuel + 1, b =>
    if mayKick b t then
      let n := nextRoundNo (getChan b t)
      kickRounds t fuel (pumpRed t n (modRound b t n fun x => x))
    else b

def kickRed (t : Nat) (b : Block) : Block := kickRounds t 4 b

/-! ### Express channels (R133) -/

/-- The head of the top ring sends the second lap of an express round. -/
def expressOut (c n k : Nat) (abort : Bool) (y : RedBody) (b : Block) : Block :=
  each (spreadFrom b k abort y) (redAct c n [])
    (modRound b c n fun z => { z with partial' := none, waitSince := none })

/-- A partial at the head of the top ring: it is merged in order of arrival.  The second lap goes out when every participant
has contributed, at once on an ABORT or a shape mismatch, and SHORT where the way up is cut or the last census lacks a
participant (R133-R135). -/
def expressTop (b : Block) (c n k : Nat) (cut abort : Bool) (x : RedBody) : Block :=
  let r := findRound (getChan b c) n
  let (y, clash) := match r.partial' with
    | none => (x, x.shape)
    | some p => redComb p x
  let parts := redPlaces b (chanTenant b c) r
  if abort || clash then expressOut c n k true y b
  else if cut || censusLacks b k parts then expressOut c n k true { y with short := true } b
  else if parts.length ≤ y.count then expressOut c n k false y b
  else modRound b c n fun z =>
    { z with partial' := some y, waitSince := z.waitSince.orElse fun _ => some (nowNs b) }

/-- An express partial that stands at ring `k` here: it goes on toward the head of each ring in turn, with its ABORT. -/
def expressOn (b : Block) (c n k : Nat) (abort : Bool) (x : RedBody) : Block :=
  let places := redPlaces b (chanTenant b c) (findRound (getChan b c) n)
  let top := if places.isEmpty then 3 else topRing places
  let hdr (j : Nat) : CellHdr := { redHdr c with level := Fin.ofNat 4 j, abort := abort }
  let east (j : Nat) : Block := putRed true (eastHop j) (hdr j) x b
  if !isHead b k then east k
  else if k ≥ top then expressTop b c n k false abort x
  else if !canClimb b k then expressTop b c n k true abort x
  else if k = 0 then
    (if !isHead b 1 then east 1
     else if top ≤ 1 then expressTop b c n 1 false abort x
     else if !canClimb b 1 then expressTop b c n 1 true abort x
     else putRed true 1 (hdr 2) x b)
  else putRed true 1 (hdr (k + 1)) x b

/-- Sends this GLT's contribution as soon as it is complete. -/
def expressOwn (c n : Nat) (b : Block) : Block :=
  let t := chanTenant b c
  let r := findRound (getChan b c) n
  if r.contributed || (ranksHere b (roundPlaces b t r)).isEmpty then b
  else
    match redOwn b t r with
    | none => b
    | some (clash, x) =>
      let b1 := keepPlaces c n (modRound b c n fun z => { z with contributed := true })
      expressOn b1 c n 0 clash { x with shape := x.shape || clash }

/-- A census lacks a participant of an express round that waits at this head: it ends SHORT (R135 case 2). -/
def recheckRound (c n : Nat) (b : Block) : Block :=
  let r := findRound (getChan b c) n
  let places := redPlaces b (chanTenant b c) r
  match r.partial' with
  | none => b
  | some p => onlyIf (censusLacks b (topRing places) places) (expressOut c n (topRing places) true { p with short := true }) b

def recheckExpress (b : Block) : Block :=
  each (upFrom 1024 8) (fun c b => each ((getChan b c).rounds.map fun r => r.round) (recheckRound c) b) b

/-! ### REDUCE_POST (R129, R150) -/

/-- Whether the fields of a post are within their ranges (Table 5.20). -/
def postOk (p : ReducePostP) : Bool :=
  !p.rsv && (decide (p.chan.toNat < 8) || p.chan == 0xFF) && decide (p.op.toNat ≤ 6) && decide (p.ty.toNat ≤ 2) &&
    decide (p.operands.length ≤ 4) && (p.operands.drop (p.count1.toNat + 1)).all (· == 0) &&
    decide (p.resultAddr ≠ 0) && decide (p.resultAddr % 64 = 0) &&
    (decide (p.ty ≠ 1) || p.operands.all fun v => decide (v.toNat < 2 ^ 32))

/-- A rank posts to a round that has ended: the post completes as the round did, TIMEOUT where that is not kept (R134,
R135). -/
def latePost (c n : Nat) (p : RedPost) (b : Block) : Block :=
  let o := tabGet (true, { tenant := Fin.ofNat 1024 (chanTenant b c), round := n % 65536, timeout := true })
    (getChan b c).outcomes n
  let b1 := modChan b c fun ch => { ch with nextPost := tabPut ch.nextPost p.rank (n + 1) }
  finishPost o.1 o.2 p
    (onlyIf (ranksDue b1 c n).isEmpty (fun b => modChan b c fun ch => { ch with outcomes := tabDel ch.outcomes n }) b1)

/-- REDUCE_POST posts a rank's operands. -/
def effReducePost (iss : Issuer) (p : ReducePostP) (b : Block) : Block :=
  let t := iss.tenant.val
  let r := getTen b t
  let done := complete b iss 0x0402
  let x := p.chan ≠ 0xFF
  let c := if x then 1024 + p.chan.toNat else t
  let xc := tabGet {} b.spine.xchan p.chan.toNat
  if !fromTenant b iss then done stNotAuthorised
  else if !postOk p || !((localRanks b r).contains p.rank) then done stBadParam
  else if x && !(xc.valid && xc.tenant == t) then done stTenantMismatch
  else if tenantHeld b t then done stHeld
  else if x && r.effStrict && p.op = 0 && p.ty ≠ 0 then done stRefused
  else
    let ch := getChan b c
    let n := tabGet 0 ch.nextPost p.rank
    let post : RedPost := { rank := p.rank, iss := iss, op := p.op, ty := p.ty, count1 := p.count1,
                            operands := (p.operands ++ [0, 0, 0, 0]).take (p.count1.toNat + 1),
                            resultAddr := p.resultAddr, at' := nowNs b }
    if roundEnded ch n then latePost c n post b
    else if !(ch.rounds.any fun q => q.round == n) && ch.rounds.length ≥ 4 then done stNoResource
    else
      let b1 := modRound b c n fun q => { q with posts := q.posts ++ [post] }
      let b2 := modChan b1 c fun ch => { ch with nextPost := tabPut ch.nextPost p.rank (n + 1) }
      if x then expressOwn c n b2 else pumpChan c b2

def execReducePost (iss : Issuer) (p : ReducePostP) (s : State) : Host.Outcome State Fault Refusal :=
  act s (effReducePost iss p)

/-! ### REDUCE and REDUCE_X cells -/

/-- Joins the two cells of a round of three or four operands (R130): PART 0 waits for its PART 1. -/
def joinParts (b : Block) (c n : Nat) (hdr : CellHdr) (x : RedBody) : Block × Option RedBody :=
  if x.count1.toNat < 2 then (b, some x)
  else
    let same (y : CellHdr × RedBody) : Bool := y.1.level == hdr.level && y.1.lap2 == hdr.lap2
    let r := findRound (getChan b c) n
    if !hdr.part then (modRound b c n fun r => { r with part0 := r.part0 ++ [(hdr, x)] }, none)
    else
      match r.part0.find? same with
      | none => (b, none)
      | some y => (modRound b c n fun r => { r with part0 := r.part0.erase y },
                   some { x with values := y.2.values ++ x.values, overflow := x.overflow || y.2.overflow })

/-- A second-lap cell of a round: it delivers the result and passes on. -/
def redLap2 (port c n : Nat) (hdr : CellHdr) (x : RedBody) (b : Block) : Block :=
  let k := hdr.level.val
  let acts := if isHandoff port hdr then spreadFrom b k hdr.abort x else lap2Recv b k hdr.abort x
  each acts (redAct c n []) b

/-- A REDUCE cell (R132): a lap of a fixed-order channel.  A cell of a round that has ended here passes on as it is. -/
def onReduce (port : Nat) (hdr : CellHdr) (x : RedBody) (b : Block) : Block :=
  let c := hdr.chan.toNat
  let k := hdr.level.val
  match roundOf (getChan b c) x.round with
  | none => if ringMember b k && !isHead b k then sendHop b (eastHop k) hdr (.reduce x) else b
  | some n =>
    if !ringMember b k then b
    else
      match joinParts b c n hdr x with
      | (b1, none) => b1
      | (b0, some y) =>
        let h := { hdr with part := false }
        let b1 := keepPlaces c n b0
        if hdr.lap2 then kickRed c (pumpChan c (redLap2 port c n h y b1))
        else
          let r := findRound (getChan b1 c) n
          let t := chanTenant b1 c
          let places := redPlaces b1 t r
          let top := if places.isEmpty then 3 else topRing places
          let (l, acts) := lapArrive b1 top (isHandoff port hdr) h y r.lap
          let b2 := modRound b1 c n fun r => { r with lap := l }
          kickRed c (pumpChan c (each acts (redAct c n places) b2))

/-- A REDUCE_X cell (R133). -/
def onReduceX (port : Nat) (hdr : CellHdr) (x : RedBody) (b : Block) : Block :=
  let c := hdr.chan.toNat
  let k := hdr.level.val
  match roundOf (getChan b c) x.round with
  | none => if ringMember b k && !isHead b k then sendHop b (eastHop k) hdr (.reduceX x) else b
  | some n =>
    if !ringMember b k then b
    else
      match joinParts b c n hdr x with
      | (b1, none) => b1
      | (b1, some y) =>
        if hdr.lap2 then redLap2 port c n { hdr with part := false } y b1
        else expressOn (keepPlaces c n b1) c n k hdr.abort y

/-! ### Timeouts (R135) -/

def redTimeoutNs (b : Block) : Ns := b.spine.redTimeoutMs * 1000000

/-- RED_TIMEOUT: a lap has waited here SP_RED_TIMEOUT for this GLT, or an express head for its participants: ABORT and
TIMEOUT are set and it goes on (R135 case 1). -/
def effRedTimeout (c n : Nat) (b : Block) : Block :=
  let r := findRound (getChan b c) n
  match r.waitSince with
  | none => b
  | some t0 =>
    if nowNs b < t0 + redTimeoutNs b then b
    else if isExpress c then
      match r.partial' with
      | none => b
      | some p =>
        expressOut c n (topRing (redPlaces b (chanTenant b c) r)) true { p with timeout := true } b
    else
      let waiting := r.lap.waiting.map fun w => ({ w.1 with abort := true }, { w.2 with timeout := true })
      pumpRed c n (modRound b c n fun z => { z with lap := { z.lap with waiting := waiting }, waitSince := none })

def execRedTimeout (chan : BitVec 11) (round : Nat) (s : State) : Host.Outcome State Fault Refusal :=
  act s (effRedTimeout chan.toNat round)

/-- The tray that a silent Spine is laid to: a participant that the census lacks, else the neighbour from which the next
cell was due (R283). -/
def silentTray (b : Block) (places : List Place) : Place :=
  match places.find? fun p => !trayPresent b p with
  | some p => p
  | none => hopNeighbour b (westHop 0)

/-- RED_WATCHDOG: no result within twice SP_RED_TIMEOUT of its posts: they complete with TIMEOUT, the Flyleaf records it
and SPINE_SILENT is filed (R135 case 3, R283).  The round ends here unless a lap of it still waits here. -/
def effRedWatchdog (c n : Nat) (b : Block) : Block :=
  let r := findRound (getChan b c) n
  let due := r.posts.filter fun p => decide (p.at' + 2 * redTimeoutNs b ≤ nowNs b)
  if due.isEmpty then b
  else
    let t := chanTenant b c
    let b1 := each due (fun p b => complete b p.iss 0x0402 stTimeout) b
    let b2 := modRound b1 c n fun z => { z with posts := z.posts.filter fun p => !due.contains p }
    let b3 := raise b2 .sp 6 (aboutTen b2 t)
    let z := findRound (getChan b3 c) n
    let out : RedBody := { round := n % 65536, tenant := Fin.ofNat 1024 t, timeout := true }
    let b4 := onlyIf (z.posts.isEmpty && z.lap.waiting.isEmpty) (closeRound c n true out) b3
    let tray := silentTray b4 (participants (getTen b4 t))
    if tray = 0 then b4 else fileReport b4 .spineSilent tray false

def execRedWatchdog (chan : BitVec 11) (round : Nat) (s : State) : Host.Outcome State Fault Refusal :=
  act s (effRedWatchdog chan.toNat round)

/-! ## Barriers (R136-R140) -/

/-- A rank arrives (R137): counted once in a round; the round's laps move on. -/
def arriveRank (b : Block) (t g rank : Nat) : Block :=
  pumpBar t g (modBar b t g fun x => { x with arrived := withEntry x.arrived rank })

/-- Whether a group has a round in flight (R151): a rank has arrived, a lap waits, or a release is to come; where member ranks
are served, also where a lap has left.  A lap that a head without members has started (R116) is none. -/
def barBusy (b : Block) (t g : Nat) : Bool :=
  let x := getBar b t g
  !x.arrived.isEmpty || !x.lap.waiting.isEmpty || x.release.isSome || (!x.lap.started.isEmpty && !(barLocal b t g).isEmpty)

/-- BARRIER_ARM (R136, R137, R151). -/
def effBarrierArm (iss : Issuer) (p : BarrierArmP) (b : Block) : Block :=
  let t := iss.tenant.val
  let r := getTen b t
  let done := complete b iss 0x0401
  let g := p.group
  let auth := if p.action = 1 then fromTenant b iss else isPf iss && iss.pf.val == r.creatingPf
  if !auth then done stNotAuthorised
  else if p.rsv || decide (p.action.toNat > 2) || g > 3 then done stBadParam
  else if p.action = 0 then
    if !(within 1 32768 p.membersLen) || p.members.any fun k => decide (k ≥ r.ranks) then done stBadParam
    else if g = 0 || barBusy b t g then done stRefused
    else pumpBar t g (complete (modBar b t g fun x => { x with configured := true, members := p.members }) iss 0x0401 stOk)
  else if p.action = 2 then
    if g = 0 || barBusy b t g then done stRefused
    else complete (modBar b t g fun x => { x with configured := false, members := [] }) iss 0x0401 stOk
  else if p.resultAddr % 16 ≠ 0 || !((barLocal b t g).contains p.rank) then done stBadParam
  else if tenantHeld b t then done stHeld
  else
    arriveRank (modBar b t g fun x => { x with arriveIss := x.arriveIss ++ [(p.rank, iss, p.resultAddr)] }) t g p.rank

def execBarrierArm (iss : Issuer) (p : BarrierArmP) (s : State) : Host.Outcome State Fault Refusal :=
  act s (effBarrierArm iss p)

/-- A BARRIER cell of the group's current round. -/
def barNow (port t g : Nat) (hdr : CellHdr) (x : BarBody) (b : Block) : Block :=
  let k := hdr.level.val
  if hdr.lap2 then
    let acts := if isHandoff port hdr then spreadFrom b k hdr.abort x else lap2Recv b k hdr.abort x
    lateCheck t g (pumpBar t g (each acts (barAct t g) b))
  else if isParticipant b (getTen b t) && !barConfigured b t g && !hdr.abort then
    -- R136: the group is not configured here
    let b1 := raise b .sp 7 (aboutTen b t)
    sendHop b1 (eastHop k) { hdr with abort := true } (.barrier { x with count := Nat.max 1 x.count })
  else
    let (l, acts) := lapArrive b (tenTop b t) (isHandoff port hdr) hdr x (getBar b t g).lap
    lateCheck t g (pumpBar t g (each acts (barAct t g) (modBar b t g fun y => { y with lap := l })))

/-- A BARRIER cell (R136-R138): one of the next round waits until this one has been released here. -/
def onBarrier (port : Nat) (hdr : CellHdr) (x : BarBody) (b : Block) : Block :=
  let t := x.tenant.val
  let g := hdr.group.val
  let k := hdr.level.val
  let bar := getBar b t g
  if !ringMember b k then b
  else if !(getTen b t).exists' then
    -- no tenant here: the cell only passes
    if hdr.lap2 then
      each (if isHandoff port hdr then spreadFrom b k hdr.abort x else lap2Recv b k hdr.abort x)
        (lapSend putBar (barHdr t g)) b
    else if isHandoff port hdr then putBar (eastHop k) hdr x b
    else putBar (eastHop k) hdr x b
  else if x.round ≠ bar.round % 65536 then
    if x.round = (bar.round + 1) % 65536 then modBar b t g fun y => { y with early := y.early ++ [(port, hdr, x)] }
    else b
  else barNow port t g hdr x b

/-- Delivers the cells that came early once their round is current. -/
def barEarly (t g : Nat) (b : Block) : Block :=
  let l := (getBar b t g).early
  each l (fun e b => onBarrier e.1 e.2.1 e.2.2 b) (modBar b t g fun y => { y with early := [] })

/-- BARRIER_RELEASE: T_r has come (R138, R139). -/
def effBarrierRelease (t g : Nat) (b : Block) : Block :=
  let bar := getBar b t g
  match bar.release with
  | none => b
  | some tr =>
    if nowNs b < tr || bar.withheld then b
    else
      let b1 := releaseDue b t g tr
      if (getBar b1 t g).withheld then b1
      else pumpBar t g (each bar.early (fun e b => onBarrier e.1 e.2.1 e.2.2 b) b1)

def execBarrierRelease (tenant : Fin 1024) (group : Fin 4) (s : State) : Host.Outcome State Fault Refusal :=
  act s (effBarrierRelease tenant.val group.val)

/-! ## Sew votes (R141-R144) -/

/-- Whether every tile of a gathering's interval here is FINAL (R101). -/
def tilesFinal (b : Block) (t n : Nat) : Bool :=
  b.ver.tiles.all fun x => !(decide (x.hdr.tenant.val = t) && decide (x.hdr.gathering = n)) || decide (x.phase = .final)

/-- Whether the interval-close markers of the tenant's slots are in, or the deadline has passed (R101). -/
def markersIn (b : Block) (t : Nat) (g : Gathering) : Bool :=
  g.deadlinePassed || (tenantSlots b (getTen b t)).all fun n => g.markers.contains n

/-- R15: this GLT can pass gathering `n`: its tiles are final, its interval closed, and its signed colophon is verified. -/
def canPass (b : Block) (t n : Nat) : Bool :=
  let g := getG b t n
  !(getDom b 48).withdrawn && decide (g.phase = .voting) && g.colophonOk && !g.bindStopped && !g.noMap && !g.diverged && tilesFinal b t n &&
    markersIn b t g

/-- The gatherings of a tenant whose vote this GLT has still to post, oldest first. -/
def unposted (b : Block) (t : Nat) : List Nat :=
  ((getTen b t).gatherings.filter fun g =>
    decide (g.round = .pending) && !g.rolledBack && decide (g.localVote = .notPosted)).map fun g => g.n

/-- SEW_VOTE_POST: the oldest vote still to post goes out once R15 and R141 allow it; a fail that waited for the previous
vote goes out too (R141). -/
def effSewVotePost (t : Nat) (b : Block) : Block :=
  match unposted b t with
  | [] => b
  | n :: _ =>
    if !isParticipant b (getTen b t) || !prevEnded b t n then b
    else if (getG b t n).failDue then postFail b t n (getG b t n).hostFail false
    else if canPass b t n then pumpVote t n (modG b t n fun g => { g with localVote := .pass })
    else b

def execSewVotePost (tenant : Fin 1024) (s : State) : Host.Outcome State Fault Refusal := act s (effSewVotePost tenant.val)

/-- The votes of a tenant whose laps a head without ranks starts. -/
def pumpVotes (t : Nat) (b : Block) : Block :=
  if isParticipant b (getTen b t) then b else each ((getTen b t).gatherings.map fun g => g.n) (fun n b => pumpVote t n b) b

/-- A VOTE cell (R141, R142): a fail vote sent as a control broadcast ends the round at once and goes on; any other is a
lap of the vote. -/
def onVote (port : Nat) (hdr : CellHdr) (x : VoteBody) (b : Block) : Block :=
  let t := hdr.chan.toNat % 1024
  let n := x.gathering
  let k := hdr.level.val
  if !ringMember b k then b
  else if hdr.abort then
    let b1 := passBroadcast b (if (getTen b t).exists' then tenTop b t else 3) port hdr (.vote x)
    if isParticipant b1 (getTen b1 t) && hasG b1 t n then endFailed b1 t n x.host else b1
  else if hdr.lap2 then
    let acts := if isHandoff port hdr then spreadFrom b k false x else lap2Recv b k false x
    pumpVotes t (each acts (voteAct t n) b)
  else if !(getTen b t).exists' then putVote (eastHop k) hdr x b
  else
    let (l, acts) := lapArrive b (tenTop b t) (isHandoff port hdr) hdr x (getG b t n).lap
    pumpVotes t (pumpVote t n (each acts (voteAct t n) (modG b t n fun g => { g with lap := l })))

/-- A SEWN cell (R143): it spreads on, and a participant takes the gathering as sewn. -/
def onSewnCell (port : Nat) (hdr : CellHdr) (x : VoteBody) (b : Block) : Block :=
  let t := hdr.chan.toNat % 1024
  let b1 := passBroadcast b (if (getTen b t).exists' then tenTop b t else 3) port hdr (.sewn x)
  if hasG b1 t x.gathering then onSewn b1 t x.gathering x.completion x.tag else b1

/-- SEW_VOTE's QUERY block (R152). -/
def voteBlock (g : Gathering) : List Byte :=
  let lv : Byte := match g.localVote with | .notPosted => 0 | .pass => 1 | .fail => 2 | .vetoed => 3
  let rd : Byte := match g.round with | .pending => 0 | .sewn => 1 | .failed => 2
  leBytes 4 g.n ++ [lv, rd, 0, 0] ++ leBytes 8 (if g.round = .sewn then (r111 g.completion).toNat else 0) ++
    leBytes 8 g.tag.toNat ++ zeroBytes 8

/-- The gathering that is open: the newest started one whose vote has not ended. -/
def openGathering (b : Block) (t : Nat) : Option Nat :=
  let r := getTen b t
  if r.gatherings.any fun g => g.n == r.started && decide (g.round = .pending) && !g.rolledBack then some r.started else none

/-- SEW_VOTE (R144, R152). -/
def effSewVote (iss : Issuer) (p : SewVoteP) (b : Block) : Block :=
  let t := iss.tenant.val
  let r := getTen b t
  let done := complete b iss 0x0403
  let auth := if p.action = 1 then isPf iss && iss.pf.val == r.creatingPf else fromTenant b iss
  if !auth then done stNotAuthorised
  else if p.rsv || decide (p.action.toNat > 1) then done stBadParam
  else if p.action = 0 then
    if p.resultAddr % 32 ≠ 0 || !(hasG b t p.gathering) then done stBadParam
    else complete (hostWrite b iss p.resultAddr (voteBlock (getG b t p.gathering))) iss 0x0403 stOk
  else if openGathering b t ≠ some p.gathering then done stBadParam
  else if (getG b t p.gathering).localVote ≠ .notPosted then done stRefused
  else complete (postFail b t p.gathering false true) iss 0x0403 stOk

def execSewVote (iss : Issuer) (p : SewVoteP) (s : State) : Host.Outcome State Fault Refusal := act s (effSewVote iss p)

end Sys2Proof.Machine
end

