-- ==== Sys2Proof/Machine/SnOps.lean ====
section
/-!
DEFINITION. Machine/SnOps.lean: what a sentinel does inside: its page tracker and push buffer (R180-R185), its reads of
accelerator memory (R236), the queue of priority 3 (R188), and the Hinge drops (R233).
-/

namespace Sys2Proof.Machine

/-! ## Small reads -/

/-- The accelerator reset domain that holds memory, and its edition; 0xFF and 0 for none (Table 7.4). -/
def memDomain (s : Sentinel) : Byte × Byte :=
  match s.decl with
  | some d => if d.memValid then (d.memDomain.setWidth 8, tabGet 0 s.editions d.memDomain.toNat) else (0xFF, 0)
  | none => (0xFF, 0)

/-- The tracked page that holds a Hinge address: region number and page index. -/
def pageAt (l : List RegionDesc) (addr : Nat) : Option (Nat × Nat) :=
  (l.find? fun d => decide (d.base ≤ addr) && decide (addr < d.base + d.length)).map fun d =>
    (d.region.val, (addr - d.base) / 65536)

/-- The Hinge address of a page of a region. -/
def pageAddr (l : List RegionDesc) (region page : Nat) : Nat :=
  ((l.find? fun d => d.region.val == region).map fun d => d.base + page * 65536).getD 0

/-- Orders regions by number. -/
def insertRegion (d : RegionDesc) : List RegionDesc → List RegionDesc
  | [] => [d]
  | x :: r => if d.region.val ≤ x.region.val then d :: x :: r else x :: insertRegion d r

def sortRegions : List RegionDesc → List RegionDesc
  | [] => []
  | d :: r => insertRegion d (sortRegions r)

/-- The order of pre-gathering (R187): ascending REGION, those with DEEP_ONLY last. -/
def preOrder (l : List RegionDesc) : List RegionDesc :=
  sortRegions (l.filter fun d => !d.deepOnly) ++ sortRegions (l.filter fun d => d.deepOnly)

/-- The next page to pre-gather. -/
def nextPre (s : Sentinel) : Option (Nat × Nat) :=
  (preOrder s.regions).findSome? fun d =>
    ((upFrom 0 (d.length / 65536)).find? fun p => !s.copied.contains (d.region.val, p)).map fun p => (d.region.val, p)

/-- A page is tracked and not yet copied. -/
def uncopied (s : Sentinel) (x : Nat × Nat) : Bool := s.armed && !s.copied.contains x

/-! ## Hinge -/

/-- A Hinge message that the sentinel drops under R233: it is counted and sets SN_ERR.HINGE. -/
def hingeDrop (b : Block) (n : Nat) : Block :=
  raise (modSn b n fun s => { s with cntHingeDrop := s.cntHingeDrop + 1 }) (.sn n) 1 (aboutSlot b n)

/-- A Hinge message is acted on unless R233 drops it. -/
def onHinge (n : Nat) (err : HingeErr) (f : Block → Block) (b : Block) : Block :=
  if err = .none then f b else hingeDrop b n

/-- Sends an MRD with the sentinel's next TAG. -/
def issueMrd (b : Block) (n : Nat) (use : HingeUse) (addr bytes : Nat) : Block :=
  let s := getSn b n
  let q : HingeReq := { tag := s.nextTag, use := use, addr := addr, bytes := bytes, at' := nowNs b }
  snHinge (setSn b n { s with reqs := s.reqs ++ [q], nextTag := s.nextTag + 1 }) n (.mrd s.nextTag addr bytes)

/-- Writes a restore page with MWRs of 4,096 bytes (R243). -/
def issueMwrs (b : Block) (n : Nat) (addr : Nat) (data : List Byte) : Block :=
  let chunks := (data.length + 4095) / 4096
  each (upFrom 0 chunks) (fun i b =>
    let s := getSn b n
    snHinge (setSn b n { s with nextTag := s.nextTag + 1 }) n
      (.mwr s.nextTag (addr + i * 4096) ((data.drop (i * 4096)).take 4096))) b

/-! ## The queue of priority 3 -/

/-- An urgent push that may start goes ahead of the queue (R188). -/
def urgentFirst (s : Sentinel) : Bool :=
  decide (s.urgentCredit ≠ 0) && s.pushBuf.any fun p => p.urgent && p.sentAs.isNone

/-- Whether the queue may move: the Tether is up and no urgent push goes first. -/
def mayShip (s : Sentinel) : Bool := s.tetherUp && !urgentFirst s

/-- An item of the queue leaves, a record as the stream that it has begun. -/
def shipItem (b : Block) (n : Nat) : SnItem → Block
  | .fetching _ => b
  | .record h d none => snTell b n (.tileRecord h d)
  | .record h d (some _) => emit b (.toGlt n (.tileRecord h d))
  | .void v => snTell b n (.tileVoid v)
  | .close g _ => snTell b n (.intervalClose g)
  | .holdMark m => snTell b n (.note m)

/-- The place of a record in the queue: what stands behind it waits for its fetch (R94, R264). -/
def isPlace (q : W32) : SnItem → Bool
  | .fetching p => p == q
  | .record _ _ _ | .void _ | .close _ _ | .holdMark _ => false

/-- Ships `k` items of the queue at most, in order. -/
def shipSome (n : Nat) : Nat → Block → Block
  | 0, b => b
  | k + 1, b =>
    let s := getSn b n
    match s.shipQ with
    | [] => b
    | .fetching _ :: _ => b
    | x :: r => if mayShip s then shipSome n k (shipItem (setSn b n { s with shipQ := r }) n x) else b

/-- A record's stream may begin: its place heads the queue, and its fetch is under way (R239; DESIGN CHOICE, log entry 164). -/
def mayBegin (s : Sentinel) (f : Fetch) : Bool :=
  mayShip s && f.stream.isNone && !f.lost && !f.discard && (f.cur.isSome || !f.done.isEmpty) &&
    (s.shipQ.head?.map (isPlace f.hdr.tapSeq)).getD false

/-- The record at the head of the queue begins its stream. -/
def beginRecord (b : Block) (n : Nat) : Block :=
  let s := getSn b n
  match s.fetches.find? (mayBegin s) with
  | none => b
  | some f =>
    let open' (x : Fetch) : Fetch := if x.hdr.tapSeq = f.hdr.tapSeq then { x with stream := some s.nextStream } else x
    setSn b n { s with nextStream := s.nextStream + 1, fetches := s.fetches.map open' }

def ship (b : Block) (n : Nat) : Block := beginRecord (shipSome n (getSn b n).shipQ.length b) n

/-- Puts what a fetch has given in the record's place; at the end where it has none. -/
def fillPlace (q : W32) (x : SnItem) : List SnItem → List SnItem
  | [] => [x]
  | y :: r => if isPlace q y then x :: r else y :: fillPlace q x r

/-- Streams that the sentinel has begun and cannot complete end with END and ABORT (R239). -/
def abortStreams (b : Block) (n : Nat) (l : List W16) : Block :=
  each l (fun st b => emit b (.streamAbort n st)) b

/-- A fetch has ended: its record or its VOID takes its place in the queue.  Nothing is sent for a record whose stream went
with the Tether (R242). -/
def finishFetch (b : Block) (n : Nat) (f : Fetch) (x : SnItem) : Block :=
  ship (modSn b n fun s =>
    { s with shipQ := if f.lost then s.shipQ.filter fun y => !isPlace f.hdr.tapSeq y else fillPlace f.hdr.tapSeq x s.shipQ,
             tileRun := if s.fetches.isEmpty then 0 else s.tileRun }) n

/-- Queues an item of priority 3. -/
def queueShip (b : Block) (n : Nat) (x : SnItem) : Block :=
  ship (modSn b n fun s => { s with shipQ := s.shipQ ++ [x] }) n

/-! ## Grants (R180, R184) -/

/-- Grants one waiting request; its hold ends now (R186). -/
def grantOne (n : Nat) (w : FwWait) (b : Block) : Block :=
  let h := nowNs b - w.at'
  let b1 := snHinge b n (.fwGrant w.tag w.addr)
  let b2 := modSlot b1 n fun s => { s with holdNs := s.holdNs + h, holdMax := Nat.max s.holdMax h }
  count b2 (slotCounter n 11) h

/-- Grants every waiting request for which a test holds. -/
def grantWaits (b : Block) (n : Nat) (hit : FwWait → Bool) : Block :=
  let go := (getSn b n).fwWait.filter hit
  each go (grantOne n) (modSn b n fun s => { s with fwWait := s.fwWait.filter fun w => !hit w })

/-- Marks a page copied, and grants the requests that wait for it (R184). -/
def markCopied (b : Block) (n region page : Nat) : Block :=
  let b1 := modSn b n fun s => { s with copied := withEntry s.copied (region, page), urgentQ := without s.urgentQ (region, page),
                                        readFails := s.readFails.filter fun x => !(x.1 == region && x.2.1 == page) }
  let b2 := modSlot b1 n fun s => { s with left := s.left - 1 }
  let last := decide ((getSlot b n).left = 1)
  grantWaits (onlyIf last sendPace b2) n fun w => w.region == region && w.page == page

/-! ## What the sentinel reads next (R236) -/

/-- Pages of the push buffer that pre-gathering holds (R185). -/
def preHeld (s : Sentinel) : Nat := (s.pushBuf.filter fun p => !p.urgent).length

/-- Accelerator memory is being read or written. -/
def memBusy (s : Sentinel) : Bool := !s.reqs.isEmpty || s.restore.any fun r => !r.tags.isEmpty

/-- Starts the read of a page: its first MRD. -/
def startPage (b : Block) (n region page : Nat) (urgent : Bool) : Block :=
  let b1 := modSn b n fun s =>
    { s with pageReads := s.pageReads ++ [{ region := region, page := page, urgent := urgent }], tileRun := 0 }
  issueMrd b1 n .page (pageAddr (getSn b n).regions region page) 4096

/-- Starts a restore page: its MWRs, all of them in flight at once. -/
def startRestore (b : Block) (n : Nat) (w : RestoreWork) (rest : List RestoreWork) : Block :=
  let first := (getSn b n).nextTag
  let w1 := { w with tags := (upFrom 0 ((w.push.data.length + 4095) / 4096)).map fun i => first + BitVec.ofNat 16 i }
  issueMwrs (modSn b n fun s => { s with restore := w1 :: rest, tileRun := 0 }) n w.push.addr w.push.data

/-- The address of what a tile block still needs: its elements with their seal, then its scales. -/
def blockNext (k : TileBlock) : Option (Nat × Nat) :=
  let need := (k.elemBytes + 7) / 8 * 8 + 8
  if k.got.length < need then
    some ((k.addr + k.got.length) / 64 * 64, (k.addr + k.got.length) % 64 + min (need - k.got.length) 4032)
  else if k.gotScale.length < k.scaleBytes then
    some ((k.scaleAddr + k.gotScale.length) / 64 * 64,
      (k.scaleAddr + k.gotScale.length) % 64 + min (k.scaleBytes - k.gotScale.length) 4032)
  else none

/-- An MRD length: a multiple of 64 from 64 to 4,096 that covers the bytes. -/
def mrdLen (n : Nat) : Nat := min 4096 ((n + 63) / 64 * 64)

/-- Bytes read for tiles since the last switch, once a read of so many starts. -/
def tileRunNext (s : Sentinel) (bytes : Nat) : Nat := (if 65536 ≤ s.tileRun then 0 else s.tileRun) + bytes

/-- Goes on with the fetch at the head: its current block, or the next one. -/
def startFetch (b : Block) (n : Nat) (f : Fetch) (rest : List Fetch) : Block :=
  match f.cur.orElse fun _ => f.todo.head? with
  | none => b
  | some k =>
    let f1 := { f with cur := some k, todo := if f.cur.isSome then f.todo else f.todo.drop 1 }
    match blockNext k with
    | none => b
    | some (a, len) =>
      let b1 := modSn b n fun s => { s with fetches := f1 :: rest, tileRun := tileRunNext s (mrdLen len) }
      issueMrd (beginRecord b1 n) n .tile a (mrdLen len)

/-- Tile fetches keep the reads until their boundary of 64 KiB (R236). -/
def tilesStay (s : Sentinel) : Bool := decide (0 < s.tileRun) && decide (s.tileRun < 65536)

/-- What the sentinel reads next, in the order of R236: urgent pages, restore pages, tile fetches, pre-gathering.  Pages are
64 KiB; tile fetches give way at their own boundaries of 64 KiB. -/
def startNext (b : Block) (n : Nat) : Block :=
  let s := getSn b n
  if memBusy s || s.ucieWidth = 0 || s.decl.isNone then b
  else
    let urgent := if s.armed && decide (s.pushBuf.length < 32) then s.urgentQ.head? else none
    let pre := if s.armed && s.pregatherEn && decide (s.pushBuf.length < 32) && decide (preHeld s < 24) then nextPre s else none
    match (if tilesStay s then s.fetches else []), urgent, s.restore, s.fetches, pre with
    | f :: rest, _, _, _, _ => startFetch b n f rest
    | [], some (r, p), _, _, _ => startPage (modSn b n fun s => { s with urgentQ := s.urgentQ.drop 1 }) n r p true
    | [], none, w :: rest, _, _ => startRestore b n w rest
    | [], none, [], f :: rest, _ => startFetch b n f rest
    | [], none, [], [], some (r, p) => startPage b n r p false
    | [], none, [], [], none => b

/-! ## Ends of a page read (R184, R252) -/

/-- A page read has all its bytes: the page goes to the push buffer, is marked copied, and its requests are granted; one
that a domain reset discards is marked copied and not shipped. -/
def pageDone (b : Block) (n : Nat) (r : PageRead) : Block :=
  let s := getSn b n
  let md := memDomain s
  let p : PushPage := { region := r.region, page := r.page, urgent := r.urgent, edition := md.2, domain := md.1, data := r.data,
                        readTime := stamp48 (nowNs b), gathering := s.gathering }
  let b1 := modSn b n fun s => { s with pageReads := s.pageReads.drop 1,
                                        pushBuf := if r.discard then s.pushBuf else s.pushBuf ++ [p] }
  startNext (markCopied b1 n r.region r.page) n

/-- How often a page's read has failed in a row, with this failure. -/
def readFailed (s : Sentinel) (region page : Nat) : Nat :=
  (((s.readFails.find? fun x => x.1 == region && x.2.1 == page).map fun x => x.2.2).getD 0) + 1

/-- The pages that waiting requests need and no read brings, in the order in which the requests came (R184). -/
def urgentOrder (s : Sentinel) : List (Nat × Nat) :=
  let wanted : List (Nat × Nat) := foldOver (fun l w => withEntry l (w.region, w.page)) [] s.fwWait
  wanted.filter fun (x : Nat × Nat) =>
    uncopied s x && !(s.pageReads.any fun r => r.region == x.1 && r.page == x.2)

/-- A page read ends in an error: the page stays uncopied and is read again, urgently and in the order of arrival when requests
wait for it; the third failure in a row sends REPORT (R184).  A read that a domain reset discards ends as R252 says. -/
def pageFail (b : Block) (n : Nat) (r : PageRead) : Block :=
  if r.discard then pageDone b n r
  else
    let s := getSn b n
    let k := readFailed s r.region r.page
    let s1 : Sentinel :=
      { s with pageReads := s.pageReads.drop 1,
               readFails := (s.readFails.filter fun x => !(x.1 == r.region && x.2.1 == r.page)) ++ [(r.region, r.page, k)] }
    let b1 := setSn b n { s1 with urgentQ := urgentOrder s1 }
    let b2 := if k = 3 then snTell b1 n (.report (.pageRead (Fin.ofNat 64 r.region) r.page)) else b1
    startNext b2 n

/-! ## The tracker -/

/-- The streams of the pages that have been begun and not acknowledged. -/
def pushStreams (s : Sentinel) : List W16 := s.pushBuf.filterMap fun p => p.sentAs

/-- The tracker disarms and grants every waiting request; pages of the gathering leave the buffer, and their streams end
(R197, R239). -/
def disarm (b : Block) (n : Nat) : Block :=
  let b1 := modSn (abortStreams b n (pushStreams (getSn b n))) n fun s =>
    { s with armed := false, urgentQ := [], pageReads := [], readFails := [], pushBuf := [],
             reqs := s.reqs.filter fun q => q.use != HingeUse.page }
  ship (startNext (grantWaits b1 n fun _ => true) n) n

/-- A first-write request of an uncopied tracked page waits for the read in flight, or queues an urgent one (R184). -/
def awaitPage (b : Block) (n : Nat) (w : FwWait) : Block :=
  let b1 := modSn b n fun s =>
    { s with fwWait := s.fwWait ++ [w],
             urgentQ := if s.pageReads.any fun r => r.region == w.region && r.page == w.page then s.urgentQ
                        else withEntry s.urgentQ (w.region, w.page) }
  startNext b1 n

/-- The tracker arms: every page of every tracked region is uncopied (R178).  A request that still waits is looked at
again under the new regions. -/
def armTracker (b : Block) (n gathering : Nat) (regions : List RegionDesc) : Block :=
  let old := (getSn b n).fwWait
  let b1 := modSn b n fun s =>
    { s with armed := true, gathering := gathering, regions := regions, copied := [], urgentQ := [], pageReads := [],
             readFails := [], fwWait := [], reqs := s.reqs.filter fun q => q.use != HingeUse.page }
  let b2 := each old (fun w b =>
    match pageAt regions w.addr with
    | some (r, p) => awaitPage b n { w with region := r, page := p }
    | none => grantOne n w b) b1
  startNext b2 n

end Sys2Proof.Machine
end

