-- ==== Sys2Proof/Machine/GatherOps.lean ====
section
/-!
DEFINITION. Machine/GatherOps.lean: the GLT's side of a gathering as several chapters use it: staging levels and credits
(R192), abandoning a slot's gathering (R197), signatures and their comparison (R193-R196).
-/

namespace Sys2Proof.Machine

/-! ## Staging (R191, R192) -/

def stagedBytes (b : Block) : Nat := b.gt.staging.length * pageBytes

/-- Whether staging has reached a percentage of GT_STAGE_SIZE. -/
def fillAtLeast (b : Block) (pct : Nat) : Bool := decide (pct * (b.gt.stageGib * gib) ≤ 100 * stagedBytes b)

/-- Whether staging is above a percentage of GT_STAGE_SIZE. -/
def fillAbove (b : Block) (pct : Nat) : Bool := decide (pct * (b.gt.stageGib * gib) < 100 * stagedBytes b)

/-- The level that the fill gives (Table 7.5): entered at its watermark, left HYST_PCT below it. -/
def levelNow (b : Block) : StageLevel :=
  let g := b.gt
  if fillAtLeast b g.backpressurePct then .backpressure
  else if g.level = .backpressure && fillAbove b (g.backpressurePct - g.hystPct) then .backpressure
  else if fillAtLeast b g.throttlePct then .throttled
  else if g.level ≠ .normal && fillAbove b (g.throttlePct - g.hystPct) then .throttled
  else .normal

/-- Grants the urgent credits that are owed. -/
def payUrgent (b : Block) : Block :=
  each b.gt.urgentWait (fun n b => sendCredit b n 1 0) { b with gt := { b.gt with urgentWait := [] } }

/-- Grants the pre-gathering credits that are owed. -/
def payPre (b : Block) : Block :=
  each b.gt.preWait (fun n b => sendCredit b n 0 1) { b with gt := { b.gt with preWait := [] } }

/-- The fill has changed: the level follows, and its entry sets its bit of GT_ERR (R192). -/
def stageLevel (b : Block) : Block :=
  let old := b.gt.level
  let new := levelNow b
  let full := fillAtLeast b 100
  let b1 := { b with gt := { b.gt with level := new, full := full } }
  let b2 := if old = .normal && new ≠ .normal then raise b1 .gt 1 (aboutGlt b1) else b1
  let b3 := if old ≠ .backpressure && new = .backpressure then raise b2 .gt 2 (aboutGlt b2) else b2
  let b4 := if full && !b.gt.full then raise b3 .gt 3 (aboutGlt b3) else b3
  let b5 := if new ≠ .backpressure then payUrgent b4 else b4
  if new = .normal then payPre b5 else b5

/-- A push has used a credit of its kind: the GLT returns one as the level allows. -/
def returnCredit (b : Block) (n : Nat) (urgent : Bool) : Block :=
  let b1 := modSlot b n fun s => if urgent then { s with credU := s.credU - 1 } else { s with credP := s.credP - 1 }
  match urgent, b1.gt.level with
  | true, .backpressure => { b1 with gt := { b1.gt with urgentWait := b1.gt.urgentWait ++ [n] } }
  | true, .normal | true, .throttled => sendCredit b1 n 1 0
  | false, .normal => sendCredit b1 n 0 1
  | false, .throttled | false, .backpressure => { b1 with gt := { b1.gt with preWait := b1.gt.preWait ++ [n] } }

/-- A page has been digested: at a raised level one page is admitted for it (Table 7.5). -/
def admitOne (b : Block) : Block :=
  match b.gt.level with
  | .normal => b
  | .throttled =>
    match b.gt.preWait with
    | [] => b
    | n :: r => sendCredit { b with gt := { b.gt with preWait := r } } n 0 1
  | .backpressure =>
    match b.gt.urgentWait with
    | [] => b
    | n :: r => sendCredit { b with gt := { b.gt with urgentWait := r } } n 1 0

/-! ## Abandoning (R197) -/

/-- The staged pages of a slot are freed. -/
def dropStaged (b : Block) (n : Nat) : Block :=
  stageLevel { b with gt := { b.gt with staging := b.gt.staging.filter fun p => p.slot != n } }

/-- A slot's gathering is abandoned: the sentinel disarms and grants what waits, staged and buffered pages are freed, and in
the first three cases of R197 the vote fails.  `handed` also takes a gathering that the slot has handed to binding. -/
def abandonSlot (b : Block) (n : Nat) (failsVote handed : Bool) : Block :=
  let s := getSlot b n
  let busy := match s.gphase with
    | .copying | .copied | .digested => true
    | .idle => handed && decide (s.gathering ≠ 0)
    | .abandoned => false
  let b1 := if (getSn b n).armed then disarm b n else b
  if !busy then b1
  else
    let b2 := setSlot b1 n { getSlot b1 n with gphase := .abandoned, staged := [], digestedPages := [], left := 0, crcFails := [] }
    let b3 := raise (dropStaged b2 n) .gt 7 { aboutSlot b n with tenant := some s.tenant }
    sendPace (if failsVote then failVote b3 s.tenant s.gathering false else b3)

/-! ## Signatures (R193, R194) -/

/-- The declared region that a signature belongs to. -/
def sigRegion (b : Block) (t : Nat) (w : SigWork) : Option RegionDesc :=
  ((slotRanks b t).find? fun x => x.2 == w.rank).bind fun x => (getSlot b x.1).regions.find? fun d => d.region.val == w.region

/-- The index of a signature under the map of its gathering (R202). -/
def sigIndex (b : Block) (t : Nat) (g : Gathering) (w : SigWork) : Option Nat :=
  (sigRegion b t w).bind fun d => (firstIndex g.map w.rank d).map (· + w.index)

/-- A signature handle (Table 1.9).  An index beyond its 22 bits, of a gathering for which R24 tells the tenant to choose a larger
signature, wraps in them (DESIGN CHOICE, log entry 165: the manual does not say what the GLT does then). -/
def mkHandle (t n idx : Nat) : W64 := BitVec.ofNat 64 (t % 1024 * 2 ^ 54 + n % 2 ^ 32 * 2 ^ 22 + idx % 2 ^ 22)
def handleTenant (h : W64) : Nat := field h 54 10
def handleGathering (h : W64) : Nat := field h 22 32
def handleIndex (h : W64) : Nat := field h 0 22

def isSig (w x : SigWork) : Bool := w.rank == x.rank && w.region == x.region && w.index == x.index

/-- Updates the record of a signature. -/
def modSig (b : Block) (t n : Nat) (w : SigWork) (f : SigWork → SigWork) : Block :=
  modG b t n fun g => { g with sigs := g.sigs.map fun x => if isSig w x then f x else x }

/-- The digest of a signature or fragment: SHA-256 over its page digests (R203). -/
def listDigest (l : List (BitVec 256)) : BitVec 256 := sha256 (l.flatMap digestBytes)

/-- The 64 KiB pages of bytes, and their digests. -/
def pagesOf (l : List Byte) : List (List Byte) :=
  (upFrom 0 ((l.length + 65535) / 65536)).map fun i => (l.drop (i * 65536)).take 65536

def pageDigestsOf (l : List Byte) : List (BitVec 256) := (pagesOf l).map sha256

/-- The digests of a replica group's members, the owner's own among them. -/
def memberDigests (w : SigWork) (own : Nat) : List (Nat × BitVec 256) :=
  (match w.digest with | some d => [(own, d)] | none => []) ++ w.others

/-- The digest that a strict majority of the members gives, if any. -/
def majority (l : List (Nat × BitVec 256)) : Option (BitVec 256) :=
  (l.find? fun x => decide (l.length < 2 * (l.filter fun y => y.2 == x.2).length)).map Prod.snd

/-- R195: digests differ.  The members that differ from a strict majority are reported, or every member; GT_ERR.DIVERGENCE is
set and counted, each member's digest is recorded beside the handle, and the vote fails. -/
def diverge (b : Block) (t n : Nat) (w : SigWork) (d : RegionDesc) (handle : W64) : Block :=
  let all := memberDigests w (memberIdx w.rank d)
  let rankOf (i : Nat) : Nat := d.repFirst + i * d.repStride
  let placeOf (i : Nat) : Place := accelOf (nthD 0 (getTen b t).places (rankOf i))
  let b1 := raise { b with gt := { b.gt with divCount := b.gt.divCount + 1 } } .gt 4 { aboutTen b t with arg := handle.toNat }
  let b2 := each all (fun x b =>
    flyEvent b 0x0204 { aboutTen b t with context := x.1, arg := handle.toNat + x.2.toNat / 2 ^ 192 * 2 ^ 64 }) b1
  let b3 := match majority all with
    | some m => each (all.filter fun x => x.2 != m) (fun x b => fileReport b .divergence (placeOf x.1) true) b2
    | none =>
      each all (fun x b => fileReport b .divergence (placeOf x.1) false) (isoDiverged b2 t (all.map fun x => rankOf x.1))
  failVote (modG b3 t n fun g => { g with diverged := true }) t n false

/-- The owner compares once it holds its own digest and all the others (R194). -/
def compareSig (b : Block) (t n : Nat) (w0 : SigWork) : Block :=
  match (getG b t n).sigs.find? (isSig w0), sigRegion b t w0 with
  | some w, some d =>
    if w.matched || w.digest.isNone || decide (w.others.length + 1 < w.groupSize) then b
    else if w.others.all fun x => some x.2 == w.digest then modSig b t n w fun x => { x with matched := true }
    else diverge b t n w d (mkHandle t n (((sigIndex b t (getG b t n) w)).getD 0))
  | _, _ => b

/-- A digest of another member reaches the owner of a signature; a declaration that differs fails the vote (R194, R196). -/
def ownerDigest (b : Block) (t : Nat) (m : DigestMsg) : Block :=
  let n := handleGathering m.handle
  let g := getG b t n
  if !hasG b t n || g.rolledBack || g.released || handleTenant m.handle ≠ t then b
  else
    let shape (b : Block) : Block := failVote (raise b .gt 6 (aboutTen b t)) t n true
    match g.sigs.find? fun w => w.owned && sigIndex b t g w == some (handleIndex m.handle) with
    | none => shape b
    | some w =>
      match sigRegion b t w with
      | none => b
      | some d =>
        if d.region ≠ m.region || d.length ≠ m.length || d.groupSize ≠ m.groupSize then shape b
        else if tabHas w.others m.member then b
        else compareSig (modSig b t n w fun x => { x with others := tabPut x.others m.member m.digest }) t n w

/-- Sends the digest of a signature to its owner's GLT; an owner on this tray gets it directly (R194). -/
def sendDigest (b : Block) (t n : Nat) (w : SigWork) (d : RegionDesc) (digest : BitVec 256) : Block :=
  match sigIndex b t (getG b t n) w with
  | none => b
  | some idx =>
    let m : DigestMsg := { handle := mkHandle t n idx, region := d.region, member := memberIdx w.rank d, groupSize := d.groupSize,
                           length := d.length, digest := digest }
    let dest := trayOf (nthD 0 (getTen b t).places (ownerRank w.rank d w.index))
    if dest = ownPlace b then ownerDigest b t m
    else sendTransfer (takeStream b) .digest (Fin.ofNat 1024 t) dest b.spine.nextStream (digestPayload m)

/-- A slot is IDLE again once its gathering is digested and every signature it owns is matched (Table 7.6). -/
def slotHandOver (t n : Nat) (b : Block) : Block :=
  each (slotRanks b t) (fun x b =>
    let s := getSlot b x.1
    let done := (getG b t n).sigs.all fun w => w.rank != x.2 || !w.owned || w.matched
    if s.gphase = .digested && s.gathering = n && done then modSlot b x.1 fun s => { s with gphase := .idle } else b) b

end Sys2Proof.Machine
end

