-- ==== Sys2Proof/Machine/BindOps.lean ====
section
/-!
DEFINITION. Machine/BindOps.lean: binding memory and its extents (R203-R206), parity across trays (R207-R210), binding
transfers (R211), the colophon and its bytes (R214, R215), and freeing a binding (R216, R217).
-/

namespace Sys2Proof.Machine

/-! ## Extents (R204) -/

/-- Puts an extent in ascending order of its offset. -/
def putExtent (e : Extent) : List Extent → List Extent
  | [] => [e]
  | x :: r => if e.offset < x.offset then e :: x :: r else if e.offset = x.offset then e :: r else x :: putExtent e r

def setExtent (b : Block) (e : Extent) : Block := { b with bd := { b.bd with extents := putExtent e b.bd.extents } }
def dropExtents (b : Block) (hit : Extent → Bool) : Block :=
  { b with bd := { b.bd with extents := b.bd.extents.filter fun e => !hit e } }

/-- The lowest gap of a size between extents in ascending order, from a cursor, below a capacity. -/
def findGap (need cap : Nat) : Nat → List Extent → Option Nat
  | cur, [] => if cur + need ≤ cap then some cur else none
  | cur, e :: r => if cur + need ≤ e.offset then some cur else findGap need cap (Nat.max cur (e.offset + extentBytes e)) r

/-- Allocates an extent with its page-digest list at the lowest 64 KiB boundary that has room (DESIGN CHOICE: the manual
leaves the place open); none where it does not fit. -/
def allocExtent (b : Block) (e : Extent) : Option (Block × Extent) :=
  let e1 := { e with pageDigests := if e.kind = .data || e.kind = .parity then
                       e.pageDigests ++ List.replicate (e.length / 65536 - e.pageDigests.length) 0 else e.pageDigests }
  (findGap (extentBytes e1) (bdCapacity b) 0 b.bd.extents).map fun o =>
    let e2 := { e1 with offset := o }
    (setExtent b e2, e2)

/-- The data extent of a signature handle. -/
def sigExtent (b : Block) (t n : Nat) (h : W64) : Option Extent :=
  b.bd.extents.find? fun e => decide (e.kind = .data) && e.tenant == t && e.gathering == n && e.handle == h

/-! ## Out of space (R206) -/

/-- Extents that a gathering holds. -/
def ofGathering (t n : Nat) (e : Extent) : Bool := e.tenant == t && e.gathering == n && decide (e.kind ≠ .loadArea)

/-- Binding of a gathering stops: what was allocated for it is freed, and the vote fails. -/
def bindStop (b : Block) (t n : Nat) : Block :=
  let b1 := dropExtents (modG b t n fun g => { g with bindStopped := true }) (ofGathering t n)
  failVote (raise b1 .bd 1 (aboutTen b1 t)) t n true

/-! ## Parity placement (R208) -/

/-- The trays of this GLT's rack that serve the tenant, ascending. -/
def rackTrays (b : Block) (t : Nat) : List Nat :=
  let o := ownPlace b
  sortNat (foldOver (fun l p => if topRing [p, o] = 0 then withEntry l (placeTray p) else l) [] (participants (getTen b t)))

/-- M′ and kₑ of T trays. -/
def mPrime (m trays : Nat) : Nat := min m (trays - 1)
def kEff (k m trays : Nat) : Nat := min k (trays - mPrime m trays)

/-- Cuts a list into groups of `k`. -/
def cutBy (k : Nat) : Nat → List Nat → List (List Nat)
  | 0, _ => []
  | f + 1, l => if l.isEmpty then [] else l.take k :: cutBy k f (l.drop k)

/-- The data groups of a rack's trays. -/
def groupsOf (g : Gathering) (trays : List Nat) : List (List Nat) :=
  if trays.length ≤ 1 then [] else cutBy (Nat.max 1 (kEff g.k g.m trays.length)) trays.length trays

/-- The outside list of a group: the other trays, cyclically from the one after its last. -/
def outsideOf (trays grp : List Nat) : List Nat :=
  let last := (grp.getLast?).getD 0
  (trays.filter fun x => decide (last < x) && !grp.contains x) ++ (trays.filter fun x => decide (x ≤ last) && !grp.contains x)

/-- The tray that holds parity fragment `i` of row `q` of a group. -/
def holderOf (trays grp : List Nat) (mp q i : Nat) : Nat :=
  let out := outsideOf trays grp
  nthD 0 out ((q * mp + i) % Nat.max 1 out.length)

/-- The group of this tray. -/
def ownGroup (b : Block) (t : Nat) (g : Gathering) : List Nat :=
  ((groupsOf g (rackTrays b t)).find? fun l => l.contains b.ident.tray.toNat).getD []

/-- A tray of this GLT's rack. -/
def rackPlace (b : Block) (tray : Nat) : Place :=
  let o := ownPlace b
  mkPlace 2 (placeHall o) (placeBlock o) (placeRack o) tray 0 0

/-- Whether a signature is striped: unreplicated, or replicated under PROTECT_REPL (R207). -/
def stripable (g : Gathering) (w : SigWork) : Bool := w.owned && (decide (w.groupSize = 1) || g.protectRepl)

/-- Orders signatures by index. -/
def insertSig (x : Nat × SigWork) : List (Nat × SigWork) → List (Nat × SigWork)
  | [] => [x]
  | y :: r => if x.1 ≤ y.1 then x :: y :: r else y :: insertSig x r

def sortSigs : List (Nat × SigWork) → List (Nat × SigWork)
  | [] => []
  | x :: r => insertSig x (sortSigs r)

/-- The stripable signatures of this tray by ascending index: a signature's rank in the list is its row. -/
def stripeRows (b : Block) (t : Nat) (g : Gathering) : List (Nat × SigWork) :=
  sortSigs ((g.sigs.filter (stripable g)).filterMap fun w => (sigIndex b t g w).map fun i => (i, w))

/-! ## Transfers (R211) -/

/-- The frames of a binding transfer go out under its STREAM. -/
def putXfer (b : Block) (x : Xfer) : Block := sendTransfer b .bindWrite x.tenant x.dest x.stream (xferBytes x)

/-- Sends a binding transfer under a new STREAM and waits for its ACK. -/
def sendXfer (b : Block) (x : Xfer) : Block :=
  let x1 := { x with src := ownPlace b, stream := b.spine.nextStream }
  let o : XferOut := { x := x1, sent := 1, deadline := nowNs b + b.bd.xferTimeoutMs * 1000000 }
  let b1 := takeStream b
  putXfer { b1 with bd := { b1.bd with xfersOut := b.bd.xfersOut ++ [o] } } x1

/-- Answers a transfer or a read with a BIND_DATA. -/
def sendData (b : Block) (x : Xfer) : Block := sendTransfer b .bindData x.tenant x.dest x.stream (xferBytes x)

/-- Acknowledges a BIND_WRITE under its STREAM. -/
def ackXfer (b : Block) (x : Xfer) (st : XferStatus) : Block :=
  sendData b { kind := .ack, status := st, gathering := x.gathering, handle := x.handle, tenant := x.tenant, dest := x.src,
               stream := x.stream }

/-! ## Parity (R209, R210) -/

/-- The Cauchy coefficient c_ij of M′ parity fragments. -/
def cauchy (mp i j : Nat) : Byte := gfInv (BitVec.ofNat 8 i ^^^ BitVec.ofNat 8 (mp + j))

/-- Adds a multiple of bytes to an accumulator; the shorter counts as zeros. -/
def gfAdd (c : Byte) : List Byte → List Byte → List Byte
  | [], ys => ys.map (gfMul c)
  | xs, [] => xs
  | x :: xs, y :: ys => (x ^^^ gfMul c y) :: gfAdd c xs ys

/-- A GLT sends its stripable signature of a row to the holders of that row's parity (R210). -/
def sendParity (b : Block) (t n q : Nat) (w : SigWork) (idx : Nat) (bytes : List Byte) : Block :=
  let g := getG b t n
  let trays := rackTrays b t
  let grp := ownGroup b t g
  let mp := mPrime g.m trays.length
  let dests := (upFrom 0 (if grp.isEmpty then 0 else mp)).map (holderOf trays grp mp q)
  let b1 := each dests (fun d b =>
    sendXfer b { kind := .parityIn, member := grp.idxOf b.ident.tray.toNat, gathering := n, handle := mkHandle t n idx,
                 row := q, length := bytes.length, digest := w.digest.getD 0, bytes := bytes, tenant := Fin.ofNat 1024 t,
                 dest := rackPlace b d }) b
  modSig b1 t n w fun x => { x with parityDone := true }

/-- After its last PARITY_IN a GLT tells every tray of its outside list how many rows it holds (R210). -/
def sendCounts (b : Block) (t n : Nat) : Block :=
  let g := getG b t n
  let rows := stripeRows b t g
  if g.countsSent || g.bindStopped || !(rows.all fun x => x.2.parityDone) then b
  else
    let trays := rackTrays b t
    let grp := ownGroup b t g
    let b1 := modG b t n fun g => { g with countsSent := true }
    each (if grp.isEmpty then [] else outsideOf trays grp) (fun d b =>
      sendXfer b { kind := .parityIn, member := grp.idxOf b.ident.tray.toNat, gathering := n, row := rows.length,
                   tenant := Fin.ofNat 1024 t, dest := rackPlace b d }) b1

/-- A fragment is complete once every member of its group has contributed to the row or holds no such row (R210). -/
def fragDone (g : Gathering) (grp : List Nat) (e : Extent) : Bool :=
  (upFrom 0 grp.length).all fun j =>
    e.contributed.contains j ||
      g.rowCounts.any fun c => c.1 == e.group && c.2.1 == j && decide (c.2.2 ≤ e.row)

/-- Completes the fragments of a gathering that have all they need: their page digests are formed. -/
def closeFrags (b : Block) (t n : Nat) : Block :=
  let g := getG b t n
  let groups := groupsOf g (rackTrays b t)
  let close (e : Extent) : Extent :=
    if ofGathering t n e && decide (e.kind = .parity) && !e.complete &&
        fragDone g ((groups.find? fun l => l.head? == some e.group).getD []) e then
      { e with complete := true, pageDigests := pageDigestsOf (readBytes e.bytes 0 e.length) }
    else e
  { b with bd := { b.bd with extents := b.bd.extents.map close } }

/-- The parity fragments (group, row, i) that this tray holds, as far as the row counts are known. -/
def fragsHere (b : Block) (t : Nat) (g : Gathering) : List (Nat × Nat × Nat) :=
  let trays := rackTrays b t
  let mp := mPrime g.m trays.length
  (groupsOf g trays).flatMap fun grp =>
    let first := grp.headD 0
    let rows := listMax ((g.rowCounts.filter fun c => c.1 == first).map fun c => c.2.2)
    (upFrom 0 rows).flatMap fun q =>
      ((upFrom 0 mp).filter fun i => holderOf trays grp mp q i == b.ident.tray.toNat).map fun i => (first, q, i)

/-- Every group outside which this tray stands has told its row counts, and every fragment is complete (R214). -/
def parityReady (b : Block) (t n : Nat) : Bool :=
  let g := getG b t n
  let trays := rackTrays b t
  let mine := (groupsOf g trays).filter fun grp => !grp.contains b.ident.tray.toNat
  (mine.all fun grp => (upFrom 0 grp.length).all fun j => g.rowCounts.any fun c => c.1 == grp.headD 0 && c.2.1 == j) &&
    (fragsHere b t g).all fun f =>
      b.bd.extents.any fun e => ofGathering t n e && decide (e.kind = .parity) && e.complete && e.group == f.1 &&
        e.row == f.2.1 && e.member == f.2.2

/-- The fragment index that this tray holds of a row of a group. -/
def fragIndex (b : Block) (trays grp : List Nat) (mp q : Nat) : Option Nat :=
  (upFrom 0 mp).find? fun i => holderOf trays grp mp q i == b.ident.tray.toNat

/-- A contribution is added to its fragment; the fragment grows to its longest member (R209). -/
def addParity (b : Block) (t n : Nat) (grp : List Nat) (mp i : Nat) (x : Xfer) : Option Block :=
  let here (e : Extent) : Bool :=
    ofGathering t n e && decide (e.kind = .parity) && e.group == grp.headD 0 && e.row == x.row && e.member == i
  let add (e : Extent) : Extent :=
    { e with bytes := gfAdd (cauchy mp i x.member) e.bytes (readBytes x.bytes 0 x.length),
             contributed := withEntry e.contributed x.member }
  let b1 := count b (bindCounter 1) x.length
  match b.bd.extents.find? here with
  | some e =>
    if e.contributed.contains x.member then some b
    else if x.length ≤ e.length then some (setExtent b1 (add e))
    else
      (allocExtent (dropExtents b1 here) { e with length := x.length }).map fun r => setExtent r.1 (add r.2)
  | none =>
    (allocExtent b1 { kind := .parity, tenant := t, gathering := n, row := x.row, group := grp.headD 0, member := i,
                      length := x.length }).map fun r => setExtent r.1 (add r.2)

/-- PARITY_IN at a holder (R210): a row count, or a contribution, which is accumulated once. -/
def takeParity (b : Block) (x : Xfer) (senderTray : Nat) : Block :=
  let t := x.tenant.val
  let n := x.gathering
  let g := getG b t n
  let trays := rackTrays b t
  let grp := ((groupsOf g trays).find? fun l => l.contains senderTray).getD []
  let mp := mPrime g.m trays.length
  if !hasG b t n || g.rolledBack || g.bindStopped then b
  else if x.length = 0 then
    closeFrags (modG b t n fun g =>
      { g with rowCounts := (g.rowCounts.filter fun c => !(c.1 == grp.headD 0 && c.2.1 == x.member)) ++
                              [(grp.headD 0, x.member, x.row)] }) t n
  else
    match fragIndex b trays grp mp x.row with
    | none => b
    | some i =>
      match addParity b t n grp mp i x with
      | none => bindStop b t n
      | some b1 => closeFrags b1 t n

/-! ## The colophon (R214, R215) -/

/-- COLOPHON_TAG: the first 8 bytes of the SHA-256 digest of the signed colophon (R141). -/
def colophonTag (c : Colophon) : W64 := BitVec.ofNat 64 (leNat ((digestBytes (sha256 (colophonBytes c))).take 8))

/-- A region's entry (Table 8.6); a group of one is recorded with REP_FIRST and REP_STRIDE 0 (R181). -/
def regionEntryOf (g : Gathering) (rank : Nat) (d : RegionDesc) : RegionEntry :=
  { rank := rank, region := d.region, cls := d.cls, deepOnly := d.deepOnly, groupSize := d.groupSize,
    repFirst := if d.groupSize = 1 then 0 else d.repFirst, repStride := if d.groupSize = 1 then 0 else d.repStride,
    length := d.length, firstIndex := (firstIndex g.map rank d).getD 0 }

/-- This GLT's region entries of a gathering. -/
def ownRegions (b : Block) (t n : Nat) : List RegionEntry :=
  let g := getG b t n
  (slotRanks b t).flatMap fun x => ((getSlot b x.1).regions.filter (tracks g.deep)).map (regionEntryOf g x.2)

/-- This GLT's data entries of a gathering; UNPROTECTED where the rack holds one tray of the tenant (R208). -/
def ownData (b : Block) (t n : Nat) : List DataEntry :=
  let g := getG b t n
  let trays := rackTrays b t
  let rows := stripeRows b t g
  let grp := ownGroup b t g
  (g.sigs.filter fun w => w.owned).filterMap fun w =>
    match sigIndex b t g w, sigExtent b t n (mkHandle t n ((sigIndex b t g w).getD 0)) with
    | some i, some e =>
      let q := rows.findIdx? fun x => isSig x.2 w
      let striped := stripable g w && decide (2 ≤ trays.length)
      some { index := i, replicated := decide (w.groupSize ≠ 1), unprotected := stripable g w && !striped,
             region := Fin.ofNat 256 w.region, member := if striped then grp.idxOf b.ident.tray.toNat else 0,
             stripe := if striped then q else none, rank := w.rank, place := ownPlace b, offset := e.offset,
             length := e.length, digest := w.digest.getD 0 }
    | _, _ => none

/-- This GLT's parity entries as ENTRIES carry them: STRIPE the row, RANK the first tray of the group (R214). -/
def ownParity (b : Block) (t n : Nat) : List DataEntry :=
  (b.bd.extents.filter fun e => ofGathering t n e && decide (e.kind = .parity)).map fun e =>
    { parity := true, member := e.member, stripe := some e.row, rank := e.group, place := ownPlace b, offset := e.offset,
      length := e.length, digest := listDigest e.pageDigests }

/-! ### Assembly at the lead -/

def insertBy {α : Type} (le : α → α → Bool) (x : α) : List α → List α
  | [] => [x]
  | y :: r => if le x y then x :: y :: r else y :: insertBy le x r

def sortBy {α : Type} (le : α → α → Bool) : List α → List α
  | [] => []
  | x :: r => insertBy le x (sortBy le r)

/-- All entries that have come in, of every participant. -/
def allRegions (g : Gathering) : List RegionEntry := g.entries.flatMap fun e => e.2.1
def allData (g : Gathering) : List DataEntry := g.entries.flatMap fun e => e.2.2.filter fun d => !d.parity
def allParity (g : Gathering) : List DataEntry := g.entries.flatMap fun e => e.2.2.filter fun d => d.parity

/-- Whether a list holds an index twice. -/
def clashes : List DataEntry → Bool
  | [] => false
  | x :: r => (r.any fun y => y.index == x.index) || clashes r

/-- A region has a data entry (R214 step 3). -/
def regionBound (l : List DataEntry) (shift : Nat) (e : RegionEntry) : Bool :=
  l.any fun d => decide (e.firstIndex ≤ d.index) && decide (d.index < e.firstIndex + (e.length + 2 ^ shift - 1) / 2 ^ shift)

/-- Region entries agree across a replica group. -/
def sameShape (x y : RegionEntry) : Bool :=
  x.groupSize == y.groupSize && x.repFirst == y.repFirst && x.repStride == y.repStride && x.length == y.length &&
    x.cls == y.cls && x.deepOnly == y.deepOnly && x.firstIndex == y.firstIndex

/-- Every rank that a replicated entry names as a member has an entry of the same region and shape (R214 step 3). -/
def groupsAgree (l : List RegionEntry) : Bool :=
  l.all fun x => decide (x.groupSize = 1) || (upFrom 0 x.groupSize).all fun i =>
    l.any fun y => y.rank == x.repFirst + i * x.repStride && y.region == x.region && sameShape x y

/-- The trays of a place's rack that serve the tenant. -/
def rackOf (b : Block) (t : Nat) (p : Place) : List Nat :=
  sortNat (foldOver (fun l q => if topRing [p, q] = 0 then withEntry l (placeTray q) else l) [] (participants (getTen b t)))

/-- The group that a tray belongs to, and the place of the group's first tray. -/
def groupAt (b : Block) (t : Nat) (g : Gathering) (p : Place) : List Nat :=
  ((groupsOf g (rackOf b t p)).find? fun l => l.contains (placeTray p)).getD []
def firstTray (p : Place) (tray : Nat) : Place := mkPlace 2 (placeHall p) (placeBlock p) (placeRack p) tray 0 0

/-- A stripe before it is numbered: the place of the group's first tray, and the row. -/
def stripeKey (b : Block) (t : Nat) (g : Gathering) (d : DataEntry) : Option (Nat × Nat) :=
  d.stripe.map fun q =>
    ((firstTray d.place (if d.parity then d.rank else (groupAt b t g d.place).headD 0)).toNat, q)

def keyLe (x y : Nat × Nat) : Bool := decide (x.1 < y.1) || (x.1 == y.1 && decide (x.2 ≤ y.2))

/-- The stripes of the tenant, in order: their position is their number. -/
def stripeKeys (b : Block) (t : Nat) (g : Gathering) (l : List DataEntry) : List (Nat × Nat) :=
  sortBy keyLe (foldOver (fun ks d => match stripeKey b t g d with | some k => withEntry ks k | none => ks) [] l)

/-- Numbers the stripe of an entry. -/
def numbered (b : Block) (t : Nat) (g : Gathering) (ks : List (Nat × Nat)) (d : DataEntry) : DataEntry :=
  { d with stripe := (stripeKey b t g d).bind fun k => ks.findIdx? fun x => x == k, rank := if d.parity then 0 else d.rank }

/-- The stripe table. -/
def stripeTable (b : Block) (t : Nat) (g : Gathering) (ks : List (Nat × Nat)) (data : List DataEntry) : List StripeEntry :=
  (upFrom 0 ks.length).map fun i =>
    let p : Place := BitVec.ofNat 40 (nthD (0, 0) ks i).1
    let grp := groupAt b t g p
    { stripe := i, g := grp.length, mPrime := mPrime g.m (rackOf b t p).length,
      members := (upFrom 0 grp.length).map fun j =>
        (data.find? fun d => d.stripe == some i && d.member == j).map fun d => d.index }

/-- The colophon of a gathering from its entries, unsigned (R214 step 4). -/
def assemble (b : Block) (t n : Nat) : Colophon :=
  let r := getTen b t
  let g := getG b t n
  let ks := stripeKeys b t g (allData g)
  let data := sortBy (fun x y => decide (x.index ≤ y.index)) ((allData g).map (numbered b t g ks))
  let parity := sortBy (fun x y => keyLe ((x.stripe.getD 0), x.member) ((y.stripe.getD 0), y.member))
    ((allParity g).map (numbered b t g ks))
  { tenant := Fin.ofNat 1024 t, sigShift := g.sigShift, k := g.k, m := g.m, deep := g.deep, protectRepl := g.protectRepl,
    someUnprotected := data.any fun d => d.unprotected, gathering := n, step := g.step, startTime := g.startTime,
    ranks := r.ranks, sealTime := nowNs b, lead := ownPlace b, leadSerial := b.ident.serial,
    regions := sortBy (fun x y => keyLe (x.rank, x.region.val) (y.rank, y.region.val)) (allRegions g),
    data := data, stripes := stripeTable b t g ks data, parity := parity }

/-- Signs a colophon with the device key: 96 bytes (R215). -/
def signColophon (c : Colophon) : Colophon := { c with sig := readBytes (Config.deviceSign (colophonBody c)) 0 96 }

/-! ## Freeing a binding (R103, R216, R217) -/

/-- Frees a binding: its extents, its colophon copy and the verdicts of its interval. -/
def freeBinding (b : Block) (t n : Nat) : Block :=
  let b1 := dropExtents b (ofGathering t n)
  let b2 := { b1 with ver := { b1.ver with tiles := b1.ver.tiles.filter fun x =>
    !(decide (x.hdr.tenant.val = t) && decide (x.hdr.gathering = n) && x.running.isEmpty) } }
  modG b2 t n fun g => { g with released := true, entries := [], colophon := none, sigs := [] }

end Sys2Proof.Machine
end

