-- ==== Sys2Proof/Machine/CollatorOps.lean ====
section
/-!
DEFINITION. Machine/CollatorOps.lean: what happens to cores, instances and tiles from outside a program: trims, restarts,
withdrawals, core and program faults (R76-R85), and the life of a verdict (R97-R102).
-/

namespace Sys2Proof.Machine

/-! ## Cores in service -/

/-- The GLT domain of a core's cluster (Table 10.6). -/
def clusterDom (c : Nat) : Nat := 2 + clusterOf c

def tabBit (t : Tab W32) (c : Nat) : Bool := (tabGet 0 t (c / 32)).getLsbD (c % 32)

/-- COL_TRIMMED: trimmed by software once its write has acted, automatically, or with its withdrawn cluster (R83, R82,
R271). -/
def coreTrimmed (b : Block) (c : Nat) : Bool :=
  (tabBit b.col.trim c && !(getCore b c).trimAtTdone) || tabBit b.col.autoTrim c ||
    (getDom b (clusterDom c)).withdrawn

def untrimmed (b : Block) : List Nat := (upFrom 0 512).filter fun c => !coreTrimmed b c

/-- A core that a tile may go to: in service, its cluster clocked and out of reset, no specimen on it. -/
def coreServes (b : Block) (c : Nat) : Bool :=
  !coreTrimmed b c && !(getCore b c).specimen && !(getDom b (clusterDom c)).inReset && !(getPll b 0).stopped &&
    decide (clusterOf c + b.col.withheld < 16)

/-- The cores of the instance that a core belongs to (R77): the rectangle from its north-west core. -/
def rectCores (origin h w : Nat) : List Nat := (upFrom 0 h).flatMap fun r => (upFrom 0 w).map fun x => origin + 32 * r + x

def instCores (b : Block) (c : Nat) : List Nat :=
  let k := getCore b c
  if k.progSlot < 8 then [c] else rectCores k.origin k.instH k.instW

/-! ## Restarts -/

/-- The SRAM that a program image leaves: its sections, and zero elsewhere (R77). -/
def imageSram (p : ProgImage) : Memory :=
  foldOver (fun m s =>
    if s.zeroFill then m else memPutBytes m s.load ((p.bytes.drop s.off).take s.len)) [] p.sections

/-- A core after its image has been reloaded: at ENTRY with the image's SRAM; its place in an instance, margin ring, fault
history and cycle count stay. -/
def freshCore (b : Block) (c : Nat) : Core :=
  let k := getCore b c
  let img := (getPslot b k.progSlot).image
  let user := decide (k.progSlot ≥ 8)
  { pc := if user then BitVec.ofNat 32 img.entry else 0, sram := if user then imageSram img else [], cycle := k.cycle,
    tileSeq := k.tileSeq, progSlot := k.progSlot, inst := k.inst, row := k.row, col := k.col, instH := k.instH,
    instW := k.instW, origin := k.origin, readyDone := k.readyDone, trimAtTdone := k.trimAtTdone, trimAskedAt := k.trimAskedAt,
    specimen := k.specimen, coreFaults := k.coreFaults, corrEcc := k.corrEcc, margin := k.margin }

/-- Drops the messages of the mesh that are bound for a core, and counts them. -/
def dropMesh (b : Block) (hit : Nat → Bool) : Block :=
  let gone := b.col.mesh.filter fun m => hit m.dst
  { b with col := { b.col with mesh := b.col.mesh.filter fun m => !hit m.dst, meshDrops := b.col.meshDrops + gone.length } }

/-- The instance of a core restarts from ENTRY with its image reloaded (R76, R81, Table 10.1). -/
def restartInst (b : Block) (c : Nat) : Block :=
  each (instCores b c) (fun i b => setCore b i (freshCore b i)) b

/-- A core back with the default programs: fresh, in no user instance. -/
def defaultCore (c : Nat) (k : Core) : Core :=
  { row := c / 32, col := c % 32, cycle := k.cycle, coreFaults := k.coreFaults, corrEcc := k.corrEcc, margin := k.margin,
    trimAtTdone := k.trimAtTdone, trimAskedAt := k.trimAskedAt, specimen := k.specimen }

/-- Zeroes a core (R56, R82). -/
def zeroCore (b : Block) (c : Nat) : Block := setCore b c (defaultCore c (getCore b c))

/-! ## Tiles -/

def findTile (l : List Tile) (id : Nat) : Option Tile := l.find? fun t => t.id == id

def modTile (b : Block) (id : Nat) (f : Tile → Tile) : Block :=
  { b with ver := { b.ver with tiles := b.ver.tiles.map fun t => if t.id = id then f t else t } }

/-- Cause and sub-cause codes of Table 4.5. -/
def causeCode : Cause → Nat × Nat
  | .none => (0, 0)
  | .streamBroken => (1, 1) | .descriptor => (1, 2) | .eventOverflow => (1, 3) | .program => (1, 4)
  | .coreError => (1, 5) | .fetch => (1, 6) | .holdCut => (1, 7)
  | .sealA => (2, 1) | .sealB => (2, 2) | .sealOut => (2, 3) | .sealC => (2, 4)
  | .clockCpll => (3, 1) | .clockAccel => (3, 2)
  | .resetCluster => (4, 1) | .resetTether => (4, 2) | .resetAccel => (4, 3) | .resetDdr => (4, 4)
  | .queueFull => (5, 1) | .deadline => (5, 2) | .tileBudget => (5, 3) | .noCores => (5, 4)
  | .rolledBack => (6, 0)

/-- Whether a record that was voided for a cause can still be judged (Table 4.5). -/
def causeIntact : Cause → Bool
  | .eventOverflow | .program | .coreError | .holdCut | .clockCpll | .resetCluster => true
  | .none | .streamBroken | .descriptor | .fetch | .sealA | .sealB | .sealOut | .sealC | .clockAccel | .resetTether
  | .resetAccel | .resetDdr | .queueFull | .deadline | .tileBudget | .noCores | .rolledBack => false

def isSeal : Cause → Bool
  | .sealA | .sealB | .sealOut | .sealC => true
  | .none | .streamBroken | .descriptor | .eventOverflow | .program | .coreError | .fetch | .holdCut | .clockCpll
  | .clockAccel | .resetCluster | .resetTether | .resetAccel | .resetDdr | .queueFull | .deadline | .tileBudget
  | .noCores | .rolledBack => false

/-- Causes that WAIVE_LOSS waives once they are UNRESOLVED (Table 4.5). -/
def causeWaivable (c : Cause) : Bool := !isSeal c && decide (c ≠ .descriptor)

/-- Bytes of the tile queue in use: the records not yet freed (R96, Table 4.3). -/
def queueBytes (b : Block) : Nat := listSum ((b.ver.tiles.filter fun t => !t.freed).map fun t => t.hdr.recLen)

/-- Whether a tile has a verdict that a vote may count (R101). -/
def tileFinal (t : Tile) : Bool := decide (t.phase = .final)

/-! ### Ends -/

/-- The slot counter of a final verdict (Table 14.2). -/
def verdictCounter : Verdict → Nat
  | .pass => 3 | .passBounded => 4 | .fail => 5 | .void => 6 | .skipped => 7

/-- The tile becomes FINAL: its record is freed, its time is now and the slot's verdict counter counts it. -/
def finish (b : Block) (id : Nat) (f : Tile → Tile) : Block :=
  let b1 := modTile b id fun t =>
    { f t with phase := .final, freed := true, time := nowNs b, running := [], priority := false }
  match findTile b1.ver.tiles id with
  | none => b1
  | some t => count b1 (slotCounter t.hdr.slot.val (verdictCounter (t.verdict.getD .void))) 1

/-- A SKIPPED tile (Table 4.3); one for BUDGET sets COL_VERR.SKIP. -/
def skipTile (b : Block) (id : Nat) (c : Cause) : Block :=
  let b1 := finish b id fun t => { t with verdict := some .skipped, cause := c }
  match findTile b1.ver.tiles id with
  | none => b1
  | some t => if c = .rolledBack then b1 else raise b1 .colv 4 (aboutTen b1 t.hdr.tenant.val)

def verdictCode : Verdict → Nat
  | .pass => 0 | .passBounded => 1 | .fail => 2 | .void => 3 | .skipped => 4

def phaseCode : TilePhase → Nat
  | .queued => 0 | .dispatched => 1 | .confirming => 2 | .final => 3 | .unresolved => 4

/-- A verdict record (Table 4.6). -/
def verdictRecord (x : Tile) : List Byte :=
  let c := causeCode x.cause
  let user := decide (8 ≤ x.note.progSlot) && decide (x.note.progSlot < 64)
  let flags := bit x.hdr.strict + 2 * bit x.note.within + 4 * bit x.replacement + 8 * bit x.waived + 16 * bit x.confirmed +
    32 * bit x.hdr.raised + 64 * bit user + 128 * bit (decide (x.phase = .unresolved))
  leBytes 1 (x.verdict.elim 0xFF verdictCode) ++ leBytes 1 c.1 ++ leBytes 1 c.2 ++ leBytes 1 flags ++
    leBytes 4 x.hdr.step.toNat ++ leBytes 4 x.hdr.tap.runSeq.toNat ++
    leBytes 2 (x.hdr.tap.unit.toNat + 4096 * x.hdr.slot.val) ++ leBytes 1 x.note.progSlot ++
    leBytes 1 (x.attempts + 16 * phaseCode x.phase) ++ leBytes 4 (x.note.firstBad.getD 0xFFFFFFFF) ++ leBytes 4 x.note.notMatch ++
    leBytes 6 (stamp48 x.time).toNat ++ leBytes 2 (x.hdr.tapSeq.toNat % 65536)

/-- A FAIL becomes final: it is counted, the vote fails, and the unit is reported (R102); a confirmed one ends an
isolation of its rank (R293).  One that steps 3 and 4 of R98 leave final, or that nothing could confirm, shows the collation
that gave it (R108), and CONFIRMED stays clear in its record (for steps 3 and 4 a DESIGN CHOICE, log entry 153). -/
def finalFail (b : Block) (id : Nat) (confirmed : Bool) : Block :=
  let b1 := finish b id fun t =>
    { t with verdict := some .fail, cause := .none, confirmed := confirmed, note := if confirmed then t.note else t.failNote }
  match findTile b1.ver.tiles id with
  | none => b1
  | some t =>
    let tn := t.hdr.tenant.val
    let n := t.hdr.slot.val
    let u := t.hdr.tap.unit.toNat
    let about : About := { aboutSlot b n with place := unitPlace b n u, tenant := some tn, context := t.hdr.tap.runSeq.toNat }
    let b2 := modTen b1 tn fun r =>
      { r with fails := if r.fails < 0xFFFFFFFF then r.fails + 1 else r.fails, lastFail := verdictRecord t }
    let b3 := raise b2 .colv 1 about
    let b4 := failVote b3 tn t.hdr.gathering false
    let b5 := match slotRank? b4 (getTen b4 tn) n with
      | some k => if confirmed then isoFail b4 tn k else b4
      | none => b4
    fileUnit b5 .tileFail n u t.hdr.tap.runSeq.toNat

/-- A PASS or PASS_BOUNDED becomes final. -/
def finalPass (b : Block) (id : Nat) (v : Verdict) (confirmed : Bool) : Block :=
  finish b id fun t => { t with verdict := some v, cause := .none, confirmed := confirmed,
                                replacement := t.replacement || t.purpose == Purpose.recollate }

/-- Whether the verdict deadline of the tile's interval has passed here. -/
def deadlineGone (b : Block) (t : Tile) : Bool := (getG b t.hdr.tenant.val t.hdr.gathering).deadlinePassed

/-- A waived VOID becomes FINAL (R100). -/
def waive (b : Block) (id : Nat) : Block := finish b id fun t => { t with waived := true }

/-- What an UNRESOLVED VOID meets at the deadline, or at once when the deadline has passed (R100). -/
def settle (b : Block) (id : Nat) : Block :=
  match findTile b.ver.tiles id with
  | none => b
  | some t =>
    if t.phase ≠ .unresolved then b
    else if t.cause = .descriptor then failVote b t.hdr.tenant.val t.hdr.gathering true
    else if (getTen b t.hdr.tenant.val).waiveLoss && causeWaivable t.cause then waive b id
    else b

/-- A VOID that R99 cannot resolve; a SEAL VOID is evidence against the slot (R100). -/
def unresolve (b : Block) (id : Nat) (c : Cause) : Block :=
  let b1 := modTile b id fun t =>
    { t with phase := .unresolved, verdict := some .void, cause := c, running := [], priority := false, freed := true,
             time := nowNs b }
  match findTile b1.ver.tiles id with
  | none => b1
  | some t =>
    let b2 := if isSeal c then fileSlot b1 .seal t.hdr.slot.val else b1
    if deadlineGone b2 t then settle b2 id else b2

/-- Sends a tile back to the queue for another collation. -/
def requeue (b : Block) (id : Nat) (p : Purpose) (ph : TilePhase) (f : Tile → Tile) : Block :=
  modTile b id fun t => { f t with purpose := p, phase := ph, running := [], priority := true }

/-- A VOID from a collation, or of a record (R99): re-collated at most twice while its record is intact. -/
def voidTile (b : Block) (id : Nat) (c : Cause) : Block :=
  match findTile b.ver.tiles id with
  | none => b
  | some t =>
    if causeIntact c && t.intact && t.recolls < 2 then
      requeue b id .recollate .queued fun t => { t with verdict := some .void, cause := c, recolls := t.recolls + 1 }
    else unresolve b id c

/-! ### Core and program faults -/

/-- Times within the last 600 s. -/
def recent600 (b : Block) (l : List Ns) : List Ns := l.filter fun t => decide (nowNs b < t + 600 * nsPerSec)

def setAutoTrim (b : Block) (c : Nat) (on : Bool) : Block :=
  let v := tabPut b.col.autoTrim (c / 32) (putBit (tabGet 0 b.col.autoTrim (c / 32)) (c % 32) on)
  { b with col := { b.col with autoTrim := v } }

/-- The tenant is charged the core-cycles that its tile took on an instance (R95). -/
def chargeTile (b : Block) (c : Nat) : Block :=
  match (getCore b c).tile.bind (findTile b.ver.tiles) with
  | none => b
  | some t =>
    let used := listSum ((instCores b c).map fun i =>
      let k := getCore b i
      if k.tile = some t.id then k.cycle.toNat - k.tileStart.toNat else 0)
    modTen b t.hdr.tenant.val fun r => { r with served := r.served + used }

/-- The tenant of the tile on a core, for its margin ring; 0 where it has none. -/
def coreTenant (b : Block) (c : Nat) : Nat :=
  match (getCore b c).tile.bind (findTile b.ver.tiles) with
  | some t => t.hdr.tenant.val
  | none => (getPslot b (getCore b c).progSlot).tenant

/-- Takes the tile off an instance that a core belongs to: every core of it has the tile withdrawn and restarts (R76, R82). -/
def stopTile (b : Block) (c : Nat) : Block :=
  let tenant := coreTenant b c
  restartInst (each (instCores b c) (fun i b => coreMargin b i 0x0B 0 (getCore b i).tileSeq.toNat tenant) (chargeTile b c)) c

/-- A withdrawn tile takes no verdict and is dispatched once more (R83). -/
def withdrawTile (b : Block) (c : Nat) : Block :=
  match (getCore b c).tile with
  | none => b
  | some id => modTile (stopTile b c) id fun t =>
      { t with phase := if t.purpose = .first || t.purpose = .recollate then .queued else .confirming, running := [],
               priority := true }

/-- The cores of a user instance return to the default programs, and its slot gives the instance up (R84). -/
def releaseInst (b : Block) (c : Nat) : Block :=
  let k := getCore b c
  if k.progSlot < 8 then b
  else
    let b1 := each (instCores b c) (fun i b => zeroCounters (zeroCore b i) (coreCounter i 0) 4) b
    modPslot b1 k.progSlot fun s =>
      { s with origins := s.origins.filter fun o => o != k.origin, lost := if s.state = .active then s.lost + 1 else s.lost }

/-- Whether a rectangle holds no core of a user instance, none that is trimmed or about to be, and none whose specimen has
not passed (R77, R82, R85). -/
def rectFree (b : Block) (origin h w : Nat) : Bool :=
  (rectCores origin h w).all fun c =>
    !coreTrimmed b c && !(getCore b c).trimAtTdone && !(getCore b c).specimen && decide ((getCore b c).progSlot < 8)

/-- The aligned rectangles of a shape, in ascending order of their north-west core (R77). -/
def rects (h w : Nat) : List Nat :=
  (upFrom 0 (16 / Nat.max 1 h)).flatMap fun r => (upFrom 0 (32 / Nat.max 1 w)).map fun x => 32 * (r * h) + x * w

/-- Places one instance of a slot's image: its cores take their positions and start at ENTRY (R77), and their counters
zero (R374).  A tile that a default program runs there is withdrawn and dispatched once more (DESIGN CHOICE). -/
def placeInst (b : Block) (s origin : Nat) : Block :=
  let sl := getPslot b s
  let h := sl.image.shapeH
  let w := sl.image.shapeW
  let no := sl.origins.length
  let b0 := each (rectCores origin h w) (fun c b => withdrawTile b c) b
  let b1 := setPslot b0 s { sl with origins := sl.origins ++ [origin] }
  each (rectCores origin h w) (fun c b =>
    let k := defaultCore c (getCore b c)
    let b1 := zeroCounters (coreMargin b c 0x0C 0 0 sl.tenant) (coreCounter c 0) 4
    setCore b1 c { k with progSlot := s, inst := no, instH := h, instW := w, origin := origin,
                          row := c / 32 - origin / 32, col := c % 32 - origin % 32, margin := (getCore b1 c).margin,
                          pc := BitVec.ofNat 32 sl.image.entry, sram := imageSram sl.image }) b1

/-- A replacement instance for a slot that lost one, where a free rectangle allows (R84).  It takes tiles at once, before its
cores have executed READY (DESIGN CHOICE, log entry 153: R77 asks for READY of the load only). -/
def replaceInst (b : Block) (s : Nat) : Block :=
  let sl := getPslot b s
  if s < 8 || sl.state ≠ .active || sl.lost = 0 then b
  else
    match (rects sl.image.shapeH sl.image.shapeW).find? fun o => rectFree b o sl.image.shapeH sl.image.shapeW with
    | some o => placeInst (modPslot b s fun x => { x with lost := x.lost - 1 }) s o
    | none => b

/-- Cores have become free: the user slots that still lack instances place what they can, the lowest slot first (R84). -/
def replaceLost (b : Block) : Block :=
  each (upFrom 8 56) (fun s b => each (upFrom 0 (getPslot b s).lost) (fun _ b => replaceInst b s) b) b

/-- A core goes out of service: its user instance is released and replaced, and the core is zeroed (R83, R84). -/
def trimCore (b : Block) (c : Nat) : Block :=
  let s := (getCore b c).progSlot
  let b1 := releaseInst b c
  let b2 := setCore b1 c { defaultCore c (getCore b1 c) with trimAtTdone := false }
  replaceInst (coreMargin b2 c 0x0C 0 0 0) s

/-- Cores whose trim waits for the end of their tile are trimmed (R83). -/
def lateTrims (l : List Nat) (b : Block) : Block :=
  each l (fun c b => if (getCore b c).trimAtTdone then trimCore b c else b) b

/-- The tile of an instance is withdrawn, and the trims that waited for its end act (R83). -/
def withdrawForTrim (b : Block) (c : Nat) : Block := lateTrims (instCores b c) (withdrawTile b c)

/-- The record that the next core specimen is to give: of the bundle's core specimens in turn (DESIGN CHOICE, log entry 170: the manual
does not say which of them runs), or of the one that the cluster's microcode has built in (R365). -/
def specRecord (b : Block) (c : Nat) : List Byte :=
  let builtin := Config.builtinSpecimen (tabGet {} b.col.microcode (clusterOf c)).raw
  match b.fw.specStore with
  | none => builtin
  | some i =>
    let l := i.specs.filter fun e => !e.accel
    if l.isEmpty then builtin else i.expected (nthD {} l (b.fw.specRuns % l.length))

/-- A specimen runs on a core. -/
def runSpecimen (b : Block) (c : Nat) : Block := modCore b c fun k => { k with specimen := true, specWant := specRecord b c }

/-- The core is zeroed and runs a specimen (R82, R85).  A user instance that it belonged to is released and replaced as one
with a trimmed core is (DESIGN CHOICE, log entry 153: R84 speaks of trims only). -/
def startSpecimen (b : Block) (c : Nat) : Block :=
  let s := (getCore b c).progSlot
  let b1 := releaseInst b c
  replaceInst (runSpecimen (setCore b1 c (defaultCore c (getCore b1 c))) c) s

/-- The GLT trims a core by itself (R82). -/
def autoTrimCore (b : Block) (c : Nat) : Block :=
  let b1 := trimCore (setAutoTrim b c true) c
  raise (modCore b1 c fun k => { k with specimen := false }) .col 4 (aboutCore b c)

/-- Whether a core may run the specimen of R366: untrimmed, with no tile dispatched to it. -/
def specReady (b : Block) (c : Nat) : Bool :=
  let k := getCore b c
  !coreTrimmed b c && k.tile.isNone && !k.specimen && !(getDom b (clusterDom c)).inReset

/-- The next core of the period's rotation starts its specimen; cores that may not run one are passed over (R366). -/
def specFrom (b : Block) : List Nat → Block
  | [] => { b with fw := { b.fw with specTurn := [] } }
  | c :: l =>
    if specReady b c then runSpecimen { b with fw := { b.fw with specTurn := l } } c
    else specFrom b l
def nextSpecimen (b : Block) : Block := specFrom b b.fw.specTurn

/-- The outcome of one collation that ended at core `c` with a verdict (R97-R99).  `none` stands for a VOID with its
cause. -/
inductive Ended where
  | judged (v : Verdict)
  | void (c : Cause)
  deriving DecidableEq, Repr

/-- Where a core is left to run a confirmation, or none at all (R98). -/
def canConfirm (b : Block) (t : Tile) : Bool := t.intact && !(untrimmed b).isEmpty

/-- The two collations of a FAIL disagree, or agree (R98).  The core that gave an odd verdict is returned. -/
def collated (b : Block) (id c : Nat) (e : Ended) : Block × Option Nat :=
  match findTile b.ver.tiles id with
  | none => (b, none)
  | some t0 =>
    let slot := (getCore b c).progSlot
    let b0 := modTile b id fun t => { t with attempts := t.attempts + 1, note := { t.note with progSlot := slot }, running := [] }
    match t0.purpose, e with
    | .first, .void x | .recollate, .void x => (voidTile b0 id x, none)
    | .first, .judged v | .recollate, .judged v =>
      match v with
      | .fail =>
        let b1 := modTile b0 id fun t => { t with replacement := t.replacement || t.purpose == Purpose.recollate,
                                                  failNote := t.note, firstCore := c, firstSlot := slot, verdict := some .fail, cause := .none }
        if canConfirm b1 t0 then (requeue b1 id .confirm .confirming fun t => t, none)
        else (finalFail b1 id false, none)
      | .pass | .passBounded | .void | .skipped => (finalPass b0 id v false, none)
    | .confirm, .void x =>
      if causeIntact x && canConfirm b0 t0 then (requeue b0 id .confirmAgain .confirming fun t => t, none)
      else (finalFail b0 id false, none)
    | .confirmAgain, .void _ => (finalFail b0 id false, none)
    | .confirm, .judged v | .confirmAgain, .judged v =>
      if v = .fail then (finalFail b0 id true, none)
      else if canConfirm b0 t0 then
        (requeue b0 id .third .confirming fun t => { t with secondVerdict := some v, secondCore := c }, none)
      else (finalFail b0 id false, none)
    | .third, .void _ => (finalFail b0 id false, none)
    | .third, .judged v =>
      if v = .fail then (finalFail b0 id true, some t0.secondCore)
      else (finalPass b0 id v true, some t0.firstCore)

/-- Counts a fault of a core (Table 14.1). -/
def countFault (b : Block) (c : Nat) : Block := count b (coreCounter c 3) 1

/-- The tile that runs on a core's instance ends with a VOID; the instance restarts. -/
def voidRunning (b : Block) (c : Nat) (x : Cause) : Block :=
  match (getCore b c).tile with
  | none => restartInst b c
  | some id => lateTrims (instCores b c) (collated (stopTile b c) id c (.void x)).1

/-- A core fault (R82): the tile is lost, the core is zeroed and runs a specimen, or is trimmed at the third within
600 s. -/
def coreFault (b : Block) (c : Nat) (code : Nat) : Block :=
  let k := getCore b c
  let tn := (getPslot b k.progSlot).tenant
  let b1 := countFault (coreMargin b c 0x0A code k.tileSeq.toNat tn) c
  let b2 := voidRunning (raise b1 .col 3 (aboutCore b c)) c .coreError
  let b3 := modCore b2 c fun k => { k with coreFaults := recent600 b (k.coreFaults) ++ [nowNs b] }
  if (getCore b3 c).coreFaults.length ≥ 3 then autoTrimCore b3 c else startSpecimen b3 c

/-- A program fault on a core (R81): the tile is VOID, the instance restarts, and a user slot's third within 600 s fails
the slot. -/
def programFault (b : Block) (c : Nat) (code : Nat) : Block :=
  let k := getCore b c
  let s := k.progSlot
  let b1 := countFault (coreMargin b c 0x0A code k.tileSeq.toNat (getPslot b s).tenant) c
  let b2 := voidRunning (raise b1 .col 2 (aboutCore b c)) c .program
  if s < 8 then b2
  else
    let b3 := modPslot b2 s fun p => { p with faults := recent600 b p.faults ++ [nowNs b] }
    if (getPslot b3 s).faults.length ≥ 3 then modPslot b3 s fun p => { p with state := .failed } else b3

/-- The part that gave an odd verdict takes its fault (R98): a core fault, or a program fault of a user program. -/
def blameOdd (b : Block) (slot : Nat) (c : Nat) : Block :=
  if slot ≥ 8 then programFault b c 0 else coreFault b c 0

/-- A collation ends: the tile's state, then the fault of an odd collation. -/
def endCollation (b : Block) (id c : Nat) (e : Ended) : Block :=
  let first := (findTile b.ver.tiles id).elim (0, 0) fun t => (t.firstCore, t.firstSlot)
  match collated b id c e with
  | (b1, none) => b1
  | (b1, some odd) => blameOdd b1 (if odd = first.1 then first.2 else 0) odd

/-- The tiles that run on cores for which a test holds. -/
def runningOn (b : Block) (hit : Nat → Bool) : List (Nat × Nat) :=
  b.ver.tiles.filterMap fun t => (t.running.find? hit).map fun c => (t.id, c)

/-- Every tile in progress on cores for which a test holds is VOID (R82, R327, Table 10.1). -/
def voidAll (b : Block) (hit : Nat → Bool) (x : Cause) : Block :=
  each (runningOn b hit) (fun p b => lateTrims (instCores b p.2) (collated (stopTile b p.2) p.1 p.2 (.void x)).1) b

/-- A tenant's records of steps after a restore point that are not FINAL become SKIPPED, ROLLED_BACK (R102). -/
def rollBackTiles (b : Block) (t step : Nat) : Block :=
  let ids := (b.ver.tiles.filter fun x =>
    decide (x.hdr.tenant.val = t) && decide (x.hdr.step.toNat ≥ step) && !tileFinal x).map fun x => x.id
  each ids (fun id b =>
    let b1 := match (findTile b.ver.tiles id).bind fun t => t.running.head? with
      | some c => lateTrims (instCores b c) (stopTile b c)
      | none => b
    skipTile b1 id .rolledBack) b

/-! ## Task inputs (R63) -/

/-- A g register: g0 reads as zero and takes no write. -/
def gGet (k : Core) (i : Nat) : W64 := if i = 0 then 0 else tabGet 0 k.g i
def gPut (k : Core) (i : Nat) (v : W64) : Core := if i = 0 then k else { k with g := tabPut k.g i v }

/-- The lowest input of a mask that is non-zero. -/
def firstInput (k : Core) (mask : W64) : Option Nat :=
  (upFrom 0 64).find? fun i => mask.getLsbD i && decide ((tabGet {} k.tin i).count ≠ 0)

/-- A core that waits in WAITE goes on once an input of its mask is non-zero. -/
def wakeWaite (b : Block) (c : Nat) : Block :=
  let k := getCore b c
  match k.wait with
  | .waite mask d =>
    match firstInput k mask with
    | none => b
    | some i =>
      let k1 := gPut { k with wait := .none, pc := k.pc + 4 } d (BitVec.ofNat 64 i)
      coreMargin (setCore b c k1) c 0x06 i k.tileSeq.toNat (coreTenant b c)
  | .none | .send | .dma _ | .xacc | .fence => b

/-- Adds events to a task input of a core; a sum beyond 0xFFFF stays there and sets OVF. -/
def addEvent (b : Block) (c input n : Nat) : Block :=
  let k := getCore b c
  let x := tabGet {} k.tin input
  let sum := x.count + n
  let beyond := decide (sum > 0xFFFF)
  let y : TaskIn := { count := min sum 0xFFFF, ovf := x.ovf || beyond }
  let b1 := setCore b c { k with tin := tabPut k.tin input y, evOvf := k.evOvf || (k.tile.isSome && !k.tdone && y.ovf) }
  let b2 := if beyond && !x.ovf then coreMargin b1 c 0x08 input k.tileSeq.toNat (coreTenant b c) else b1
  wakeWaite b2 c

end Sys2Proof.Machine
end

