-- ==== Sys2Proof/Machine/CoreOps.lean ====
section
/-!
DEFINITION. Machine/CoreOps.lean: what the instructions of a Collator core share: when a core executes (R54, R76), faults, the
XACC image (Table 2.2) and its add (R37), the tile window (Tables 4.1, 4.2) and the core-local map (R56, Table 3.2).
-/

namespace Sys2Proof.Machine

/-! ## Issue -/

/-- A core executes its program while its clock runs: PORST_N is high, CPLL is READY, its cluster is out of reset and not
withheld, and the core is not trimmed and has no specimen to pass (R82, R83, R85, R327, R412). -/
def coreRuns (b : Block) (c : Nat) : Bool :=
  b.pw.porstN && decide ((getPll b 0).state = .ready) && !(getPll b 0).stopped && !coreTrimmed b c && !(getCore b c).specimen &&
    !(getDom b (clusterDom c)).inReset && (decide (clusterOf c + b.col.withheld < 16) || (getCore b c).tile.isSome)

/-- One instruction takes a cycle and as many stall cycles as the manual leaves open. -/
def spend (b : Block) (c : Nat) : Block :=
  let stall := freeVal b
  count (modCore (takeFree b) c fun k => { k with cycle := k.cycle + 1 + BitVec.ofNat 64 stall }) (coreCounter c 2) stall

/-- A core that executes an instruction: nothing happens while its clock stands or while it stalls in another one. -/
def issue (c : Nat) (stalled : CoreWait → Bool) (f : Block → Block) (b : Block) : Block :=
  let w := (getCore b c).wait
  if coreRuns b c && (decide (w = .none) || stalled w) then f (spend b c) else b

def neverStalled (_ : CoreWait) : Bool := false

/-- The next instruction. -/
def advance (b : Block) (c : Nat) : Block := modCore b c fun k => { k with pc := k.pc + 4, wait := .none }

/-- The core stalls in the instruction. -/
def stallIn (b : Block) (c : Nat) (w : CoreWait) : Block := modCore b c fun k => { k with wait := w }

/-- A program fault with an open fault code in the margin ring (Table 3.12, R81). -/
def faultAt (b : Block) (c : Nat) : Block := programFault (takeFree b) c (freeVal b % 256)

/-- Executes to the next instruction after changing the core. -/
def stepCore (b : Block) (c : Nat) (f : Core → Core) : Block := advance (modCore b c f) c

def reg (b : Block) (c i : Nat) : W64 := gGet (getCore b c) i
def vGet (k : Core) (i : Nat) : BitVec 512 := tabGet 0 k.v i
def vPut (k : Core) (i : Nat) (v : BitVec 512) : Core := { k with v := tabPut k.v i v }

/-! ## XACC (Table 2.2) -/

def xGet (k : Core) (x : Nat) : Xacc := tabGet {} k.xacc x
def xPut (k : Core) (x : Nat) (a : Xacc) : Core := { k with xacc := tabPut k.xacc x a }

/-- Whether passes already issued into an XACC have still to be added (R61). -/
def xBusy (k : Core) (x : Nat) : Bool := k.passes.any fun p => p.x == x

/-- The image of an XACC as one number. -/
def xImage (a : Xacc) : BitVec 512 :=
  BitVec.ofNat 512 (a.value.toNat + a.base.toNat * 2 ^ 256 +
    (bit a.inx + 2 * bit a.ovf + 4 * bit a.nan + 8 * bit a.pinf + 16 * bit a.ninf + 32 * bit a.any + 64 * bit a.allNegZ) * 2 ^ 272 +
    a.mag.toNat * 2 ^ 288 + a.tail.toNat * 2 ^ 352 + a.count.toNat * 2 ^ 416)

/-- The XACC that an image holds; its reserved bits are ignored. -/
def xOfImage (w : BitVec 512) : Xacc :=
  { value := BitVec.ofNat 256 (field w 0 256), base := BitVec.ofNat 16 (field w 256 16), inx := w.getLsbD 272,
    ovf := w.getLsbD 273, nan := w.getLsbD 274, pinf := w.getLsbD 275, ninf := w.getLsbD 276, any := w.getLsbD 277,
    allNegZ := w.getLsbD 278, mag := BitVec.ofNat 64 (field w 288 64), tail := BitVec.ofNat 64 (field w 352 64),
    count := BitVec.ofNat 32 (field w 416 32) }

/-- Adds a pass to an XACC (R34, R37, R40); `open'` is what VALUE holds after an overflow. -/
def xAddPass (a : Xacc) (p : Pass) (open' : Nat) : Xacc :=
  let (t, cut) := shiftIn p.sum p.l a.base.toInt
  let v := a.value.toInt + t
  let beyond := decide (v < vMin) || decide (vMax < v)
  let t1 := if p.lost = 0 then a.tail else addUp64 a.tail (toB64 (up64 { m := p.lost, e := p.l }))
  { value := if beyond || a.ovf then BitVec.ofNat 256 open' else BitVec.ofInt 256 v, base := a.base,
    inx := a.inx || decide (p.lost ≠ 0) || cut, ovf := a.ovf || beyond, nan := a.nan || p.nan, pinf := a.pinf || p.pinf,
    ninf := a.ninf || p.ninf, any := a.any || p.any,
    allNegZ := if !a.any then p.allNegZ else if !p.any then a.allNegZ else a.allNegZ && p.allNegZ,
    mag := addUp64 a.mag p.mag, tail := if cut then addUp64 t1 (pow64 a.base.toInt) else t1,
    count := a.count + BitVec.ofNat 32 p.count }

/-- Adds one XACC into another (Table 3.6, XADD). -/
def xAddX (a s : Xacc) (open' : Nat) : Xacc :=
  let r := xAddPass a { sum := s.value.toInt, l := s.base.toInt, mag := s.mag, nan := s.nan, pinf := s.pinf, ninf := s.ninf,
                        any := s.any, allNegZ := s.allNegZ } open'
  { r with inx := r.inx || s.inx, ovf := r.ovf || s.ovf, tail := addUp64 r.tail s.tail, count := a.count + s.count }

/-! ## The tile window (Tables 4.1, 4.2) -/

/-- The 96 bytes of a tap descriptor. -/
def tapBytes (t : TapDesc) : List Byte :=
  leBytes 1 (t.cls.toNat + 16 * t.cFmt.toNat) ++ leBytes 1 (t.aFmt.toNat + 16 * t.bFmt.toNat) ++ leBytes 2 t.unit.toNat ++
    leBytes 2 t.m ++ leBytes 2 t.n ++ leBytes 4 t.k ++ leBytes 4 t.runSeq.toNat ++ leBytes 8 t.accDesc.toNat ++
    leBytes 8 t.aAddr.toNat ++ leBytes 8 t.bAddr.toNat ++ leBytes 8 t.yAddr.toNat ++ leBytes 8 t.cAddr.toNat ++
    leBytes 4 t.aStride.toNat ++ leBytes 4 t.bStride.toNat ++ leBytes 4 t.yStride.toNat ++ leBytes 4 t.cStride.toNat ++
    leBytes 8 t.saAddr.toNat ++ leBytes 8 t.sbAddr.toNat ++ leBytes 8 t.rsv.toNat

/-- The 256 bytes of a tile record header. -/
def hdrBytes (h : TileHdr) : List Byte :=
  leBytes 2 1 ++ leBytes 2 256 ++ leBytes 4 h.recLen ++ leBytes 2 h.tenant.val ++ leBytes 1 h.slot.val ++
    leBytes 1 (bit h.strict + 2 * bit h.raised) ++ leBytes 4 h.step.toNat ++ leBytes 4 h.gathering ++
    leBytes 4 h.tapSeq.toNat ++ leBytes 8 h.sampleTime.toNat ++ tapBytes h.tap ++ leBytes 1 h.edition.toNat ++
    leBytes 1 h.domain.val ++ leBytes 2 0 ++ leBytes 4 h.aOff ++ leBytes 4 h.saOff ++ leBytes 4 h.bOff ++
    leBytes 4 h.sbOff ++ leBytes 4 h.cOff ++ leBytes 4 h.yOff ++ leBytes 2 h.subM ++ leBytes 2 h.subN ++
    leBytes 2 h.rowOff ++ leBytes 2 h.colOff ++ zeroBytes 92

/-- The record that a core's tile window shows, and the tile that it runs: none once its TDONE has submitted the tally. -/
def windowTile (b : Block) (c : Nat) : Option Tile := (getCore b c).tile.bind (findTile b.ver.tiles)
def coreTile (b : Block) (c : Nat) : Option Tile := if (getCore b c).tdone then none else windowTile b c

/-- A record's bytes: the header and what follows it. -/
def recBytes (t : Tile) (off len : Nat) : List Byte := ((hdrBytes t.hdr ++ t.data).drop off).take len

/-! ## The core-local map (Table 3.2) -/

/-- Words of the read-only windows whose layout Table 3.2 names: mailbox descriptors, credits, DMA queues, the tally.
Where it names fields and no offsets, they stand as words of 4 bytes in its order (DEDUCED). -/
def boxBytes (m : Mailbox) : List Byte :=
  leBytes 4 m.base ++ leBytes 4 m.size ++ leBytes 4 ((m.msgs.head?.map fun x => (x.addr - m.base) / 64).getD m.tail) ++
    leBytes 4 m.tail ++ leBytes 4 (listSum (m.msgs.map fun x => x.flits)) ++ zeroBytes 44

def creditBytes (l : List Credit) (i : Nat) : List Byte :=
  match l[i]? with
  | none => zeroBytes 32
  | some x => leBytes 4 x.target ++ leBytes 4 x.mbox ++ leBytes 4 x.flits ++ zeroBytes 20

def dmaBytes (q : DmaQ) : List Byte := leBytes 4 (bit q.busy) ++ leBytes 4 (if q.busy then q.len else 0) ++ zeroBytes 24

def tallyBytes (t : Tally) : List Byte :=
  leBytes 4 t.matched ++ leBytes 4 t.bounded ++ leBytes 4 t.outside ++ leBytes 4 t.mismatch ++ leBytes 4 t.undecIn ++
    leBytes 4 t.undecOut ++ leBytes 4 (t.firstBad.getD 0xFFFFFFFF) ++ leBytes 4 (bit (t.firstMiss.elim false Prod.snd)) ++ zeroBytes 32

def tinBytes (x : TaskIn) : List Byte := leBytes 4 (x.count + 65536 * bit x.ovf)

/-- The window of the current tile: its header, TILE_SEQ and zeros. -/
def windowBytes (b : Block) (c : Nat) : List Byte :=
  let h := match windowTile b c with
    | some t => hdrBytes t.hdr
    | none => zeroBytes 256
  h ++ leBytes 4 (getCore b c).tileSeq.toNat

def coreIdWord (k : Core) (c : Nat) : Nat := c + 512 * k.progSlot + 32768 * (k.inst % 256)

def corePosWord (k : Core) : Nat :=
  if k.progSlot < 8 then 0 else k.row + 16 * k.col + 512 * (k.instH - 1) + 8192 * (k.instW - 1)

/-- One byte of the map outside SRAM; none where nothing is mapped. -/
def ioByte (b : Block) (c a : Nat) : Option Byte :=
  let k := getCore b c
  if a < 0x100000 then none
  else if a < 0x102000 then some (BitVec.ofNat 8 ((xImage (xGet k ((a - 0x100000) / 64))).toNat / 256 ^ (a % 64)))
  else if a < 0x102100 then some (nthD 0 (tinBytes (tabGet {} k.tin ((a - 0x102000) / 4))) (a % 4))
  else if a < 0x103000 then none
  else if a < 0x103400 then some (nthD 0 (boxBytes (tabGet {} k.mbox ((a - 0x103000) / 64))) (a % 64))
  else if a < 0x103800 then some (nthD 0 (creditBytes k.credits ((a - 0x103400) / 32)) (a % 32))
  else if a < 0x104000 then none
  else if a < 0x104100 then some (nthD 0 (dmaBytes (tabGet {} k.dma ((a - 0x104000) / 32))) (a % 32))
  else if a < 0x105000 then none
  else if a < 0x105004 then some (nthD 0 (leBytes 4 (coreIdWord k c)) (a - 0x105000))
  else if a < 0x105008 then some (nthD 0 (leBytes 4 (corePosWord k)) (a - 0x105004))
  else if a < 0x105010 then some (nthD 0 (leBytes 8 k.cycle.toNat) (a - 0x105008))
  else if a < 0x105100 then none
  else if a < 0x105140 then some (nthD 0 (tallyBytes k.tally) (a - 0x105100))
  else if a < 0x106000 then none
  else if a < 0x107000 then some (nthD 0 (windowBytes b c) (a - 0x106000))
  else none

/-- All bytes, or none. -/
def allSome : List (Option Byte) → Option (List Byte)
  | [] => some []
  | none :: _ => none
  | some x :: r => (allSome r).map fun l => x :: l

/-- Reads `n` bytes of the map; none is an address fault. -/
def mapRead (b : Block) (c a n : Nat) : Option (List Byte) :=
  if a + n ≤ 0x100000 then some (memGetBytes (getCore b c).sram a n)
  else allSome ((upFrom a n).map fun i =>
    if i < 0x100000 then some (memGet (getCore b c).sram i) else ioByte b c i)

/-- One byte stored into an XACC image. -/
def xStore (k : Core) (a : Nat) (v : Byte) : Core :=
  let x := (a - 0x100000) / 64
  let w := (xImage (xGet k x)).toNat
  let p := 256 ^ (a % 64)
  xPut k x (xOfImage (BitVec.ofNat 512 (w - w / p % 256 * p + v.toNat * p)))

def mapStore : Core → Nat → List Byte → Core
  | k, _, [] => k
  | k, a, v :: r =>
    mapStore (if a < 0x100000 then { k with sram := memPut k.sram a v } else xStore k a v) (a + 1) r

/-- Whether a store of `n` bytes lies in the writable ranges: SRAM and the XACC images. -/
def mayStore (a n : Nat) : Bool := decide (a + n ≤ 0x102000)

/-- Whether an access touches an XACC that still waits for passes (R61). -/
def touchesBusy (k : Core) (a n : Nat) : Bool :=
  decide (a < 0x102000) && decide (0x100000 < a + n) &&
    k.passes.any fun p => decide (0x100000 + 64 * p.x < a + n) && decide (a < 0x100000 + 64 * p.x + 64)

/-! ## Instances and credits (R67, R68) -/

/-- The core that an instance-relative number names, row-major; none outside the instance or where it is trimmed. -/
def relCore (b : Block) (c i : Nat) : Option Nat :=
  match (instCores b c)[i]? with
  | none => none
  | some t => if coreTrimmed b t then none else some t

def creditOf (k : Core) (target mbox : Nat) : Nat :=
  ((k.credits.find? fun x => x.target == target && x.mbox == mbox).map fun x => x.flits).getD 0

/-- Adds credit to an entry, or makes one. -/
def addCredit : List Credit → Nat → Nat → Nat → List Credit
  | [], t, m, f => [{ target := t, mbox := m, flits := f }]
  | x :: r, t, m, f => if x.target = t ∧ x.mbox = m then { x with flits := x.flits + f } :: r else x :: addCredit r t m f

/-- Deducts credit; an entry frees at zero. -/
def useCredit (l : List Credit) (t m f : Nat) : List Credit :=
  (l.map fun x => if x.target = t ∧ x.mbox = m then { x with flits := x.flits - f } else x).filter fun x => x.flits != 0

/-- Flits that a mailbox holds, and credit granted for it. -/
def boxHeld (m : Mailbox) : Nat := listSum (m.msgs.map fun x => x.flits)
def boxGranted (m : Mailbox) : Nat := listSum (m.granted.map Prod.snd)

def boxOf (b : Block) (c m : Nat) : Mailbox := tabGet {} (getCore b c).mbox m
def modBox (b : Block) (c m : Nat) (f : Mailbox → Mailbox) : Block :=
  modCore b c fun k => { k with mbox := tabPut k.mbox m (f (tabGet {} k.mbox m)) }

/-- Writes a message's flits into a ring that wraps. -/
def ringPutFlits (sram : Memory) (base size : Nat) : Nat → List Byte → Nat → Memory
  | _, _, 0 => sram
  | pos, bytes, n + 1 =>
    ringPutFlits (memPutBytes sram (base + 64 * (pos % Nat.max 1 size)) (bytes.take 64)) base size (pos + 1) (bytes.drop 64) n

/-! ## Verdict of a tile (R74, Table 2.8) -/

def tallySum (t : Tally) : Nat := t.matched + t.bounded + t.outside + t.mismatch + t.undecIn + t.undecOut

def tallyBad (t : Tally) : Nat := t.bounded + t.outside + t.mismatch + t.undecIn + t.undecOut

/-- Of two elements with their indicators, the one of the lower index. -/
def earlier : Option (Nat × Bool) → Option (Nat × Bool) → Option (Nat × Bool)
  | none, z => z
  | z, none => z
  | some x, some y => some (if y.1 < x.1 then y else x)

def tallyAdd (x y : Tally) : Tally :=
  let first := match x.firstBad, y.firstBad with
    | none, z => z
    | z, none => z
    | some i, some j => some (min i j)
  { matched := x.matched + y.matched, bounded := x.bounded + y.bounded, outside := x.outside + y.outside,
    mismatch := x.mismatch + y.mismatch, undecIn := x.undecIn + y.undecIn, undecOut := x.undecOut + y.undecOut,
    firstBad := first, firstMiss := earlier x.firstMiss y.firstMiss, firstDoubt := earlier x.firstDoubt y.firstDoubt }

/-- Table 2.8. -/
def tallyVerdict (t : Tally) : Verdict :=
  if t.outside + t.mismatch + t.undecOut ≠ 0 then .fail
  else if t.bounded + t.undecIn ≠ 0 then .passBounded
  else .pass

/-- An element's index in the whole tile's row-major order (R92). -/
def wholeIndex (h : TileHdr) (e : Nat) : Nat :=
  let n := Nat.max 1 h.subN
  (h.rowOff + e / n) * h.tap.n + h.colOff + e % n

end Sys2Proof.Machine
end

