-- ==== Sys2Proof/Machine/Sampling.lean ====
section
/-!
DEFINITION. Machine/Sampling.lean: tile records and verdicts at the GLT (R42, R94-R109), the dispatcher (R79, R95, R98), trims
and specimens of cores (R82-R85) and the loading of collation programs (R75-R80).
-/

namespace Sys2Proof.Machine

/-! ## Judgeable descriptors (R42) -/

def outFmtOk (c : Nat) : Bool := c ≤ 2 || (5 ≤ c && c ≤ 8)

/-- Whether an accumulation descriptor holds no reserved encoding and no format outside its column of Table 2.4. -/
def accOk (d : AccDesc) : Bool :=
  decide (d.rsv = 0) && d.accFmt ≤ 6 && d.chunkFmt ≤ 6 && d.accRnd ≤ 5 && d.chunkRnd ≤ 5 && d.outRnd ≤ 5 &&
    d.tree ≤ 2 && (d.tree != 2 || 2 ≤ d.radix) && d.cinit ≤ 2 && outFmtOk d.outFmt

/-- INT32 accumulation needs INT8 inputs and, with CINIT, C in an INT32 format; INT8 inputs need INT32 accumulation. -/
def intsOk (d : AccDesc) (aFmt cFmt : Nat) : Bool :=
  let intIn := aFmt == 0
  (isInt32 d.accFmt == intIn) && (isInt32 d.chunkFmt == intIn) && (!intIn || d.cinit == 0 || isInt32 cFmt)

def pOk (fmt p : Nat) : Bool := fmt != 4 || within 8 32 p

/-- What strict mode asks beyond bounded mode. -/
def strictOk (d : AccDesc) : Bool :=
  d.strictCap && d.accRnd != 5 && d.chunkRnd != 5 && d.outRnd != 5 && pOk d.accFmt d.pAcc && pOk d.chunkFmt d.pChunk

/-- R42: whether a tile can be judged under a mode. -/
def judgeable (strict : Bool) (t : TapDesc) : Bool :=
  let d := readAcc t.accDesc
  let a := t.aFmt.toNat
  accOk d && pairOk a t.bFmt.toNat && intsOk d a t.cFmt.toNat && (!isMx a || t.k % 32 == 0) &&
    (if strict then strictOk d else !tooLong d (t.k + (if d.cinit = 0 then 0 else 1)))

/-! ## Records and notices that arrive (R94, R96, R97) -/

/-- The gathering whose interval holds a step (R15); 0 where the tenant gathers nothing. -/
def intervalOf (r : TenantRec) (step : Nat) : Nat := if r.s = 0 then 0 else step / r.s + 1

/-- R94, R102: a record comes late after its interval's marker, of a rolled-back interval, or of one no longer held. -/
def lateRecord (b : Block) (t slot n : Nat) : Bool :=
  let r := getTen b t
  let g := getG b t n
  g.markers.contains slot || g.rolledBack || r.skipped.contains n || (decide (r.s ≠ 0) && decide (n ≤ r.started) && !hasG b t n)

/-- A late record is dropped and counted. -/
def dropLate (b : Block) (slot : Nat) : Block :=
  raise { b with ver := { b.ver with lateCount := b.ver.lateCount + 1 } } .colv 6 (aboutSlot b slot)

/-- Whether a record was sampled at or after the release that raised sampling; both times modulo 2⁴⁸. -/
def sampledRaised (r : TenantRec) (h : TileHdr) : Bool :=
  decide ((h.sampleTime - stamp48 r.raisedAt).toNat < 2 ^ 47)

/-- The fields of the header that the GLT writes (Table 4.2).  A record of an interval whose gathering has started keeps the mode
and the raised mark of that interval (R91, R104). -/
def ownHdr (b : Block) (t slot : Nat) (h : TileHdr) : TileHdr :=
  let r := getTen b t
  let n := intervalOf r h.step.toNat
  let g := getG b t n
  let past := hasG b t n
  { h with tenant := Fin.ofNat 1024 t, slot := Fin.ofNat 16 slot, strict := if past then g.strict else r.effStrict,
           raised := (if past then g.raised else r.raised) && sampledRaised r h, gathering := n }

/-- Adds a tile in order of arrival. -/
def addTile (b : Block) (x : Tile) : Block :=
  { b with ver := { b.ver with tiles := b.ver.tiles ++ [{ x with id := b.ver.nextId }], nextId := b.ver.nextId + 1 } }

/-- A tenant's records in the queue. -/
def tenantBytes (b : Block) (t : Nat) : Nat :=
  listSum ((b.ver.tiles.filter fun x => !x.freed && decide (x.hdr.tenant.val = t)).map fun x => x.hdr.recLen)

def queueFull (b : Block) (t len : Nat) : Bool :=
  decide (queueBytes b + len > b.ver.queueGib * 1073741824) || decide (tenantBytes b t + len > (getTen b t).quotaMib * 1048576)

/-- COL_VERR.QUEUE_HIGH when the queue reaches 90 % of its size (Table 4.13). -/
def queueHigh (before : Nat) (b : Block) : Block :=
  let lim := b.ver.queueGib * 1073741824 * 9
  onlyIf (decide (before * 10 < lim) && decide (queueBytes b * 10 ≥ lim)) (fun b => raise b .colv 5 (aboutGlt b)) b

/-- A tile that waits for dispatch. -/
def tileWaits (t : Tile) : Bool := t.running.isEmpty && (decide (t.phase = .queued) || decide (t.phase = .confirming))

/-- Whether a tenant has a tile that waits for dispatch. -/
def hasQueued (b : Block) (t : Nat) : Bool := b.ver.tiles.any fun x => tileWaits x && decide (x.hdr.tenant.val = t)

/-- The tenants with work queued, but one. -/
def queuedOthers (b : Block) (t : Nat) : List Nat := (liveTenants b).filter fun u => decide (u ≠ t) && hasQueued b u

/-- A tenant that had nothing queued has given up its share (R95): it comes back level with the least served, for its weight, of
those that had work.  DESIGN CHOICE (log entry 155): R95 names the proportion and no account. -/
def rejoinShare (b : Block) (t : Nat) : Block :=
  let r := getTen b t
  match listMin? ((queuedOthers b t).map fun u => (getTen b u).served * r.weight / Nat.max 1 (getTen b u).weight) with
  | some least => if hasQueued b t then b else setTen b t { r with served := Nat.max r.served least }
  | none => b

/-- A complete record of a tenant's slot: dropped as late, VOID for its edition or descriptor, SKIPPED for the budget, or
queued.  The checks stand in this order (DESIGN CHOICE). -/
def takeRecord (b : Block) (t slot : Nat) (h : TileHdr) (data : List Byte) : Block :=
  if lateRecord b t slot h.gathering then dropLate b slot
  else
    let id := b.ver.nextId
    let gone : Tile := { hdr := h, intact := false, freed := true }
    if tabGet 0 (getSlot b slot).editionCopy h.domain.val ≠ h.edition then unresolve (addTile b gone) id .resetAccel
    else if !judgeable h.strict h.tap then unresolve (addTile b gone) id .descriptor
    else if (untrimmed b).isEmpty then skipTile (addTile b gone) id .noCores
    else if queueFull b t h.recLen then skipTile (addTile b gone) id .queueFull
    else queueHigh (queueBytes b) (count (addTile (rejoinShare b t) { hdr := h, data := data }) (slotCounter slot 2) 1)

/-- TILE_RECORD_RECEIVED.  A slot that serves no tenant has none to queue it for. -/
def effTileRecord (slot : Nat) (h : TileHdr) (data : List Byte) (b : Block) : Block :=
  match slotTenant? b slot with
  | none => b
  | some t => takeRecord b t slot (ownHdr b t slot h) data

def execTileRecordReceived (slot : Fin 16) (hdr : TileHdr) (data : List Byte) (s : State) :
    Host.Outcome State Fault Refusal := act s (effTileRecord slot.val hdr data)

/-- A TILE_VOID notice is its tile's verdict: UNRESOLVED, since no record is intact (R97, R242). -/
def effTileVoid (slot : Nat) (v : TileVoid) (b : Block) : Block :=
  match slotTenant? b slot with
  | none => b
  | some t =>
    let h := ownHdr b t slot { sampleTime := stamp48 (nowNs b), step := v.step, tapSeq := v.tapSeq, edition := v.edition, domain := v.domain,
                               tap := { unit := v.unit, runSeq := v.runSeq } }
    if lateRecord b t slot h.gathering then dropLate b slot
    else unresolve (addTile b { hdr := h, intact := false, freed := true }) b.ver.nextId v.cause

def execTileVoidReceived (slot : Fin 16) (v : TileVoid) (s : State) : Host.Outcome State Fault Refusal :=
  act s (effTileVoid slot.val v)

/-- INTERVAL_CLOSE_RECEIVED: the slot's marker for a gathering (R94). -/
def effIntervalClose (slot n : Nat) (b : Block) : Block :=
  match slotTenant? b slot with
  | none => b
  | some t => onlyIf (hasG b t n) (fun b => modG b t n fun g => { g with markers := withEntry g.markers slot }) b

def execIntervalCloseReceived (slot : Fin 16) (gathering : Nat) (s : State) : Host.Outcome State Fault Refusal :=
  act s (effIntervalClose slot.val gathering)

/-! ## The verdict deadline (R96, R100, R101) -/

def ofInterval (t n : Nat) (x : Tile) : Bool := decide (x.hdr.tenant.val = t) && decide (x.hdr.gathering = n)

def verdictCount (b : Block) (t n : Nat) (v : Verdict) : Nat :=
  (b.ver.tiles.filter fun x => ofInterval t n x && tileFinal x && decide (x.verdict = some v)).length

/-- The deadline of a gathering passes: undispatched records are SKIPPED, VOIDs are waived or block, and the counts of
R109 are taken. -/
def passDeadline (t n : Nat) (b : Block) : Block :=
  let due := (b.ver.tiles.filter fun x => ofInterval t n x && decide (x.phase = .queued) && !x.everDispatched).map (·.id)
  let b1 := each due (fun id b => skipTile b id .deadline) (modG b t n fun g => { g with deadlinePassed := true })
  let open' := (b1.ver.tiles.filter fun x => ofInterval t n x && decide (x.phase = .unresolved)).map (·.id)
  let b2 := each open' (fun id b => settle b id) b1
  let stays := b2.ver.tiles.any fun x => ofInterval t n x && decide (x.phase = .unresolved)
  let b3 := onlyIf stays (fun b => raise b .colv 2 (aboutTen b t)) b2
  let missing := (tenantSlots b3 (getTen b3 t)).any fun s => !(getG b3 t n).markers.contains s
  let b4 := onlyIf missing (fun b => raise b .colv 3 (aboutTen b t)) b3
  let counts := [Verdict.pass, .passBounded, .fail, .void, .skipped].map (verdictCount b4 t n)
  modG b4 t n fun g => { g with verdictCounts := counts }

/-- VERDICT_DEADLINE: COL_VERDICT_WAIT after the release that started the gathering. -/
def effVerdictDeadline (t n : Nat) (b : Block) : Block :=
  let g := getG b t n
  let due := decide (g.startTime + b.ver.waitMs * 1000000 ≤ nowNs b)
  onlyIf (hasG b t n && due && !g.deadlinePassed && !g.rolledBack) (passDeadline t n) b

def execVerdictDeadline (tenant : Fin 1024) (gathering : Nat) (s : State) : Host.Outcome State Fault Refusal :=
  act s (effVerdictDeadline tenant.val gathering)

/-! ## COLLATE_POLICY_SET (Table 4.8, R106) -/

def fromCreator (b : Block) (iss : Issuer) : Bool := isPf iss && iss.pf.val == (getTen b iss.tenant.val).creatingPf

/-- Whether every masked field is in its range. -/
def policyOk (b : Block) (p : PolicySetP) (r : TenantRec) : Bool :=
  let m (i : Nat) : Bool := p.mask.getLsbD i
  !p.rsv && decide (p.mask.toNat < 128) &&
    (!m 0 || (p.rates.length == 8 && p.rates.all fun x => decide (x.toNat ≤ 16) || x == 0xFF)) &&
    (!m 1 || decide (p.mode.toNat ≤ 1)) && (!m 2 || decide (p.weight.toNat ≥ 1)) &&
    (!m 3 || within 64 (b.ver.queueGib * 1024) p.quota) && (!m 4 || decide (p.voidPolicy.toNat ≤ 1)) &&
    (!m 5 || decide (p.raise.toNat ≤ 4)) &&
    (!(m 0 || m 1) || decide (p.fromGathering = 0) || decide (r.started < p.fromGathering))

/-- Whether WAIVE_GATHERING is closed, and neither sewn nor released. -/
def waivable (b : Block) (t n : Nat) : Bool :=
  let g := getG b t n
  hasG b t n && decide (g.round ≠ .sewn) && !g.released && markersIn b t g

def unresolvedOf (b : Block) (t n : Nat) : List Tile :=
  b.ver.tiles.filter fun x => ofInterval t n x && decide (x.phase = .unresolved)

/-- Applies the masked fields of a policy; a new weight keeps what the tenant has been served in proportion (R95). -/
def applyPolicy (p : PolicySetP) (r : TenantRec) : TenantRec :=
  let m (i : Nat) : Bool := p.mask.getLsbD i
  let rates := p.rates.map fun x => if x = 0xFF then none else some x.toNat
  { r with pendRates := if m 0 then some (p.fromGathering, rates) else r.pendRates,
           pendMode := if m 1 then some (p.fromGathering, p.mode == 1) else r.pendMode,
           weight := if m 2 then p.weight.toNat else r.weight,
           served := if m 2 then r.served * p.weight.toNat / Nat.max 1 r.weight else r.served, quotaMib := if m 3 then p.quota else r.quotaMib,
           waiveLoss := if m 4 then p.voidPolicy == 1 else r.waiveLoss, raise := if m 5 then p.raise.toNat else r.raise }

def effPolicySet (iss : Issuer) (p : PolicySetP) (b : Block) : Block :=
  let t := iss.tenant.val
  let done := complete b iss 0x0301
  let waives := p.mask.getLsbD 6
  let voids := unresolvedOf b t p.waiveGathering
  if !fromCreator b iss then done stNotAuthorised
  else if !policyOk b p (getTen b t) || (waives && !waivable b t p.waiveGathering) then done stBadParam
  else if waives && voids.any fun x => decide (x.cause = .descriptor) then done stRefused
  else
    let b1 := modTen b t (applyPolicy p)
    let b2 := if waives then each (voids.map (·.id)) (fun id b => waive b id) b1 else b1
    complete b2 iss 0x0301 stOk

def execCollatePolicySet (iss : Issuer) (p : PolicySetP) (s : State) : Host.Outcome State Fault Refusal :=
  act s (effPolicySet iss p)

/-! ## COLLATE_VERDICT_READ (Tables 4.6, 4.10, R108) -/

def filterHas (f : Nat) (x : Tile) : Bool :=
  match f with
  | 0 => true
  | 1 => decide (x.verdict ≠ some .pass)
  | _ => decide (x.verdict = some .fail) || decide (x.phase = .unresolved)

/-- Whether the verdicts of a gathering have been released with its binding (R103). -/
def verdictsGone (b : Block) (t n : Nat) : Bool :=
  (getG b t n).released || (decide (n ≤ (getTen b t).started) && !hasG b t n && !(b.ver.tiles.any (ofInterval t n)))

def effVerdictRead (iss : Issuer) (p : VerdictReadP) (b : Block) : Block :=
  let t := iss.tenant.val
  if !fromTenant b iss then complete b iss 0x0303 stNotAuthorised
  else if p.rsv || decide (p.filter.toNat > 2) || decide (p.bufLen % 32 ≠ 0) || decide (p.dest % 32 ≠ 0) ||
      verdictsGone b t p.gathering then complete b iss 0x0303 stBadParam
  else
    let hits := (b.ver.tiles.filter fun x => ofInterval t p.gathering x && filterHas p.filter.toNat x).drop p.first
    let some' := hits.take (p.bufLen / 32)
    let b1 := if some'.isEmpty then b else hostWrite b iss p.dest (some'.flatMap verdictRecord)
    completeAt b1 iss 0x0303 stOk some'.length (hits.length - some'.length) (nowNs b)

def execCollateVerdictRead (iss : Issuer) (p : VerdictReadP) (s : State) : Host.Outcome State Fault Refusal :=
  act s (effVerdictRead iss p)

/-! ## The dispatcher (R79, R95, R98) -/

/-- Whether one MATCH entry of a user program takes a tile (R79). -/
def matchHas (m : ImgMatch) (h : TileHdr) : Bool :=
  m.aFmt == h.tap.aFmt && m.bFmt == h.tap.bFmt && (if h.strict then m.strict else m.bounded) &&
    within m.kMin m.kMax h.tap.k && decide (h.subM * h.subN ≤ m.mnMax)

/-- The user slot that takes a tile: the tenant's first active one with a matching entry and an instance (R79, R84). -/
def userSlot (b : Block) (h : TileHdr) : Option Nat :=
  (upFrom 8 56).find? fun s =>
    let p := getPslot b s
    decide (p.state = .active) && p.tenant == h.tenant.val && !p.origins.isEmpty && p.image.matches'.any (matchHas · h)

/-- A core that can take a tile now. -/
def coreIdle (b : Block) (c : Nat) : Bool :=
  let k := getCore b c
  coreServes b c && k.tile.isNone && !k.trimAtTdone

/-- Cores with the default programs that serve; the cluster whose microcode reload is in turn takes no tile (R363). -/
def defaultServing (b : Block) : List Nat :=
  (upFrom 0 512).filter fun c => coreServes b c && decide ((getCore b c).progSlot < 8) && b.col.ucodeCluster != some (clusterOf c)

/-- The order of choice for a confirmation, a repeat and a third collation (R98): a cluster that ran none of the tile's
collations, else a core that ran none, else any. -/
def confirmCores (b : Block) (t : Tile) : List Nat :=
  let all := defaultServing b
  let used := t.coresUsed.map clusterOf
  let c1 := all.filter fun c => !used.contains (clusterOf c)
  let c2 := all.filter fun c => !t.coresUsed.contains c
  if !c1.isEmpty then c1 else if !c2.isEmpty then c2 else all

/-- Where a tile may go now: the north-west cores of idle instances.  A re-collation after a user program's VOID goes to
the default programs (R99), and so do the collations of R98. -/
def tilePlaces (b : Block) (t : Tile) : List Nat :=
  let afterUser := decide (8 ≤ t.note.progSlot) && decide (t.note.progSlot < 64)
  match t.purpose with
  | .first | .recollate =>
    match (if t.purpose = .recollate && afterUser then none else userSlot b t.hdr) with
    | some s => (getPslot b s).origins.filter fun o => (instCores b o).all (coreIdle b)
    | none => (defaultServing b).filter (coreIdle b)
  | .confirm | .confirmAgain | .third => (confirmCores b t).filter (coreIdle b)

/-- Whether dispatch of a tenant's tiles is stopped by its hold (R260, R263). -/
def dispatchHeld (h : Hold) : Bool :=
  match h.phase with
  | .none | .scheduled => false
  | .cutting => true
  | .held | .incomplete => !h.collateInHold

/-- The order of one tenant's work (R95): confirmations and re-collations, then the oldest interval; each in order of
arrival, which is the order of the list. -/
def firstTile (l : List Tile) : Option Tile :=
  match l.find? fun t => t.priority with
  | some t => some t
  | none =>
    match listMin? (l.map fun t => t.hdr.gathering) with
    | none => none
    | some n => l.find? fun t => t.hdr.gathering == n

/-- The tiles that can be dispatched now. -/
def readyTiles (b : Block) : List Tile :=
  b.ver.tiles.filter fun t =>
    tileWaits t && !dispatchHeld (getTen b t.hdr.tenant.val).hold && !(tilePlaces b t).isEmpty

/-- The tenant served next: the one that has consumed least for its weight (R95); the lowest number on a tie. -/
def servedBefore (b : Block) (x y : Nat) : Bool :=
  let u := getTen b x
  let v := getTen b y
  decide (u.served * v.weight < v.served * u.weight) || (decide (u.served * v.weight = v.served * u.weight) && decide (x ≤ y))

def nextTenant (b : Block) : List Nat → Option Nat
  | [] => none
  | x :: r =>
    match nextTenant b r with
    | none => some x
    | some y => some (if servedBefore b x y then x else y)

/-- The next tile of the dispatcher. -/
def nextTile (b : Block) : Option Tile :=
  let l := readyTiles b
  match nextTenant b (l.map fun t => t.hdr.tenant.val) with
  | none => none
  | some t => firstTile (l.filter fun x => x.hdr.tenant.val == t)

/-- Writes the tile window of a core and increments its task input 24 (R71). -/
def giveTile (id ps tenant : Nat) (c : Nat) (b : Block) : Block :=
  let k := getCore b c
  let k1 := { k with tile := some id, tdone := false, tally := {}, sent := {}, tileSeq := k.tileSeq + 1, tileStart := k.cycle,
                     evOvf := k.tin.any fun x => x.2.ovf, progSlot := ps }
  addEvent (coreMargin (setCore b c k1) c 0x01 24 (k.tileSeq + 1).toNat tenant) c 24 1

/-- An instance takes a tile.  The default program's slot, which the manual leaves open, is a free value. -/
def dispatchTo (b : Block) (t : Tile) (o : Nat) : Block :=
  let cores := instCores b o
  let user := decide ((getCore b o).progSlot ≥ 8)
  let ps := if user then (getCore b o).progSlot else freeVal b % 8
  let b0 := if user then b else takeFree b
  let first := t.purpose == Purpose.first || t.purpose == Purpose.recollate
  let b1 := modTile b0 t.id fun x =>
    { x with phase := if first then .dispatched else .confirming, running := cores, coresUsed := x.coresUsed ++ cores,
             everDispatched := true, priority := false }
  each cores (giveTile t.id ps t.hdr.tenant.val) (emit b1 (.dispatch o t.hdr.tenant.val t.id))

/-- With no untrimmed core left, tiles that wait are SKIPPED, and a FAIL that waits is final (R84, R98). -/
def noCores (b : Block) : Block :=
  let l := b.ver.tiles.filter tileWaits
  each l (fun t b => if t.phase = .confirming then finalFail b t.id false else skipTile b t.id .noCores) b

/-- TILE_DISPATCH: which of the idle cores takes the tile is open, and is a free value. -/
def effDispatch (b : Block) : Block :=
  if (untrimmed b).isEmpty then noCores b
  else if !b.col.dispatchEn then b
  else
    match nextTile b with
    | none => b
    | some t =>
      let l := tilePlaces b t
      dispatchTo (takeFree b) t (nthD 0 l (freeVal b % l.length))

def execTileDispatch (s : State) : Host.Outcome State Fault Refusal := act s effDispatch

/-! ## Cycle limit, ECC errors (R76, R82) -/

/-- The tile of a core is stopped at its limit: SKIPPED, TILE_BUDGET, and the instance restarts; a confirmation that ends so
leaves the FAIL final (DESIGN CHOICE, log entry 153). -/
def overBudget (c id : Nat) (b : Block) : Block :=
  match findTile b.ver.tiles id with
  | none => stopTile b c
  | some t =>
    match t.purpose with
    | .first | .recollate =>
      skipTile (modTile (stopTile b c) id fun x => { x with attempts := x.attempts + 1 }) id .tileBudget
    | .confirm | .confirmAgain | .third => (collated (stopTile b c) id c (.void .tileBudget)).1

/-- The tile cycle limit of a slot: a user image's MAX_TILE_CYCLES, or the one that the cluster's microcode carries for a slot
0-7, at least 4,096 (R76). -/
def slotLimit (b : Block) (cluster s : Nat) : Nat :=
  if s < 8 then
    Nat.max 4096 (Config.ucodeLimit (tabGet {} b.col.microcode cluster).raw s).toNat
  else (getPslot b s).cycles

/-- TILE_CYCLE_LIMIT (R76): the core has spent more cycles than its slot's limit since the dispatch.  While the core stalls, its
cycles pass with no command, and the event tells that they have; a core that issues is held to its own count. -/
def effCycleLimit (c : Nat) (b : Block) : Block :=
  let k := getCore b c
  match k.tile with
  | none => b
  | some id =>
    let most := k.tileStart.toNat + slotLimit b (clusterOf c) k.progSlot
    let stands := decide (k.wait ≠ .none) && coreRuns b c
    if k.tdone || !(stands || decide (most < k.cycle.toNat)) then b
    else
      let b1 := setCore b c { k with cycle := BitVec.ofNat 64 (Nat.max k.cycle.toNat (most + 1)) }
      lateTrims (instCores b c) (overBudget c id b1)

def execTileCycleLimit (core : Fin 512) (s : State) : Host.Outcome State Fault Refusal := act s (effCycleLimit core.val)

/-- SRAM_ECC_ERROR (Table 3.12).  The margin ring's fault codes are open. -/
def effEcc (c : Nat) (uncorrectable : Bool) (b : Block) : Block :=
  let code := freeVal b % 256
  if uncorrectable then coreFault (takeFree b) c code
  else
    let b1 := modCore b c fun k => { k with corrEcc := k.corrEcc + 1 }
    coreMargin (takeFree b1) c 0x09 code (getCore b c).tileSeq.toNat (coreTenant b c)

def execSramEccError (core : Fin 512) (uncorrectable : Bool) (s : State) : Host.Outcome State Fault Refusal :=
  act s (effEcc core.val uncorrectable)

/-! ## Trims and specimens (R82-R85) -/

/-- A core specimen passes when VERDICT, FIRST_BAD and NOT_MATCH are those of the expected record (R365, Table 4.6). -/
def specPassed (want : List Byte) (verdict : Byte) (firstBad notMatch : W32) : Bool :=
  verdict == nthD 0 want 0 && firstBad.toNat == leNat ((want.drop 16).take 4) && notMatch.toNat == leNat ((want.drop 20).take 4)

/-- CORE_SPECIMEN_COMPLETE: a core that passes returns to service; one that fails is trimmed automatically. -/
def effCoreSpecimen (c : Nat) (verdict : Byte) (firstBad notMatch : W32) (b : Block) : Block :=
  if !(getCore b c).specimen then b
  else
    let passed := specPassed (getCore b c).specWant verdict firstBad notMatch
    let b1 := { b with fw := { b.fw with specRuns := b.fw.specRuns + 1, specFails := b.fw.specFails + bit (!passed) } }
    nextSpecimen (if passed then replaceLost <| restartInst (coreMargin (modCore b1 c fun k => { k with specimen := false }) c 0x0C 0 0 0) c
      else autoTrimCore b1 c)

def execCoreSpecimenComplete (core : Fin 512) (r : SpecOutcome) (s : State) : Host.Outcome State Fault Refusal :=
  act s (effCoreSpecimen core.val r.verdict r.firstBad r.notMatch)

/-- One bit of COL_TRIMn: setting it trims the core at its next TDONE, at once where it runs no tile; clearing it starts
zeroing and a specimen, or withdraws a trim that has not yet acted. -/
def trimBit (c : Nat) (on : Bool) (b : Block) : Block :=
  let was := tabBit b.col.trim c
  if was = on then b
  else
    let b1 := { b with col := { b.col with trim := tabPut b.col.trim (c / 32) (putBit (tabGet 0 b.col.trim (c / 32)) (c % 32) on) } }
    if on then
      if (getCore b c).tile.isSome then modCore b1 c fun k => { k with trimAtTdone := true, trimAskedAt := nowNs b } else trimCore b1 c
    else if (getCore b c).trimAtTdone then modCore b1 c fun k => { k with trimAtTdone := false }
    else startSpecimen b1 c

def rowCores (row : Nat) : List Nat := upFrom (32 * row) 32

def execColTrimWrite (pf : Fin 4) (row : Fin 16) (val : W32) (s : State) : Host.Outcome State Fault Refusal :=
  act s fun b => adminWrite b pf.val (0x60100 + 4 * row.val)
    (each (rowCores row.val) fun c b => trimBit c (val.getLsbD (c % 32)) b)

/-- TRIM_WITHDRAW_TIMEOUT: the tile still running 1 ms after the write is withdrawn and goes to another instance; the core is
trimmed. -/
def effTrimTimeout (c : Nat) (b : Block) : Block :=
  let k := getCore b c
  if k.trimAtTdone && k.tile.isSome && decide (k.trimAskedAt + 1000000 ≤ nowNs b) then withdrawForTrim b c else b

def execTrimWithdrawTimeout (core : Fin 512) (s : State) : Host.Outcome State Fault Refusal :=
  act s (effTrimTimeout core.val)

/-- One bit of COL_AUTOTRIMn written 1 (R85). -/
def untrimAuto (c : Nat) (b : Block) : Block := if tabBit b.col.autoTrim c then startSpecimen (setAutoTrim b c false) c else b

def execColAutotrimWrite (pf : Fin 4) (row : Fin 16) (val : W32) (s : State) : Host.Outcome State Fault Refusal :=
  act s fun b => adminWrite b pf.val (0x60180 + 4 * row.val)
    (each ((rowCores row.val).filter fun c => val.getLsbD (c % 32)) untrimAuto)

/-! ## Program images (R75, R77) -/

def secOverlap (a c : ImgSection) : Bool := decide (a.load < c.load + c.len) && decide (c.load < a.load + a.len)

/-- No two sections of a list overlap. -/
def secsApart : List ImgSection → Bool
  | [] => true
  | x :: r => !(r.any (secOverlap x)) && secsApart r

def secOk (p : ProgImage) (x : ImgSection) : Bool :=
  decide (x.load + x.len ≤ 1048576) && (x.zeroFill || decide (x.off + x.len ≤ p.imageLen))

def matchOk (m : ImgMatch) : Bool := pairOk m.aFmt.toNat m.bFmt.toNat

/-- A little-endian field of an image. -/
def imgNat (l : List Byte) (off n : Nat) : Nat := leNat ((l.drop off).take n)

/-- The SECTIONS and MATCH entries of Table 3.11. -/
def readSection (l : List Byte) (i : Nat) : ImgSection :=
  let o := 0x20 + 16 * i
  { off := imgNat l o 4, load := imgNat l (o + 4) 4, len := imgNat l (o + 8) 4, zeroFill := (imgNat l (o + 12) 4).testBit 0 }

def readMatch (l : List Byte) (i : Nat) : ImgMatch :=
  let o := 0xA0 + 16 * i
  { aFmt := BitVec.ofNat 4 (imgNat l o 1), bFmt := BitVec.ofNat 4 (imgNat l (o + 1) 1),
    bounded := (imgNat l (o + 2) 1).testBit 0, strict := (imgNat l (o + 2) 1).testBit 1, kMin := imgNat l (o + 4) 4,
    kMax := imgNat l (o + 8) 4, mnMax := imgNat l (o + 12) 4 }

/-- The header of an image (Table 3.11). -/
def readImage (l : List Byte) : ProgImage :=
  { magic := BitVec.ofNat 32 (imgNat l 0 4), formatVer := BitVec.ofNat 16 (imgNat l 4 2), imageLen := imgNat l 8 4,
    entry := imgNat l 0xC 4, shapeH := imgNat l 0x10 1, shapeW := imgNat l 0x11 1, instances := imgNat l 0x12 1,
    keySlot := imgNat l 0x13 1, svn := imgNat l 0x14 4, maxTileCycles := imgNat l 0x18 4,
    sections := (upFrom 0 (min 8 (imgNat l 0x1C 1))).map (readSection l),
    matches' := (upFrom 0 (min 16 (imgNat l 0x1D 1))).map (readMatch l), bytes := l }

/-- Whether the reserved fields of the header and of its entries are 0, and formats fit their four bits; a load refuses one that
does not with BAD_PARAM (DEDUCED, log entry 154). -/
def imgReserved (l : List Byte) : Bool :=
  let zero (off n : Nat) : Bool := imgNat l off n == 0
  zero 6 2 && zero 0x1E 2 && zero 0x1A0 96 &&
    (upFrom 0 (min 8 (imgNat l 0x1C 1))).all (fun i => decide (imgNat l (0x20 + 16 * i + 12) 4 < 2)) &&
    (upFrom 0 (min 16 (imgNat l 0x1D 1))).all fun i =>
      let o := 0xA0 + 16 * i
      decide (imgNat l o 1 < 16) && decide (imgNat l (o + 1) 1 < 16) && decide (imgNat l (o + 2) 1 < 4) && zero (o + 3) 1

/-- Step 2 of R77, on the image's bytes and the packet's LENGTH; the length is R75's. -/
def imageOk (l : List Byte) (len : Nat) : Bool :=
  let p := readImage l
  p.magic == 0x50524743 && p.formatVer == 1 && p.imageLen == len && l.length == len && len % 64 == 0 &&
    within 608 524288 len && imgReserved l &&
    within 1 16 p.shapeH && within 1 32 p.shapeW && within 4096 0xFFFFFFFF p.maxTileCycles &&
    within 1 8 (imgNat l 0x1C 1) && within 1 16 (imgNat l 0x1D 1) && p.sections.all (secOk p) && secsApart p.sections &&
    (p.sections.any fun x => within x.load (x.load + x.len - 1) p.entry && decide (x.len ≠ 0)) && p.matches'.all matchOk

/-- Step 1 of R77: the signature, the last 96 bytes, over every byte before it (R75), under KEY_SLOT, an owner key, and the SVN. -/
def imageSigned (l : List Byte) (minSvn : Nat) : Bool :=
  let p := readImage l
  within 1 7 p.keySlot && Config.signatureOk p.keySlot (l.take (l.length - 96)) (l.drop (l.length - 96)) && decide (minSvn ≤ p.svn)

/-- The free rectangles for a slot's instances: as many as wanted, and none where one of those could not be placed (R77 step
3). -/
def freeRects (b : Block) (p : ProgImage) : List Nat :=
  let l := (rects p.shapeH p.shapeW).filter fun o => rectFree b o p.shapeH p.shapeW
  if p.instances = 0 then l else if l.length < p.instances then [] else l.take p.instances

def doneLoad (b : Block) (iss : Issuer) (st : Byte) : Block :=
  complete (onlyIf (st ≠ stOk) (fun b => raise b .col 1 (aboutTen b iss.tenant.val)) b) iss 0x0302 st

/-- Steps 3 and 4 of R77. -/
def startLoad (b : Block) (iss : Issuer) (s : Nat) (p : ProgImage) : Block :=
  match freeRects b p with
  | [] => doneLoad b iss stNoResource
  | l =>
    let b1 := modPslot b s fun x =>
      { x with state := .loading, tenant := iss.tenant.val, image := p, svn := p.svn, cycles := p.maxTileCycles, origins := [],
               faults := [], loadIss := some iss, loadStart := nowNs b }
    each l (fun o b => placeInst b s o) b1

/-- COLLATE_PROGRAM_LOAD (Table 4.9, R77, R80, R107).  An unload completes at once, while the slot drains (DESIGN CHOICE). -/
def effProgLoad (iss : Issuer) (p : ProgLoadP) (b : Block) : Block :=
  let sl := getPslot b p.slot
  if !fromCreator b iss then doneLoad b iss stNotAuthorised
  else if p.rsv || decide (p.action.toNat > 1) || !within 8 63 p.slot then doneLoad b iss stBadParam
  else if p.action = 1 then
    if (decide (sl.state = .active) || decide (sl.state = .failed)) && sl.tenant == iss.tenant.val then
      doneLoad (modPslot b p.slot fun x => { x with state := .draining }) iss stOk
    else doneLoad b iss stRefused
  else if sl.state ≠ .empty then doneLoad b iss stRefused
  else if !imageSigned p.image sl.minSvn then doneLoad b iss stNotAuthorised
  else if !imageOk p.image p.length then doneLoad b iss stBadParam
  else startLoad b iss p.slot (readImage p.image)

def execCollateProgramLoad (iss : Issuer) (p : ProgLoadP) (s : State) : Host.Outcome State Fault Refusal :=
  act s (effProgLoad iss p)

/-- A user slot becomes EMPTY: its cores return to the default programs. -/
def clearSlot (b : Block) (s : Nat) : Block :=
  let sl := getPslot b s
  let b1 := each sl.origins (fun o b => releaseInst b o) b
  replaceLost (setPslot b1 s { minSvn := sl.minSvn })

/-- PROGRAM_READY_TIMEOUT: a core not READY within 10 ms of its start clears the slot (R77 step 5), also one that faults have
failed in the meantime (R81; DESIGN CHOICE, log entry 153). -/
def effReadyTimeout (s : Nat) (b : Block) : Block :=
  let sl := getPslot b s
  if (decide (sl.state = .loading) || sl.loadIss.isSome) && decide (sl.loadStart + 10000000 ≤ nowNs b) then
    match sl.loadIss with
    | some iss => doneLoad (clearSlot b s) iss stTimeout
    | none => clearSlot b s
  else b

def execProgramReadyTimeout (slot : Fin 64) (s : State) : Host.Outcome State Fault Refusal := act s (effReadyTimeout slot.val)

/-- SLOT_DRAIN_COMPLETE: the last tile of an unloaded slot has ended (R80). -/
def effDrain (s : Nat) (b : Block) : Block :=
  let sl := getPslot b s
  let busy := sl.origins.any fun o => (instCores b o).any fun c => (getCore b c).tile.isSome
  if sl.state = .draining && !busy then clearSlot b s else b

def execSlotDrainComplete (slot : Fin 64) (s : State) : Host.Outcome State Fault Refusal := act s (effDrain slot.val)

end Sys2Proof.Machine
end

