-- ==== Sys2Proof/Machine/Gathering.lean ====
section
/-!
DEFINITION. Machine/Gathering.lean: the commands of chapter 7: arming, first writes, page pushes, staging, digests, and the
host's GATHER_ARM and GATHER_START.
-/

namespace Sys2Proof.Machine

/-! ## At the sentinel -/

/-- RELEASE_MESSAGE: the tracker arms, then the release goes to the die; the interval that it ends is closed after its
last record (R94, R178); group 0 brings the new step number (R93). -/
def effReleaseMessage (n : Nat) (r : ReleaseMsg) (b : Block) : Block :=
  let b1 := if r.group = 0 then modSn b n fun s => { s with step := r.step } else b
  let b2 := if r.arm then armTracker b1 n r.gathering r.regions else b1
  let b3 := snHinge b2 n (.release r.group r.arm r.step r.gathering)
  if r.arm then queueShip b3 n (.close r.gathering r.step) else b3

def execReleaseMessage (slot : Fin 16) (r : ReleaseMsg) (s : State) : Host.Outcome State Fault Refusal :=
  act s (effReleaseMessage slot.val r)

/-- FW_REQ: granted at once, or held until its page is copied and counted (R180, R184, R186); without an accepted DECLARE it
is granted (R234). -/
def effFwReq (n : Nat) (tag : W16) (addr : Nat) (b : Block) : Block :=
  let s := getSn b n
  match pageAt s.regions addr with
  | none => snHinge b n (.fwGrant tag addr)
  | some x =>
    if s.decl.isNone || !uncopied s x then snHinge b n (.fwGrant tag addr)
    else
      let b1 := count (modSlot b n fun r => { r with holds := r.holds + 1 }) (slotCounter n 10) 1
      awaitPage b1 n { tag := tag, addr := addr, region := x.1, page := x.2, at' := nowNs b }

def execFwReq (slot : Fin 16) (err : HingeErr) (tag : W16) (addr : Nat) (s : State) : Host.Outcome State Fault Refusal :=
  act s (onHinge slot.val err (effFwReq slot.val tag addr))

/-- The page that a push may start with: urgent ones first, each kind while it has a credit (R188, R192). -/
def nextPush (s : Sentinel) : Option PushPage :=
  let ready (u : Bool) : Option PushPage := s.pushBuf.find? fun p => p.urgent == u && p.sentAs.isNone
  (if s.urgentCredit = 0 then none else ready true).orElse fun _ => if s.preCredit = 0 then none else ready false

/-- PAGE_PUSH_START: the sentinel starts a page push stream (Table 7.4); the queue that waited for it moves on (R188). -/
def effPushStart (n : Nat) (b : Block) : Block :=
  let s := getSn b n
  if !s.tetherUp then b
  else
    match nextPush s with
    | none => b
    | some p =>
      let deep := s.regions.any fun d => d.region.val == p.region && d.deepOnly
      let m : PagePush := { gathering := p.gathering, tenant := Fin.ofNat 1024 (getSlot b n).tenant,
                            region := Fin.ofNat 64 p.region, urgent := p.urgent, deep := deep, page := p.page,
                            edition := p.edition, domain := p.domain, crc := crc32c p.data, readTime := p.readTime,
                            data := p.data }
      let mark (x : PushPage) : PushPage :=
        if x.region = p.region ∧ x.page = p.page ∧ x.gathering = p.gathering then { x with sentAs := some s.nextStream } else x
      let s1 := { s with pushBuf := s.pushBuf.map mark,
                         urgentCredit := if p.urgent then s.urgentCredit - 1 else s.urgentCredit,
                         preCredit := if p.urgent then s.preCredit else s.preCredit - 1 }
      ship (snTell (setSn b n s1) n (.pagePush m)) n

def execPagePushStart (slot : Fin 16) (s : State) : Host.Outcome State Fault Refusal := act s (effPushStart slot.val)

/-- CREDIT: credits add up; pace share and PREGATHER_EN are taken (R188, R192). -/
def effCredit (n : Nat) (c : CreditMsg) (b : Block) : Block :=
  startNext (modSn b n fun s =>
    { s with urgentCredit := s.urgentCredit + c.urgent, preCredit := s.preCredit + c.pre, paceMBs := c.paceMBs,
             pregatherEn := c.pregatherEn }) n

def execCredit (slot : Fin 16) (c : CreditMsg) (s : State) : Host.Outcome State Fault Refusal :=
  act s (effCredit slot.val c)

/-! ## PAGE_PUSH_RECEIVED (R190) -/

/-- Consecutive CRC failures of a page, with this one. -/
def crcFailed (s : SlotRec) (region page : Nat) : Nat :=
  (((s.crcFails.find? fun x => x.1 == region && x.2.1 == page).map fun x => x.2.2).getD 0) + 1

/-- Forgets the CRC failures of a page. -/
def dropCrc (s : SlotRec) (region page : Nat) : List (Nat × Nat × Nat) :=
  s.crcFails.filter fun x => !(x.1 == region && x.2.1 == page)

/-- Pages of a slot that its gathering tracks. -/
def trackedPages (s : SlotRec) : Nat := listSum ((s.regions.filter (tracks s.deep)).map regionPages)

/-- Case 1: a push of another gathering or of an old edition. -/
def pushStale (s : SlotRec) (p : PagePush) : Bool :=
  let copying := match s.gphase with
    | .copying | .copied | .digested => true
    | .idle | .abandoned => false
  !copying || s.gathering != p.gathering || (p.domain != 0xFF && p.edition != tabGet 0 s.editionCopy p.domain.toNat)

/-- Case 4: the page goes to staging. -/
def stagePage (b : Block) (n : Nat) (p : PagePush) : Block :=
  let s := getSlot b n
  let page : StagedPage := { slot := n, tenant := s.tenant, gathering := s.gathering, region := p.region.val, page := p.page,
                             data := p.data }
  let staged := s.staged ++ [(p.region.val, p.page)]
  let b1 := setSlot { b with gt := { b.gt with staging := b.gt.staging ++ [page] } } n
    { s with staged := staged, crcFails := dropCrc s p.region.val p.page,
             gphase := if s.gphase = .copying && decide (trackedPages s ≤ staged.length) then .copied else s.gphase }
  let b2 := count (count b1 (bindCounter 3) 1) (slotCounter n (if p.urgent then 9 else 8)) 1
  stageLevel b2

def effPagePush (n : Nat) (stream : W16) (p : PagePush) (b : Block) : Block :=
  let s := getSlot b n
  let say (k : AckKind) (b : Block) : Block := tellSn b n (.ack k stream 0)
  let b1 :=
    if pushStale s p then
      say .stale (raise { b with gt := { b.gt with dropCount := b.gt.dropCount + 1 } } .gt 8 (aboutSlot b n))
    else if s.staged.contains (p.region.val, p.page) then say .ack b
    else if crc32c p.data ≠ p.crc then
      let k := crcFailed s p.region.val p.page
      let b1 := raise (say .nak b) .gt 9 (aboutSlot b n)
      let b2 := modSlot b1 n fun s => { s with crcFails := dropCrc s p.region.val p.page ++ [(p.region.val, p.page, k)] }
      if k ≥ 3 then abandonSlot (fileSlot b2 .pageCrc n) n true false else b2
    else say .ack (stagePage b n p)
  returnCredit b1 n p.urgent

def execPagePushReceived (slot : Fin 16) (stream : W16) (p : PagePush) (s : State) : Host.Outcome State Fault Refusal :=
  act s (effPagePush slot.val stream p)

/-! ## PAGE_DIGESTED (R191, R194) -/

/-- The signature that holds a page of a region at a slot's rank. -/
def sigOfPage (b : Block) (p : StagedPage) : Option SigWork :=
  let g := getG b p.tenant p.gathering
  (slotRank? b (getTen b p.tenant) p.slot).bind fun k =>
    g.sigs.find? fun w => w.rank == k && w.region == p.region && w.index == p.page / (2 ^ g.sigShift / 65536)

/-- An owner's page passes to the binding: its signature's extent is allocated with the first page (R204, R206, R207). -/
def bindPage (b : Block) (p : StagedPage) (w : SigWork) (digest : BitVec 256) : Block :=
  let t := p.tenant
  let n := p.gathering
  let g := getG b t n
  match sigIndex b t g w with
  | none => b
  | some idx =>
    let h := mkHandle t n idx
    let k := p.page % (2 ^ g.sigShift / 65536)
    let put (b : Block) (e : Extent) : Block :=
      count (setExtent b { e with bytes := patchBytes e.bytes (k * 65536) p.data, pageDigests := setNth e.pageDigests k digest })
        (bindCounter 2) 65536
    match sigExtent b t n h with
    | some e => put b e
    | none =>
      match allocExtent b { kind := .data, tenant := t, gathering := n, handle := h, length := w.pages * 65536 } with
      | some (b1, e) => put b1 e
      | none => bindStop b t n

/-- Every page of a signature is digested: the owner compares, or the owner is told; the owner's stripable bytes go to the
holders of their parity (R194, R210). -/
def sigDone (b : Block) (t n : Nat) (w : SigWork) : Block :=
  match sigRegion b t w with
  | none => b
  | some d =>
    let digest := listDigest ((upFrom 0 w.pages).map (tabGet 0 w.digests))
    if !w.owned then sendDigest (modSig b t n w fun x => { x with digest := some digest }) t n w d digest
    else
      let b1 := modSig b t n w fun x =>
        { x with digest := some digest, digestedAt := nowNs b, matched := decide (w.groupSize = 1) }
      let b2 := compareSig b1 t n w
      let g := getG b2 t n
      match sigIndex b2 t g w with
      | none => b2
      | some idx =>
        if !stripable g w || g.bindStopped then b2
        else
          match sigExtent b2 t n (mkHandle t n idx) with
          | none => b2
          | some e =>
            let bad := badIn e 0 e.length
            if !bad.isEmpty then failVote (countBad (raise b2 .bd 8 (aboutTen b2 t)) bad.length) t n false
            else
            let q := ((stripeRows b2 t g).findIdx? fun x => isSig x.2 w).getD 0
            sendCounts (sendParity b2 t n q { w with digest := some digest } idx (readBytes e.bytes 0 e.length)) t n

/-- The signature's record takes a page digest, and is finished with its last one. -/
def sigPage (b : Block) (p : StagedPage) (digest : BitVec 256) : Block :=
  let t := p.tenant
  let n := p.gathering
  match sigOfPage b p with
  | none => b
  | some w =>
    let g := getG b t n
    let w1 := { w with digests := tabPut w.digests (p.page % (2 ^ g.sigShift / 65536)) digest }
    let b1 := modSig b t n w fun _ => w1
    let b2 := if w.owned && !g.bindStopped && !g.noMap then bindPage b1 p w digest else b1
    if w1.digests.length = w1.pages then sigDone b2 t n w1 else b2

/-- The binding engine digests the page that arrived first. -/
def effDigestPage (b : Block) : Block :=
  match b.gt.staging with
  | [] => b
  | p :: rest =>
    let digest := sha256 p.data
    let b1 := count (count { b with gt := { b.gt with staging := rest } } (bindCounter 4) 1) (bindCounter 0) 65536
    let b2 := modSlot b1 p.slot fun s =>
      let done := s.digestedPages ++ [(p.region, p.page)]
      { s with digestedPages := done,
               gphase := if s.gphase = .copied && decide (trackedPages s ≤ done.length) then .digested else s.gphase }
    let b3 := sigPage b2 p digest
    slotHandOver p.tenant p.gathering (admitOne (stageLevel b3))

def execPageDigested (s : State) : Host.Outcome State Fault Refusal := act s effDigestPage

/-! ## DIGEST and its timeout (R194-R196) -/

def effDigest (t : Nat) (d : DigestMsg) (b : Block) : Block :=
  slotHandOver t (handleGathering d.handle) (ownerDigest b t d)

/-- DIGEST_TIMEOUT: a member's digest is missing GT_DIGEST_TIMEOUT after the owner's own (R196). -/
def effDigestTimeout (t : Nat) (h : W64) (b : Block) : Block :=
  let n := handleGathering h
  let g := getG b t n
  match g.sigs.find? fun w => w.owned && sigIndex b t g w == some (handleIndex h) with
  | none => b
  | some w =>
    let missing := w.digest.isSome && !w.matched && decide (w.others.length + 1 < w.groupSize)
    if missing && decide (w.digestedAt + b.gt.digestTimeoutMs * 1000000 ≤ nowNs b) && !g.rolledBack && !g.released then failVote (raise b .gt 5 { aboutTen b t with arg := h.toNat }) t n false
    else b

def execDigestTimeout (tenant : Fin 1024) (handle : W64) (s : State) : Host.Outcome State Fault Refusal :=
  act s (effDigestTimeout tenant.val handle)

/-! ## GATHER_ARM and GATHER_START (R181, R199, R200) -/

/-- A descriptor's fields in their ranges, and within the memory of the slot's declaration. -/
def regionOk (rank : Nat) (m : Declare) (d : RegionDesc) : Bool :=
  decide (d.base % 65536 = 0) && decide (d.length % 65536 = 0) && decide (65536 ≤ d.length) && decide (d.cls.toNat ≤ 5) &&
    decide (d.region.val < 64) &&
    within 1 64 d.groupSize && d.rsv == 0 && decide (m.memBase ≤ d.base) &&
    decide (d.base + d.length ≤ m.memBase + m.memPages * 65536) &&
    (decide (d.groupSize = 1) ||
      (within 1 262143 d.repStride && decide (d.repFirst < 262144) && decide (d.repFirst ≤ rank) &&
        decide ((rank - d.repFirst) % d.repStride = 0) && decide ((rank - d.repFirst) / d.repStride < d.groupSize)))

/-- No two regions share a number or overlap. -/
def regionsApart : List RegionDesc → Bool
  | [] => true
  | d :: r => (r.all fun x => d.region != x.region &&
      (decide (d.base + d.length ≤ x.base) || decide (x.base + x.length ≤ d.base))) && regionsApart r

/-- The list in FROM_GATHERING's force: a gathering that has not started; 0 is the next start. -/
def notStarted (r : TenantRec) (n : Nat) : Bool := n == 0 || decide (r.started < n)

def effGatherArm (iss : Issuer) (p : GatherArmP) (b : Block) : Block :=
  let t := iss.tenant.val
  let r := getTen b t
  let done := complete b iss 0x0501
  let slot := placeSlot (nthD 0 r.places p.rank)
  if !fromCreator b iss then done stNotAuthorised
  else if p.rsv || decide (p.action.toNat > 1) || !(localRanks b r).contains p.rank || !notStarted r p.fromGathering then
    done stBadParam
  else
    match (getSn b slot).decl.bind fun _ => (getSlot b slot).decl with
    | none => done stBadParam
    | some m =>
      let okList := within 1 64 p.count && p.list.length == p.count && p.list.all (regionOk p.rank m) && regionsApart p.list
      if p.action = 0 && !okList then done stBadParam
      else
        let l : PendList := { slot := slot, from' := p.fromGathering, list := if p.action = 0 then p.list else [] }
        complete (modTen b t fun r => { r with pendLists := (r.pendLists.filter fun x => x.slot != slot) ++ [l] }) iss 0x0501 stOk

def execGatherArm (iss : Issuer) (p : GatherArmP) (s : State) : Host.Outcome State Fault Refusal := act s (effGatherArm iss p)

def effGatherStart (iss : Issuer) (p : GatherStartP) (b : Block) : Block :=
  let t := iss.tenant.val
  let r := getTen b t
  let done := complete b iss 0x0502
  if !fromCreator b iss then done stNotAuthorised
  else if p.rsv || decide (p.action.toNat > 1) || decide (p.gathering ≤ r.started) then done stBadParam
  else if p.action = 0 then
    if r.deepMark ≠ 0 && r.deepMark ≠ p.gathering then done stNoResource
    else complete (modTen b t fun r => { r with deepMark := p.gathering }) iss 0x0502 stOk
  else complete (modTen b t fun r => { r with deepMark := if r.deepMark = p.gathering then 0 else r.deepMark }) iss 0x0502 stOk

def execGatherStart (iss : Issuer) (p : GatherStartP) (s : State) : Host.Outcome State Fault Refusal :=
  act s (effGatherStart iss p)

end Sys2Proof.Machine
end

