-- ==== Sys2Proof/Machine/Suspects.lean ====
section
/-!
DEFINITION. Machine/Suspects.lean: the commands of chapter 11 that report, probe and age suspects, and the host's and the
leader's recovery commands.
-/

namespace Sys2Proof.Machine

/-! ## Suspect cells -/

/-- A REPORT or SUMMARY cell reaches this GLT (R285-R291). -/
def onReport (r : RepBody) (b : Block) : Block := receiveReport b r (.report r)
def onSummary (r : RepBody) (b : Block) : Block := receiveReport b r (.summary r)

/-- FW_ALIVE: the firmware heartbeat has advanced within the last 10 ms (R286). -/
def fwAlive (b : Block) : Bool := b.fw.heartbeat != 0 && decide (nowNs b ≤ b.sus.fwBeatAt + 10000000)

/-- A PROBE is answered by the GLT that it names and passed on by the others (R286). -/
def onProbe (p : ProbeBody) (b : Block) : Block :=
  if p.target = ownPlace b then
    let ack : ProbeBody := { fwAlive := fwAlive b, target := p.target, arbiter := p.arbiter, probeId := p.probeId }
    sendSuspectCell b p.arbiter (.probeAck ack)
  else sendSuspectCell b p.target (.probe p)

/-- A PROBE_ACK reaches the arbiter: with FW_ALIVE the target lives, without it the target is silent (R286, R290). -/
def onProbeAck (p : ProbeBody) (b : Block) : Block :=
  if p.arbiter ≠ ownPlace b then sendSuspectCell b p.arbiter (.probeAck p)
  else
    match findEntry b p.target with
    | none => b
    | some i =>
      let e := getEntry b i
      if e.probeUntil.isNone || e.probeId ≠ p.probeId then b
      else weigh (setEntry b i { e with probeUntil := none, silent := !p.fwAlive }) i

/-- SUSPECT reaches a GLT: a unicast one goes on toward the leader; a broadcast one passes on; the leader acts (R292,
R295). -/
def onSuspect (port : Nat) (hdr : CellHdr) (c : SuspectBody) (b : Block) : Block :=
  if placeLevel c.target ≤ 1 then
    match tenantOfPlace b c.target with
    | none => b
    | some t =>
      if isLeader b t then recSuspect (isoFailAt b t c.kind c.target) t c.target
      else sendSuspectCell b (leaderOf b t) (.suspect c)
  else takeLeads b (onSuspectTray (passBroadcast b 3 port hdr (.suspect c)) c.target)

/-- A pending TIP_IN of the tenant completes. -/
def finishTip (b : Block) (t : Nat) (st : Byte) : Block :=
  match (getTen b t).rec'.tip with
  | none => b
  | some w => complete (modRec b t fun r => { r with tip := none }) w.iss 0x0604 st

/-- RESTORED reaches the leader, or goes on toward it (R295); a TIP_IN whose restore another tray ran completes with it. -/
def onRestored (t : Nat) (status : Byte) (p : Place) (b : Block) : Block :=
  let tipped := match (getTen b t).rec'.tip with
    | some w => w.answered && w.restore && trayOf (nthD 0 (getTen b t).places w.rank) == p
    | none => false
  if isLeader b t then recRestored (if tipped then finishTip b t status else b) t p status
  else sendSuspectCell b (leaderOf b t) (.restored (Fin.ofNat 1024 t) status p)

/-! ## Windows, probes and ageing -/

/-- Takes a target out of the names kept for the windows now closed (R291). -/
def dropNames (b : Block) (p : Place) : Block :=
  { b with sus := { b.sus with named := without b.sus.named p,
                               byReporter := b.sus.byReporter.map fun x => (x.1, without x.2 p) } }

/-- MERGE_WINDOW_CLOSE: the window of an entry has run out and no probe is outstanding.  One SUMMARY leaves when further
reports have merged, and an undecided entry goes to WATCH (R287, R288, R290). -/
def effWindowClose (i : Nat) (b : Block) : Block :=
  let e := getEntry b i
  if !windowOpen e || nowNs b < e.windowEnd || e.probeUntil.isSome then b
  else
    let st := if e.state = EntryState.opened then EntryState.watch else e.state
    let b1 := dropNames (setEntry b i { e with state := st, windowEnd := 0, merged := 0, mergedConcl := false, probed := false }) e.target
    if e.merged = 0 then b1
    else if arbiterOf b e.target = ownPlace b then informHost b1
    else
      let s : RepBody := { kind := e.kind, self := e.selfRep, conclusive := e.mergedConcl, distinct := min 255 b.sus.named.length,
                           target := e.target, reporter := e.last, count := min 65535 e.merged,
                           time := stamp48 (nowNs b) }
      sendSuspectCell b1 (arbiterOf b e.target) (.summary s)

def execMergeWindowClose (entry : Fin 4096) (s : State) : Host.Outcome State Fault Refusal :=
  act s (effWindowClose entry.val)

/-- PROBE_TIMEOUT: no PROBE_ACK within SR_PROBE_TIMEOUT makes the target silent (R286, R290). -/
def effProbeTimeout (i : Nat) (b : Block) : Block :=
  let e := getEntry b i
  match e.probeUntil with
  | none => b
  | some t =>
    if nowNs b < t then b else weigh (setEntry b i { e with probeUntil := none, silent := true }) i

def execProbeTimeout (entry : Fin 4096) (s : State) : Host.Outcome State Fault Refusal :=
  act s (effProbeTimeout entry.val)

/-- SR_AGE: a WATCH entry without a new report for SR_AGE returns to FREE (R288). -/
def effAge (i : Nat) (b : Block) : Block :=
  let e := getEntry b i
  if e.state = .watch && !windowOpen e && decide (e.lastTime + b.sus.ageS * nsPerSec ≤ nowNs b) then setEntry b i {}
  else b

def execSrAge (entry : Fin 4096) (s : State) : Host.Outcome State Fault Refusal := act s (effAge entry.val)

/-- Removes a SUSPECT entry. -/
def clearEntry (i : Nat) (b : Block) : Block := if (getEntry b i).state = .suspect then setEntry b i {} else b

/-- Removes the SUSPECT entry of a target that is readmitted or untrimmed (R288). -/
def clearTarget (b : Block) (p : Place) : Block :=
  match findEntry b p with
  | none => b
  | some i => clearEntry i b

/-- SR_CLEAR: bit 31 clears every SUSPECT entry, else the entry named is cleared (Table 11.7).  With bit 31 the GLT also
forgets the trays that SUSPECT broadcasts named (DESIGN CHOICE, log entry 167). -/
def effSrClear (v : W32) (b : Block) : Block :=
  if v.getLsbD 31 then each (b.sus.entries.map Prod.fst) clearEntry { b with sus := { b.sus with told := [] } }
  else clearEntry (field v 0 12) b

def execSrClear (pf : Fin 4) (val : W32) (s : State) : Host.Outcome State Fault Refusal :=
  act s fun b => adminWrite b pf.val 0xA5044 (effSrClear val)

/-- TETHER_LOST: a Tether port has been down for SR_LINK_GRACE (R283, R284). -/
def effTetherLost (n : Nat) (b : Block) : Block :=
  match (getLink b (8 + n)).downSince with
  | none => b
  | some t => if nowNs b < t + b.sus.linkGraceMs * 1000000 then b else fileSlot b .tetherLost n

def execTetherLost (slot : Fin 16) (s : State) : Host.Outcome State Fault Refusal := act s (effTetherLost slot.val)

/-! ## Recovery timers -/

/-- RESTORE_TIMEOUT: no RESTORED, or no answer to a tip-in, in time: WAIT_HOST (R295); a TIP_IN whose spare's GLT has
not answered completes with TIMEOUT (R304). -/
def effRestoreTimeout (t : Nat) (b : Block) : Block :=
  let r := (getTen b t).rec'
  let b1 := match r.tip with
    | some w => if w.until' ≤ nowNs b && !w.answered then finishTip b t stTimeout else b
    | none => b
  match r.phase with
  | .acting | .restoring => if r.restoreAt ≤ nowNs b then waitHost b1 t else b1
  | .none | .holding | .replaying | .isolating | .waitHost => b1

def execRestoreTimeout (tenant : Fin 1024) (s : State) : Host.Outcome State Fault Refusal :=
  act s (effRestoreTimeout tenant.val)

/-- FAILED_VOTE_WAIT: SR_MERGE_WINDOW has passed since a failed vote with no SUSPECT: the tenant is rolled back with no
part removed (R296). -/
def effFailedVoteWait (t : Nat) (b0 : Block) : Block :=
  b0 |> whenFw (.voteWait t) fun b =>
  match (getTen b t).rec'.failedVoteAt with
  | none => b
  | some at' =>
    if nowNs b < at' then b
    else
      let b1 := modRec b t fun r => { r with failedVoteAt := none }
      if isLeader b t && !heldOrHolding (getTen b t).hold then recBegin b1 t [] else b1

def execFailedVoteWait (tenant : Fin 1024) (s : State) : Host.Outcome State Fault Refusal :=
  act s (effFailedVoteWait tenant.val)

/-! ## TRIM_UNIT, WITHDRAW and the messages of a tip-in -/

/-- The administrating PF, or the creating PF of the tenant that a slot of this tray serves (chapter 11, Commands). -/
def mayRecover (b : Block) (iss : Issuer) (n : Option Nat) : Bool :=
  isAdmin b iss ||
    match n.bind (slotTenant? b) with
    | none => false
    | some t => isPf iss && iss.pf.val == (getTen b t).creatingPf

/-- Whether the slot's tenant is held. -/
def slotHeld (b : Block) (n : Nat) : Bool :=
  match slotTenant? b n with
  | none => false
  | some t => tenantHeld b t

/-- The slot of a place on this tray. -/
def localSlot (b : Block) (p : Place) : Option Nat := if placeOk p && onTray b p then some (placeSlot p) else none

/-- TRIM_UNIT (R303). -/
def effTrimUnit (iss : Issuer) (p : TrimUnitP) (b : Block) : Block :=
  let n := (localSlot b p.place)
  let done := complete b iss 0x0603
  if !placeOk p.place then done stBadParam
  else if !mayRecover b iss n then done stNotAuthorised
  else if p.rsv || decide (p.action.toNat > 1) then done stBadParam
  else
    match n with
    | none => done stBadParam
    | some k =>
      let s := getSlot b k
      let u := placeUnit p.place
      if placeLevel p.place ≠ 0 || decide (((s.decl.map fun d => d.nUnits).getD 0) ≤ u) then done stBadParam
      else if p.action = 0 then
        trimSlot (modSlot b k fun r => { r with trimIss := r.trimIss ++ [(u, true, iss)] }) k u true
      else if s.role = roleIdle || s.role = roleSpare || slotHeld b k then
        startSpec b k (some u) (some iss)
      else done stRefused

def execTrimUnit (iss : Issuer) (p : TrimUnitP) (s : State) : Host.Outcome State Fault Refusal :=
  act s (effTrimUnit iss p)

/-- Whether the slot's tenant is being recovered: WITHDRAW and TIP_IN are then refused (Table 11.5). -/
def recBusy (b : Block) (t : Nat) : Bool :=
  match (getTen b t).rec'.phase with
  | .acting | .restoring => true
  | .none | .holding | .replaying | .isolating | .waitHost => false

/-- WITHDRAW (R305): a withdrawal, or a readmission that powers the slot on and waits for RUNNING. -/
def effWithdraw (iss : Issuer) (p : WithdrawP) (b : Block) : Block :=
  let n := localSlot b p.place
  let done := complete b iss 0x0605
  if !placeOk p.place then done stBadParam
  else if !mayRecover b iss n then done stNotAuthorised
  else if p.action = 1 && !isAdmin b iss then done stNotAuthorised
  else if p.rsv || decide (p.action.toNat > 1) || decide (placeLevel p.place ≠ 1) then done stBadParam
  else
    match n with
    | none => done stBadParam
    | some k =>
      let s := getSlot b k
      let busy := ((slotTenant? b k).map (recBusy b)).getD false
      if busy then done stRefused
      else if p.action = 0 then
        if (s.role = roleActive && !slotHeld b k) then done stRefused
        else
          let b1 := withdrawSlot b k
          complete (if p.powerOff then slotOff b1 k else b1) iss 0x0605 stOk
      else if s.role ≠ roleWithdrawn then done stRefused
      else readmitSlot b k (some iss)

def execWithdraw (iss : Issuer) (p : WithdrawP) (s : State) : Host.Outcome State Fault Refusal :=
  act s (effWithdraw iss p)

/-- SPARE_CLAIM: a claim reaches the spare's GLT, which grants it in order of arrival: the tip-in takes effect (R297,
R298).  The failed accelerator's declaration is known only on its own tray. -/
def effSpareClaim (t n : Nat) (failed : Place) (rank : Nat) (requester : Place) (b : Block) : Block :=
  let fd := if onTray b failed then (getSlot b (placeSlot failed)).decl else (getSlot b n).decl
  let group := if onTray b failed then (getSlot b (placeSlot failed)).group else (getSlot b n).group
  if spareFits b n group fd then tipInHere b t rank n failed
  else emit b (.order requester (.noResource t rank))

def execSpareClaim (tenant : Fin 1024) (slot : Fin 16) (failed : Place) (rank : Nat) (requester : Place) (s : State) :
    Host.Outcome State Fault Refusal := act s (effSpareClaim tenant.val slot.val failed rank requester)

/-- PLACE_LIST_UPDATE: the rank's place becomes the spare's; the failed slot on this tray is withdrawn; a leader that
waited for the tip-in orders the restores (R298, R295). -/
def effPlaceUpdate (t rank : Nat) (p : Place) (b : Block) : Block :=
  let old := nthD 0 (getTen b t).places rank
  let b1 := setRankPlace b t rank p
  let b2 := if onTray b old && old ≠ p && decide (rank < (getTen b t).places.length) then withdrawSlot b1 (placeSlot old)
            else b1
  let b3 := match (getTen b t).rec'.tip with
    | some w =>
      if w.rank ≠ rank || w.answered then b2
      else if !w.restore then finishTip b2 t stOk
      else
        let b := modRec b2 t fun r => { r with tip := some { w with answered := true } }
        emit b (.order (trayOf p) (.restore t))
    | none => b2
  if (getTen b t).rec'.phase = .acting && isLeader b3 t then orderRestores b3 t else b3

def execPlaceListUpdate (tenant : Fin 1024) (rank : Nat) (place : Place) (s : State) :
    Host.Outcome State Fault Refusal := act s (effPlaceUpdate tenant.val rank place)

end Sys2Proof.Machine
end

