-- ==== Sys2Proof/Machine/RestoreOps.lean ====
section
/-!
DEFINITION. Machine/RestoreOps.lean: degraded reads (R209, R212, R213), restore jobs page by page (R218-R223, R226), and the
broadcast tree as the source uses it (R145, R146).
-/

namespace Sys2Proof.Machine

/-! ## Broadcasts of this GLT -/

/-- The place of the whole system, above the levels of Table 1.4 (DESIGN CHOICE, log entry 156). -/
def systemScope : Place := mkPlace 6 0 0 0 0 0 0

/-- The smallest subtree, from a rack up, of the GLT at `p` that reaches up to ring `top`. -/
def subtreeOf (p : Place) (top : Nat) : Place :=
  match top with
  | 0 => mkPlace 3 (placeHall p) (placeBlock p) (placeRack p) 0 0 0
  | 1 => mkPlace 4 (placeHall p) (placeBlock p) 0 0 0 0
  | 2 => mkPlace 5 (placeHall p) 0 0 0 0 0
  | _ => systemScope

/-- The top ring of a subtree. -/
def scopeTop (p : Place) : Nat := placeLevel p - 3

/-- The member by which a broadcast from `src` enters ring `k` of the GLT at `o`: the source's own member in the rings that it
shares with it, and elsewhere the delegate through which the tree comes down (R145). -/
def bcastEntry (k : Nat) (o src : Place) : Nat :=
  let hall := placeHall o == placeHall src
  let block := hall && placeBlock o == placeBlock src
  match k with
  | 0 =>
    if block && placeRack o == placeRack src then placeTray src
    else if block || placeRack o ≠ 0 then 0
    else if hall || placeBlock o ≠ 0 then 1
    else 2
  | 1 => if block then placeRack src else 0
  | 2 => if hall then placeBlock src else 0
  | _ => placeHall src

/-- The rings within a frame's scope that its broadcast enters here. -/
def bcastStarts (b : Block) (f : DataFrame) : List Nat :=
  (ownRings b (scopeTop f.dest)).filter fun k => memberNo k (ownPlace b) == bcastEntry k (ownPlace b) f.src

/-- Whether a frame goes east round the rings that it enters: even-numbered ones do (R145). -/
def goesEast (f : DataFrame) : Bool := f.offset / 4096 % 2 == 0

/-- The next present member of ring `k` in a direction. -/
def nextMember (b : Block) (k : Nat) (east : Bool) : Nat :=
  let n := ringSize k
  let a := memberNo k (ownPlace b)
  let at' (i : Nat) : Nat := if east then (a + i) % n else (a + n - i) % n
  ((upFrom 1 (n - 1)).find? fun i => ringHas b k (at' i)).elim a at'

/-- Sends a frame on round ring `k`; its direction ends at the last member before the one by which it entered. -/
def bcastOn (ty : FrameType) (f : DataFrame) (k : Nat) (east : Bool) (b : Block) : Block :=
  if nextMember b k east = bcastEntry k (ownPlace b) f.src || ringAlone b k then b
  else sendFrameHop b (if east then eastHop k else westHop k) ty f

/-- Starts a frame on the rings that it enters here. -/
def bcastStart (ty : FrameType) (f : DataFrame) (rings : List Nat) (b : Block) : Block :=
  each rings (fun k b => bcastOn ty f k (goesEast f) b) b

/-- A broadcast of this GLT goes out, and its acknowledgements are kept track of; its own copy counts as told (R153). -/
def launchBcast (b : Block) (w : BcastWait) (cmd : Option (Issuer × Nat)) : Block :=
  let id := b.spine.nextStream
  let x : BcastSrc := { stream := id, iss := (cmd.map Prod.fst).getD {}, tenant := w.tenant,
                        resultAddr := (cmd.map Prod.snd).getD 0, expected := w.expected,
                        acked := if w.own then [ownPlace b] else [], nacked := if w.own then [] else [ownPlace b],
                        deadline := nowNs b + b.spine.bcastTimeoutS * nsPerSec, isCommand := cmd.isSome }
  let b1 := takeStream b
  let b2 := { b1 with spine := { b1.spine with bcasts := b.spine.bcasts ++ [x] } }
  let ty := FrameType.bcast w.info
  let b3 := each (cutFrames ty (frameOf b (Fin.ofNat 1024 w.tenant) w.scope id) w.bytes)
    (fun f b => bcastStart ty f (bcastStarts b f) b) b2
  count b3 (spineCounter 3) w.bytes.length

/-- Sends a broadcast of the GLT's own; with four in flight it waits (R146). -/
def sendBcast (b : Block) (w : BcastWait) : Block :=
  if 4 ≤ b.spine.bcasts.length then { b with spine := { b.spine with bcastWait := b.spine.bcastWait ++ [w] } }
  else launchBcast b w none

/-- The subtree that holds a tenant's participants and this GLT. -/
def tenantScope (b : Block) (t : Nat) : Place := subtreeOf (ownPlace b) (topRing (ownPlace b :: participants (getTen b t)))

/-- A broadcast to a tenant's participants. -/
def tenantBcast (b : Block) (t : Nat) (use : BcastUse) (bytes : List Byte) (expected : List Place) (own : Bool) : BcastWait :=
  { tenant := t, scope := tenantScope b t, info := { tenantOnly := true, use := use }, bytes := bytes, expected := expected,
    own := own }

/-! ## Jobs -/

def getJob (b : Block) (id : Nat) : Option RestoreJob := b.bd.jobs.find? fun j => j.id == id
def modJob (b : Block) (id : Nat) (f : RestoreJob → RestoreJob) : Block :=
  { b with bd := { b.bd with jobs := b.bd.jobs.map fun j => if j.id = id then f j else j } }
/-- The job that a read, or a degraded read, is for. -/
def readJob : ReadUse → Option Nat
  | .job id | .list id | .page id _ => some id
  | .frag _ _ => none
def rebuildJob : RebuildUse → Option Nat
  | .job id | .page id _ => some id
  | .repair _ _ => none
def dropJob (b : Block) (id : Nat) : Block :=
  { b with bd := { b.bd with jobs := b.bd.jobs.filter (fun j => j.id != id),
                             readsOut := b.bd.readsOut.filter (fun r => readJob r.use != some id),
                             rebuilds := b.bd.rebuilds.filter fun r => rebuildJob r.use != some id } }

/-- The result block of BIND_RESTORE (R229). -/
def jobBlock (b : Block) (j : RestoreJob) : List Byte :=
  leBytes 8 j.bytesDone ++ leBytes 4 j.remote ++ leBytes 4 j.rebuilt ++ leBytes 4 (j.firstLost.getD 0xFFFFFFFF) ++ zeroBytes 4 ++
    leBytes 8 (r111 (nowNs b)).toNat

/-- RESTORED goes to the recovery leader (R295). -/
def sendRestored (b : Block) (t : Nat) (st : Byte) : Block :=
  if isLeader b t then recRestored b t (ownPlace b) st
  else sendSuspectCell b (leaderOf b t) (.restored (Fin.ofNat 1024 t) st (ownPlace b))

/-- Ends a job: its command, its recovery or its TIP_IN hears of it. -/
def endJob (b : Block) (j : RestoreJob) (st : Byte) : Block :=
  let b1 := dropJob b j.id
  match j.for' with
  | .command => complete (hostWrite b1 j.iss j.resultAddr (jobBlock b j)) j.iss 0x0504 st
  | .tipIn => finishTip b1 j.tenant st
  | .recovery =>
    let mine := b1.bd.jobs.filter fun x => decide (x.for' = .recovery) && x.tenant == j.tenant
    if st ≠ stOk then sendRestored (each mine (fun x b => dropJob b x.id) b1) j.tenant st
    else if mine.isEmpty then sendRestored b1 j.tenant stOk
    else b1

/-- Ends a job with its first lost signature named. -/
def loseJob (b : Block) (j : RestoreJob) (st : Byte) : Block :=
  endJob b { j with firstLost := j.firstLost.orElse fun _ => j.cur.map fun d => d.index } st

/-! ## BIND_READ (R212) -/

/-- The frame of a BIND_READ goes out (Table 8.3). -/
def putRead (b : Block) (dest : Place) (r : BindReadReq) : Block :=
  count (sendTransfer b .bindRead r.tenant dest r.replyStream (readPayload r)) (bindCounter 6) 1

/-- Sends a BIND_READ for a range of an entry's extent. -/
def issueRead (b : Block) (t n : Nat) (d : DataEntry) (off len : Nat) (use : ReadUse) : Block :=
  let h : W64 := if d.parity then 0 else mkHandle t n d.index
  let r : BindReadReq := { offset := d.offset + off, length := len, replyStream := b.spine.nextStream, gathering := n, handle := h,
                           tenant := Fin.ofNat 1024 t, src := ownPlace b }
  let o : ReadOut := { req := r, dest := d.place, use := use, deadline := nowNs b + b.bd.readTimeoutMs * 1000000 }
  let b1 := takeStream b
  putRead { b1 with bd := { b1.bd with readsOut := b.bd.readsOut ++ [o] } } d.place r

/-- This GLT's extent behind an entry; `cold` chooses one loaded from a cold copy. -/
def ownExtent (b : Block) (t n : Nat) (d : DataEntry) (cold : Bool) : Option Extent :=
  b.bd.extents.find? fun e =>
    e.tenant == t && e.gathering == n && e.cold == cold &&
      (if d.parity then decide (e.kind = .parity) && e.offset == d.offset
       else decide (e.kind = .data) && e.handle == mkHandle t n d.index)

/-- The bytes of an extent where every page passes its check (R203). -/
def soundBytes (e : Extent) : Option (List Byte) :=
  if (badIn e 0 e.length).isEmpty then some (readBytes e.bytes 0 e.length) else none

/-- Whether bytes have the digest that the colophon gives them. -/
def digestIs (l : List Byte) (d : BitVec 256) : Bool := listDigest (pageDigestsOf l) == d

/-! ## Degraded reads -/

def getRebuild (b : Block) (id : Nat) : Option Rebuild := b.bd.rebuilds.find? fun r => r.id == id
def modRebuild (b : Block) (id : Nat) (f : Rebuild → Rebuild) : Block :=
  { b with bd := { b.bd with rebuilds := b.bd.rebuilds.map fun r => if r.id = id then f r else r } }
def dropRebuild (b : Block) (id : Nat) : Block :=
  { b with bd := { b.bd with rebuilds := b.bd.rebuilds.filter (fun r => r.id != id),
                             readsOut := b.bd.readsOut.filter fun o =>
                               match o.use with
                               | .frag k _ => k != id
                               | .job _ | .list _ | .page _ _ => true } }

/-- The colophon of a gathering on this GLT. -/
def colophonOf (b : Block) (t n : Nat) : Option Colophon := (getG b t n).colophon

def stripeOf (c : Colophon) (s : Nat) : StripeEntry := (c.stripes.find? fun x => x.stripe == s).getD {}

/-- The entry of a member of a stripe: data members first, then parity fragments. -/
def memberEntry (c : Colophon) (s m : Nat) : Option DataEntry :=
  let g := (stripeOf c s).g
  if m < g then c.data.find? fun d => d.stripe == some s && d.member == m
  else c.parity.find? fun d => d.stripe == some s && d.member == m - g

/-- Whether a data member of a stripe is absent: it counts as zero bytes (R209). -/
def memberAbsent (c : Colophon) (s m : Nat) : Bool :=
  let x := stripeOf c s
  decide (m < x.g) && (nthD none x.members m).isNone

/-- The row of a member over the data members: a unit row, or the Cauchy row of a parity fragment. -/
def memberRow (g mp m : Nat) : List Byte :=
  (upFrom 0 g).map fun j => if m < g then (if j = m then 1 else 0) else cauchy mp (m - g) j

/-- Adds a multiple of one equation to another. -/
def eqnAdd (c : Byte) (x y : List Byte × List Byte) : List Byte × List Byte := (gfAdd c x.1 y.1, gfAdd c x.2 y.2)

/-- One column of the elimination: the first equation with a non-zero entry becomes the pivot. -/
def eliminate (col : Nat) (l : List (List Byte × List Byte)) : Option (List (List Byte × List Byte)) :=
  let piv := (upFrom col (l.length - col)).find? fun i => nthD 0 (nthD ([], []) l i).1 col != 0
  piv.map fun i =>
    let p := nthD ([], []) l i
    let c := gfInv (nthD 0 p.1 col)
    let p1 := (p.1.map (gfMul c), p.2.map (gfMul c))
    let rest := (l.take i ++ l.drop (i + 1)).map fun e => eqnAdd (nthD 0 e.1 col) e p1
    rest.take col ++ [p1] ++ rest.drop col

/-- Solves for the data members. -/
def solve : List Nat → List (List Byte × List Byte) → Option (List (List Byte))
  | [], l => some (l.map Prod.snd)
  | c :: r, l => (eliminate c l).bind (solve r)

/-- The wanted fragment from `g` fragments. -/
def decodeSet (g mp wanted len : Nat) (fr : List (Nat × List Byte)) : Option (List Byte) :=
  (solve (upFrom 0 g) (fr.map fun x => (memberRow g mp x.1, readBytes x.2 0 len))).map fun data =>
    readBytes (foldOver (fun acc x => gfAdd x.1 acc x.2) (zeroBytes len) (List.zip (memberRow g mp wanted) data)) 0 len

/-- The sublists of a length. -/
def choose {α : Type} : Nat → List α → List (List α)
  | 0, _ => [[]]
  | _ + 1, [] => []
  | k + 1, x :: r => (choose k r).map (x :: ·) ++ choose (k + 1) r

/-- The wanted bytes from some set of `g` fragments whose result passes R203. -/
def decodeAny (g mp : Nat) (r : Rebuild) : Option (List Byte) :=
  let len := Nat.max r.length (listMax (r.frags.map fun x => x.2.length))
  (choose g r.frags).findSome? fun s =>
    match decodeSet g mp r.wanted len s with
    | none => none
    | some l =>
      let x := l.take r.length
      if (if r.whole then digestIs x r.digest else sha256 x == r.digest) then some x else none

/-- Pages of an extent here that failed their check: they are counted, and their repair is due (R203, R213). -/
def noteBad (b : Block) (e : Extent) (bad : List Nat) : Block :=
  let b1 := countBad b bad.length
  { b1 with bd := { b1.bd with repairDue := foldOver withEntry b1.bd.repairDue (bad.map fun i => (e.offset, i)) } }

/-- The bytes of a range of an extent here, where its pages pass their check; the others become due for repair. -/
def checkedRange (b : Block) (e : Extent) (off len : Nat) : Block × Option (List Byte) :=
  let bad := badIn e off len
  if bad.isEmpty then (b, some (readBytes e.bytes off len)) else (noteBad b e bad, none)

/-- Whether a fragment from elsewhere may serve: a whole one has the digest that the colophon gives it. -/
def fragOk (d : DataEntry) (r : Rebuild) (l : List Byte) : Bool := !(r.whole && decide (l.length = d.length)) || digestIs l d.digest

/-- Reads a fragment's part: absent members and what lies beyond a shorter fragment are zeros, a fragment here is checked,
another is asked for. -/
def readFrag (b : Block) (r : Rebuild) (c : Colophon) (m : Nat) : Block :=
  if memberAbsent c r.stripe m then modRebuild b r.id fun x => { x with frags := tabPut x.frags m [] }
  else
    match memberEntry c r.stripe m with
    | none => modRebuild b r.id fun x => { x with dead := x.dead ++ [m] }
    | some d =>
      let len := min r.length (d.length - r.off)
      if d.length ≤ r.off then modRebuild b r.id fun x => { x with frags := tabPut x.frags m [] }
      else if d.place = ownPlace b then
        match ownExtent b r.tenant r.gathering d false with
        | none => modRebuild b r.id fun x => { x with dead := x.dead ++ [m] }
        | some e =>
          match checkedRange b e r.off (if r.whole then d.length else len) with
          | (b1, some l) => modRebuild b1 r.id fun x => { x with frags := tabPut x.frags m l }
          | (b1, none) => modRebuild b1 r.id fun x => { x with dead := x.dead ++ [m] }
      else
        issueRead (modRebuild b r.id fun x => { x with asked := x.asked ++ [m] }) r.tenant r.gathering d r.off
          (if r.whole then d.length else len) (.frag r.id m)

/-- What a degraded read has come to. -/
inductive RebuildEnd where
  | waiting | done (bytes : List Byte) | lost
  deriving DecidableEq, Repr

/-- Moves a degraded read on: it asks for as many fragments as it needs, tries every set it has, and gives up when no further
fragment can be read (R212). -/
def pursue : Nat → Block → Nat → Block × RebuildEnd
  | 0, b, _ => (b, .waiting)
  | k + 1, b, id =>
    match getRebuild b id with
    | none => (b, .waiting)
    | some r =>
      match colophonOf b r.tenant r.gathering with
      | none => (dropRebuild b id, .lost)
      | some c =>
        let x := stripeOf c r.stripe
        match (if r.frags.length < x.g then none else decodeAny x.g x.mPrime r) with
        | some l => (dropRebuild b id, .done l)
        | none =>
          let next := (upFrom 0 (x.g + x.mPrime)).find? fun m =>
            m != r.wanted && !tabHas r.frags m && !r.asked.contains m && !r.dead.contains m
          let wants := decide (r.frags.length + r.asked.length < x.g) || r.asked.isEmpty
          match wants, next with
          | true, some m => pursue k (readFrag b r c m) id
          | true, none => if r.asked.isEmpty then (dropRebuild b id, .lost) else (b, .waiting)
          | false, _ => (b, .waiting)

/-- Starts a degraded read of an entry's bytes, or of one page with its digest; its number comes back. -/
def newRebuild (b : Block) (t n : Nat) (d : DataEntry) (page : Option (Nat × BitVec 256)) (s g : Nat) (use : RebuildUse) :
    Block × Nat :=
  let id := b.bd.nextId
  let r : Rebuild := { id := id, tenant := t, gathering := n, stripe := s, wanted := if d.parity then g + d.member else d.member,
                       off := (page.elim 0 fun p => p.1 * 65536), length := if page.isSome then 65536 else d.length,
                       whole := page.isNone, digest := page.elim d.digest Prod.snd, use := use }
  ({ b with bd := { b.bd with nextId := id + 1, rebuilds := b.bd.rebuilds ++ [r] } }, id)

/-- A degraded read has its bytes: its pages are counted and BD_ERR.DEGRADED_READ is set (R212). -/
def countRebuild (b : Block) (t bytes : Nat) : Block :=
  let b1 := { b with bd := { b.bd with repairs := b.bd.repairs + bytes / 65536 } }
  raise (count b1 (bindCounter 7) (bytes / 65536)) .bd 7 (aboutTen b t)

/-- Puts a rebuilt page into a damaged extent (R213). -/
def repairPage (b : Block) (off page : Nat) (l : List Byte) : Block :=
  match b.bd.extents.find? fun e => e.offset == off with
  | none => b
  | some e =>
    setExtent b { e with bytes := patchBytes e.bytes (page * 65536) l, badPages := without e.badPages page,
                         pageDigests := setNth e.pageDigests page (sha256 (readBytes l 0 65536)) }

/-- A page of the signature in hand has come; with the last one its bytes are all here. -/
def putPage (b : Block) (id page : Nat) (l : List Byte) : Block :=
  modJob b id fun j =>
    let rest := without j.want page
    { j with bytes := patchBytes j.bytes (page * 65536) l, want := rest, ready := rest.isEmpty }

/-- The page of a copy loaded from the drives, where it passes its check. -/
def coldPage (b : Block) (j : RestoreJob) (page : Nat) : Option (List Byte) :=
  (j.cur.bind fun d => ownExtent b j.tenant j.gathering d true).bind fun e =>
    if pageOk e page then some (readBytes e.bytes (page * 65536) 65536) else none

/-- No source can supply a job's bytes: BD_ERR.LOST and NO_RESOURCE (R212, R221).  A REBUILD tells the lead controller what it
has moved before that. -/
def jobLost (b : Block) (j : RestoreJob) : Block :=
  let b1 := raise b .bd 8 (aboutTen b j.tenant)
  if j.action = 1 then
    modJob b1 j.id fun x => { x with firstLost := x.firstLost.orElse fun _ => j.cur.map fun d => d.index, cur := none }
  else loseJob b1 j stNoResource

/-- The signature in hand is lost as a whole: a copy loaded from the drives stands in (R221). -/
def sigLost (b : Block) (j : RestoreJob) : Block :=
  match (j.cur.bind fun d => ownExtent b j.tenant j.gathering d true).bind soundBytes with
  | some l => modJob b j.id fun x => { x with bytes := l, ready := true, want := [] }
  | none => jobLost b j

/-- A rebuilt page of the signature in hand: it also repairs the extent here that it belongs to. -/
def settlePage (b : Block) (id p : Nat) (l : List Byte) : Block :=
  let b1 := modJob b id fun j => { j with rebuilt := j.rebuilt + 1 }
  let own := (getJob b1 id).bind fun j => j.cur.bind fun d =>
    if d.place = ownPlace b1 then ownExtent b1 j.tenant j.gathering d false else none
  match own with
  | some e => putPage (repairPage b1 e.offset p l) id p l
  | none => putPage b1 id p l

/-- A degraded read has its bytes. -/
def settleDone (use : RebuildUse) (b : Block) (l : List Byte) : Block :=
  match use with
  | .job id => modJob b id fun j => { j with bytes := l, ready := true, want := [], rebuilt := j.rebuilt + l.length / 65536 }
  | .page id p => settlePage b id p l
  | .repair off p => coldResume (repairPage b off p l)

/-- A page of the signature in hand is lost: a copy loaded from the drives stands in (R221). -/
def pageLost (b : Block) (p : Nat) (j : RestoreJob) : Block :=
  match coldPage b j p with
  | some l => putPage b j.id p l
  | none => jobLost b j

/-- Whether a tenant's cold copy waits for repairs. -/
def coldWaits (b : Block) (t : Nat) : Bool := b.bd.cold.any fun c => c.step == .repair && c.tenant == t

/-- A page here cannot be repaired: BD_ERR.LOST; a cold copy that waits for it stops. -/
def repairLost (b : Block) (t : Nat) : Block :=
  if coldWaits b t then stopCold (raise b .bd 8 (aboutTen b t)) else raise b .bd 8 (aboutTen b t)

/-- A degraded read has found its bytes lost. -/
def settleLost (use : RebuildUse) (t : Nat) (b : Block) : Block :=
  match use with
  | .job id => (getJob b id).elim b (sigLost b)
  | .page id p => (getJob b id).elim b (pageLost b p)
  | .repair _ _ => repairLost b t

/-- A degraded read has ended, or waits. -/
def settleRebuild (use : RebuildUse) (t : Nat) (x : Block × RebuildEnd) : Block :=
  match x.2 with
  | .waiting => x.1
  | .done l => settleDone use (countRebuild x.1 t l.length) l
  | .lost => settleLost use t x.1

/-- Moves a degraded read on. -/
def runRebuild (b : Block) (id : Nat) : Block :=
  match getRebuild b id with
  | none => b
  | some r => settleRebuild r.use r.tenant (pursue 40 b id)

/-- A degraded read of an entry, or of one page of it; an unstriped one is lost (R212). -/
def degraded (b : Block) (t n : Nat) (d : DataEntry) (page : Option (Nat × BitVec 256)) (use : RebuildUse) : Block :=
  match d.stripe, colophonOf b t n with
  | some s, some c =>
    let r := newRebuild b t n d page s (stripeOf c s).g use
    runRebuild r.1 r.2
  | _, _ => settleRebuild use t (b, .lost)

/-! ## Repairs in place (R213) -/

/-- The entry of a fragment that this GLT holds at an offset. -/
def ownEntryAt (b : Block) (t n off : Nat) : Option DataEntry :=
  (colophonOf b t n).bind fun c => (c.data ++ c.parity).find? fun d => d.place == ownPlace b && d.offset == off

/-- A page that failed its check is rebuilt in place, unless it is sound again or lies in nothing that a colophon names. -/
def startRepair (b : Block) (off page : Nat) : Block :=
  match b.bd.extents.find? fun e => e.offset == off with
  | none => b
  | some e =>
    if pageOk e page then coldResume b
    else
      match ownEntryAt b e.tenant e.gathering off with
      | none => b
      | some d => degraded b e.tenant e.gathering d (some (page, nthD 0 e.pageDigests page)) (.repair off page)

/-- The repairs that are due start. -/
def startRepairs (b : Block) : Block :=
  each b.bd.repairDue (fun x b => startRepair b x.1 x.2) { b with bd := { b.bd with repairDue := [] } }

/-! ## A job's signature in hand (R221, R222) -/

/-- The pages still wanted of the signature in hand are fetched one by one: from the holding GLT, or from parity where this
GLT holds it itself (R221). -/
def fetchPages (b : Block) (id : Nat) : Block :=
  match getJob b id with
  | none => b
  | some j =>
    match j.cur with
    | none => b
    | some d =>
      let go (p : Nat) (b : Block) : Block :=
        if d.place = ownPlace b then degraded b j.tenant j.gathering d (some (p, nthD 0 j.pageDigs p)) (.page id p)
        else issueRead b j.tenant j.gathering d (p * 65536) 65536 (.page id p)
      each j.want (fun p b => if (getJob b id).any fun k => k.cur == some d then go p b else b) b

/-- Takes the bytes of the entry in hand from the first source that can supply them: here, the holding GLT, parity; of an
extent here only the pages that fail their check are rebuilt. -/
def fetchSig (b : Block) (j : RestoreJob) (d : DataEntry) : Block :=
  if d.place = ownPlace b then
    match ownExtent b j.tenant j.gathering d false with
    | none => degraded b j.tenant j.gathering d none (.job j.id)
    | some e =>
      let bad := badIn e 0 e.length
      if e.lost then degraded b j.tenant j.gathering d none (.job j.id)
      else if bad.isEmpty then modJob b j.id fun x => { x with bytes := readBytes e.bytes 0 e.length, ready := true }
      else
        fetchPages (modJob (countBad b bad.length) j.id fun x =>
          { x with bytes := readBytes e.bytes 0 e.length, want := bad, pageDigs := e.pageDigests }) j.id
  else issueRead b j.tenant j.gathering d 0 d.length (.job j.id)

/-- Whether this GLT serves the rank that owns an entry. -/
def ownsEntry (b : Block) (t : Nat) (d : DataEntry) : Bool := (localRanks b (getTen b t)).contains d.rank

/-- A group push of a signature reaches this GLT: jobs that wait for it go on, later ones find it (R222). -/
def takePush (b : Block) (h : W64) (l : List Byte) : Block :=
  let hit (j : RestoreJob) : Bool :=
    j.group && !j.ready && (j.cur.any fun d => mkHandle j.tenant j.gathering d.index == h) && j.pushWait.isSome
  let b1 := { b with bd := { b.bd with groupPushes := (b.bd.groupPushes.filter fun (x : W64 × List Byte) => x.1 != h) ++ [(h, l)] } }
  let take (j : RestoreJob) : RestoreJob :=
    if hit j then { j with bytes := l, ready := true, pushWait := none } else j
  { b1 with bd := { b1.bd with jobs := b1.bd.jobs.map take } }

/-- The GLTs that serve the members of the replica group of an entry. -/
def memberTrays (b : Block) (t n : Nat) (d : DataEntry) : List Place :=
  match (colophonOf b t n).bind fun c => c.regions.find? fun e => e.rank == d.rank && e.region == d.region with
  | none => []
  | some e => foldOver (fun l i => withEntry l (trayOf (nthD 0 (getTen b t).places (e.repFirst + i * e.repStride)))) []
      (upFrom 0 e.groupSize)

/-- The owner's GLT pushes a replicated signature once, as RESTORE_PUSH over the tenant's tree; copies here are taken directly
(R222). -/
def pushGroup (b : Block) (j : RestoreJob) (d : DataEntry) : Block :=
  let h := mkHandle j.tenant j.gathering d.index
  if !(j.group && d.replicated && ownsEntry b j.tenant d) || b.bd.pushed.contains h then b
  else
    let x : Xfer := { kind := .restorePush, gathering := j.gathering, handle := h, length := j.bytes.length, digest := d.digest,
                      bytes := j.bytes }
    let b1 := { b with bd := { b.bd with pushed := b.bd.pushed ++ [h] } }
    takePush (sendBcast b1 (tenantBcast b1 j.tenant .groupPush (xferBytes x) (memberTrays b j.tenant j.gathering d) true)) h j.bytes

/-- The region list of a slot: the list in force, or before the first start the pending one (DESIGN CHOICE). -/
def currentList (b : Block) (t slot : Nat) : List RegionDesc :=
  let l := (getSlot b slot).regions
  if l.isEmpty then (((getTen b t).pendLists.find? fun q => q.slot == slot).map fun q => q.list).getD [] else l

/-- The bytes that a LOAD writes for an entry: from the load area (R205). -/
def loadBytes (b : Block) (j : RestoreJob) (d : DataEntry) : Option (List Byte) :=
  (b.bd.extents.find? fun e => decide (e.kind = .loadArea) && e.tenant == j.tenant && !e.lost).map fun e =>
    readBytes e.bytes (j.source + d.offset) d.length

/-- The next entry of a job comes to hand. -/
def beginEntry (b : Block) (j : RestoreJob) (d : DataEntry) (rest : List DataEntry) : Block :=
  let j1 := { j with cur := some d, todo := rest, bytes := [], ready := false, want := [], pageDigs := [], page := 0, tries := 0, armedSeen := false,
                     pushWait := none }
  let b1 := modJob b j.id fun _ => j1
  if j.action = 1 then degraded b1 j.tenant j.gathering d none (.job j.id)
  else if j.action = 3 then
    match loadBytes b j d with
    | some l => modJob b1 j.id fun k => { k with bytes := l, ready := true }
    | none => loseJob b1 j1 stNoResource
  else if j.group && d.replicated then
    if ownsEntry b j.tenant d then fetchSig b1 j1 d
    else
      match b.bd.groupPushes.find? fun x => x.1 == mkHandle j.tenant j.gathering d.index with
      | some x => modJob b1 j.id fun k => { k with bytes := x.2, ready := true }
      | none => modJob b1 j.id fun k => { k with pushWait := some (nowNs b + b.bd.colophonTimeoutMs * 1000000) }
  else fetchSig b1 j1 d

/-- Sends the page in hand to the sentinel (R221, R243). -/
def sendPage (b : Block) (j : RestoreJob) (d : DataEntry) : Block :=
  let data := readBytes j.bytes (j.page * 65536) 65536
  let base := if j.action = 3 then j.base + d.offset else pageAddr (currentList b j.tenant j.slot) d.region.val 0
  let c := colophonOf b j.tenant j.gathering
  let entry := c.bind fun c => c.regions.find? fun e => e.rank == j.rank && e.region == d.region
  let sig := d.index - (entry.map fun e => e.firstIndex).getD 0
  let addr := base + (if j.action = 3 then 0 else sig * 2 ^ ((c.map fun c => c.sigShift).getD 28)) + j.page * 65536
  let crc := crc32c data
  tellSn (modJob b j.id fun k => { k with tries := k.tries + 1, addr := addr, crc := crc, stream := (getSn b j.slot).nextStreamGlt }) j.slot
    (.restorePush { addr := addr, crc := crc, data := data })

/-- A rebuilt fragment is written into binding memory here (R223). -/
def placeFragment (b : Block) (j : RestoreJob) (d : DataEntry) : Option Block :=
  let e : Extent := { kind := if d.parity then .parity else .data, tenant := j.tenant, gathering := j.gathering,
                      handle := if d.parity then 0 else mkHandle j.tenant j.gathering d.index, row := d.stripe.getD 0,
                      member := d.member, length := d.length, bytes := j.bytes, pageDigests := pageDigestsOf j.bytes,
                      complete := true }
  (allocExtent b e).map fun r =>
    modJob r.1 j.id fun k =>
      { k with cur := none, bytesDone := k.bytesDone + d.length,
               moved := k.moved ++ [{ d with place := ownPlace b, offset := r.2.offset, rebuilt := true }] }

/-! ### Reissue of a colophon (R223) -/

/-- A participant holds a copy of the colophon in an extent of its own. -/
def colophonExtent (b : Block) (t n : Nat) (c : Colophon) : Option Block :=
  let b1 := dropExtents b fun e => ofGathering t n e && decide (e.kind = .colophon)
  let l := colophonBytes c
  (allocExtent b1 { kind := .colophon, tenant := t, gathering := n, length := l.length, bytes := l, complete := true }).map Prod.fst

/-- Whether two entries name the same fragment. -/
def sameFragment (x y : DataEntry) : Bool :=
  x.parity == y.parity && x.stripe == y.stripe && x.member == y.member && x.index == y.index

/-- Replaces the entries that moved. -/
def moveEntries (moved l : List DataEntry) : List DataEntry :=
  l.map fun d =>
    match moved.find? (sameFragment d) with
    | some m => { d with place := m.place, offset := m.offset, rebuilt := true }
    | none => d

/-- The lead controller reissues a colophon with REVISION increased and broadcasts it. -/
def reissue (b : Block) (t n : Nat) (c : Colophon) (moved : List DataEntry) : Block :=
  let c1 := signColophon { c with revision := c.revision + 1, data := moveEntries moved c.data,
                                  parity := moveEntries moved c.parity, sealTime := nowNs b, lead := ownPlace b,
                                  leadSerial := b.ident.serial }
  let b1 := modG ((colophonExtent b t n c1).getD b) t n fun g => { g with colophon := some c1, tag := colophonTag c1 }
  sendBcast b1 (tenantBcast b1 t .colophon (colophonBytes c1) (participants (getTen b t)) true)

/-- An ENTRIES transfer; ROW holds the number of region entries before the data and parity entries (DESIGN CHOICE, log entry
159: Table 8.2 gives no count). -/
def entriesXfer (b : Block) (t n : Nat) (regions : List RegionEntry) (entries : List DataEntry) : Xfer :=
  let l := regions.flatMap regionEntryBytes ++ entries.flatMap dataEntryBytes
  { kind := .entries, gathering := n, row := regions.length, length := l.length, digest := sha256 l, bytes := l,
    tenant := Fin.ofNat 1024 t, dest := leadPlace (getTen b t) }

/-- A REBUILD has done all it could: the lead learns the new places; fragments that are not striped stay lost. -/
def endRebuild (b : Block) (j : RestoreJob) : Block :=
  let b1 := match j.moved, colophonOf b j.tenant j.gathering with
    | [], _ => b
    | m, some c =>
      if isLead b (getTen b j.tenant) then reissue b j.tenant j.gathering c m
      else sendXfer b (entriesXfer b j.tenant j.gathering [] m)
    | _, none => b
  endJob b1 j (if j.firstLost.isSome then stNoResource else stOk)

/-- Moves a job on as far as it can go without an answer from outside. -/
def runJob : Nat → Nat → Block → Block
  | 0, _, b => b
  | k + 1, id, b =>
    match getJob b id with
    | none => b
    | some j =>
      match j.cur, j.todo with
      | none, [] => if j.action = 1 then endRebuild b j else endJob b j stOk
      | none, d :: r => runJob k id (beginEntry b j d r)
      | some d, _ =>
        if !j.ready then b
        else if j.action = 1 then
          match placeFragment b j d with
          | some b1 => runJob k id b1
          | none => endRebuild b { j with firstLost := j.firstLost.orElse fun _ => some d.index }
        else if j.page = 0 && decide (j.tries = 0) && j.group && d.replicated && ownsEntry b j.tenant d &&
            !b.bd.pushed.contains (mkHandle j.tenant j.gathering d.index) then runJob k id (pushGroup b j d)
        else if j.bytes.length ≤ j.page * 65536 then runJob k id (modJob b id fun x => { x with cur := none })
        else if j.tries = 0 then sendPage b j d
        else b

/-- Moves a job on; every entry takes at most four turns and the end one. -/
def goJob (b : Block) (id : Nat) : Block :=
  runJob (4 * ((getJob b id).elim 0 fun j => j.todo.length) + 6) id b

/-- Moves every job on. -/
def goJobs (b : Block) : Block := each (b.bd.jobs.map fun j => j.id) (fun id b => goJob b id) b

/-! ## The rollback of a restore (R219, R102, R299) -/

/-- The first restore of a hold rolls the tenant back: every gathering after the restore point ends, with a fail vote where
its vote has not ended; tiles of later steps are SKIPPED; the number after the highest started is not used. -/
def rollBack (b : Block) (t : Nat) : Block :=
  let r := getTen b t
  let point := restorePoint r
  if r.hold.restored then b
  else
    let gone := (r.gatherings.filter fun g => decide (point < g.n) && !g.released).map fun g => g.n
    let b1 := each gone (fun n b => failVote b t n false) b
    let b2 := modTen b1 t fun r =>
      { r with hold := { r.hold with restored := true, restorePoint := point },
               deepMark := if r.deepMark = r.started + 1 then 0 else r.deepMark, skipped := withEntry r.skipped (r.started + 1),
               gatherings := r.gatherings.map fun g => if gone.contains g.n then { g with rolledBack := true } else g }
    rollBackTiles b2 t (point * r.s)

/-- Before the first page goes to a slot, its gathering is abandoned, unless it is sewn (R219). -/
def rollBackSlot (b : Block) (t n : Nat) : Block :=
  if tenantHeld b t then
    let b1 := rollBack b t
    abandonSlot b1 n false (decide ((getG b1 t (getSlot b1 n).gathering).round ≠ .sewn))
  else b

/-! ## Starting a restore -/

/-- R220: the rank's region list still has the shape of the colophon's entries that CLASSES selects. -/
def shapeOk (b : Block) (t : Nat) (c : Colophon) (entries : List RegionEntry) (slot : Nat) : Bool :=
  let l := currentList b t slot
  decide ((getTen b t).ranks = c.ranks) && entries.all fun e =>
    l.any fun d => d.region == e.region && d.length == e.length && d.cls == e.cls && d.groupSize == e.groupSize &&
      (if d.groupSize = 1 then e.repFirst == 0 && e.repStride == 0 else d.repFirst == e.repFirst && d.repStride == e.repStride)

/-- The region entries of a rank that CLASSES selects; 0 selects all. -/
def selected (c : Colophon) (rank : Nat) (classes : Byte) : List RegionEntry :=
  c.regions.filter fun e => e.rank == rank && (classes == 0 || (decide (e.cls.toNat < 8) && classes.getLsbD e.cls.toNat))

/-- The data entries of a region, its signatures in order; a signature's write address is the region's. -/
def regionSigs (c : Colophon) (e : RegionEntry) : List DataEntry :=
  (upFrom 0 ((e.length + 2 ^ c.sigShift - 1) / 2 ^ c.sigShift)).filterMap fun j =>
    c.data.find? fun d => d.index == e.firstIndex + j

/-- Adds a job and moves it on. -/
def addJob (b : Block) (j : RestoreJob) : Block :=
  let id := b.bd.nextId
  goJob { b with bd := { b.bd with nextId := id + 1, jobs := b.bd.jobs ++ [{ j with id := id }] } } id

/-- A RESTORE or LOAD may run: the tenant is held, or has not released barrier group 0 yet (R218). -/
def mayRestore (b : Block) (t : Nat) : Bool := tenantHeld b t || !(getTen b t).released0

/-- The gathering that a BIND_RESTORE names; 0 is the restore point of the hold. -/
def restoreGathering (b : Block) (t n : Nat) : Nat := if n = 0 then restorePoint (getTen b t) else n

/-- Starts a RESTORE of a rank, or gives the status that ends it at once. -/
def startRestoreJob (b : Block) (j : RestoreJob) (classes : Byte) : Block × Option Byte :=
  let n := restoreGathering b j.tenant j.gathering
  let slot := placeSlot (nthD 0 (getTen b j.tenant).places j.rank)
  match colophonOf b j.tenant n with
  | none => (b, some stBadParam)
  | some c =>
    let es := selected c j.rank classes
    if !(localRanks b (getTen b j.tenant)).contains j.rank then (b, some stBadParam)
    else if !mayRestore b j.tenant then (b, some stRefused)
    else if !shapeOk b j.tenant c es slot then (b, some stShapeMismatch)
    else (addJob (rollBackSlot b j.tenant slot)
      { j with gathering := n, slot := slot, todo := es.flatMap (regionSigs c) }, none)

/-- A participant restores every rank that it serves on its leader's order (R295 step 4); restores of an earlier order are
abandoned (R300). -/
def restoreAll (b0 : Block) (t : Nat) : Block :=
  let old := b0.bd.jobs.filter fun j => decide (j.for' = .recovery) && j.tenant == t
  let b := each old (fun j b => dropJob b j.id) b0
  let ranks := localRanks b (getTen b t)
  if ranks.isEmpty then sendRestored b t stOk
  else
    let run := foldOver (fun (x : Block × Option Byte) k =>
      match x.2 with
      | some st => (x.1, some st)
      | none => startRestoreJob x.1 { for' := .recovery, tenant := t, rank := k } 0) (b, none) ranks
    match run.2 with
    | some st => sendRestored run.1 t st
    | none => run.1

end Sys2Proof.Machine
end

