-- ==== Sys2Proof/Machine/Broadcasts.lean ====
section
/-!
DEFINITION. Machine/Broadcasts.lean: BROADCAST, BCAST and its acknowledgements (R145, R146, R153), and what a participant
does with a colophon that a broadcast brings (R214 step 5).
-/

namespace Sys2Proof.Machine

/-! ## The load area (R205, R146) -/

def loadArea (b : Block) (t : Nat) : Option Extent := b.bd.extents.find? fun e => decide (e.kind = .loadArea) && e.tenant == t

/-- Writes bytes into the tenant's load area; none where no area holds them. -/
def writeLoad (b : Block) (t off : Nat) (l : List Byte) : Option Block :=
  match loadArea b t with
  | none => none
  | some e =>
    if off + l.length ≤ e.length && !e.lost then some (setExtent b { e with bytes := patchBytes e.bytes off l }) else none

/-! ## The colophon at a participant -/

/-- The key with which the lead controller's colophons are verified: its device certificate's (R215). -/
def leadKey (b : Block) (t : Nat) : List Byte :=
  let r := getTen b t
  ((r.certs.find? fun x => x.1 == leadPlace r).map fun x => x.2.key).getD []

/-- Whether an entry is this GLT's own, unchanged but for the numbering of its stripe. -/
def entryKept (l : List DataEntry) (d : DataEntry) : Bool :=
  l.any fun e => { e with stripe := none, rank := 0 } == { d with stripe := none, rank := 0 } && (d.parity || e.rank == d.rank)

/-- A participant's check of a colophon (R214 step 5). -/
def colophonGood (b : Block) (t n : Nat) (c : Colophon) : Bool :=
  Config.colophonOk (leadKey b t) (colophonBody c) c.sig &&
    (c.revision != 0 ||
      ((ownRegions b t n).all (fun e => c.regions.contains e) && (ownData b t n).all (entryKept c.data) &&
        (ownParity b t n).all (entryKept c.parity)))

/-- A participant takes a colophon: kept in an extent, checked, its tag computed; the GLT is then ready to vote.  The answer
tells whether every byte was written. -/
def takeColophon (b : Block) (t n : Nat) (c : Colophon) : Block × Bool :=
  let g := getG b t n
  if !hasG b t n || g.released || g.bindStopped then (b, false)
  else if decide (c.revision ≤ ((g.colophon.map fun x => x.revision).getD 0)) && g.colophon.isSome then (b, true)
  else
    match colophonExtent b t n c with
    | none => (bindStop b t n, false)
    | some b1 =>
      if colophonGood b t n c then
        (modG b1 t n fun g => { g with colophon := some c, colophonOk := true, tag := colophonTag c,
                                       phase := if g.round = .pending then .voting else g.phase }, true)
      else
        let b2 := raise b1 .bd 6 (aboutTen b1 t)
        (if c.revision = 0 then failVote b2 t n false else b2, true)

/-! ## Assembly at the lead controller (R214 steps 2 to 4) -/

/-- The lead has every participant's entries: it checks them, numbers, signs and broadcasts the colophon. -/
def sealColophon (b0 : Block) (t n : Nat) : Block :=
  b0 |> whenFw (.colophon t n) fun b =>
  let g := getG b t n
  let clash := clashes (allData g) || !((allRegions g).all (regionBound (allData g) g.sigShift)) || !groupsAgree (allRegions g)
  if clash then failVote (raise b .bd 4 (aboutTen b t)) t n true
  else
    let c := signColophon (assemble b t n)
    let (b1, ok) := takeColophon b t n c
    sendBcast b1 (tenantBcast b1 t .colophon (colophonBytes c) (participants (getTen b t)) ok)

/-- The entries of a participant reach the lead controller. -/
def takeEntries (b : Block) (t n : Nat) (src : Place) (regions : List RegionEntry) (entries : List DataEntry) : Block :=
  let g := getG b t n
  if !hasG b t n || g.rolledBack || g.round ≠ .pending || g.colophon.isSome then b
  else
    let l := (g.entries.filter fun x => x.1 != src) ++ [(src, regions, entries)]
    let b1 := modG b t n fun g => { g with entries := l }
    if (participants (getTen b t)).all fun p => l.any fun x => x.1 == p then sealColophon b1 t n else b1

/-! ## BROADCAST -/

/-- The trays of a scope: those present in its own rack, as the census shows, and beyond it those that the system holds, which
no message of the manual tells this GLT (open, log entry 162). -/
def scopeTrays (b : Block) (scope : Nat) : List Place :=
  let o := ownPlace b
  let rack := ((upFrom 0 32).filter fun i => i == placeTray o || (!ringAlone b 0 && ringHas b 0 i)).map (rackPlace b)
  let far := (Config.traysIn scope o).filter fun p => decide (placeLevel p = 2) && decide (1 ≤ topRing [p, o]) &&
    decide (topRing [p, o] < scope)
  foldOver withEntry rack far

/-- The result block of BROADCAST (R153). -/
def bcastBlock (b : Block) (x : BcastSrc) : List Byte :=
  leBytes 4 x.expected.length ++ leBytes 4 x.acked.length ++ leBytes 8 (r111 (nowNs b)).toNat

/-- A broadcast of this GLT ends: a command writes its block and completes; one that waited goes out. -/
def endBcast (b : Block) (x : BcastSrc) (st : Byte) : Block :=
  let b1 := { b with spine := { b.spine with bcasts := b.spine.bcasts.filter fun y => y.stream != x.stream } }
  let b2 := if x.isCommand then complete (hostWrite b1 x.iss x.resultAddr (bcastBlock b x)) x.iss 0x0404 st else b1
  match b2.spine.bcastWait with
  | w :: r =>
    if b2.spine.bcasts.length < 4 then launchBcast { b2 with spine := { b2.spine with bcastWait := r } } w none else b2
  | [] => b2

/-- A broadcast completes once every target has acknowledged positively (R146). -/
def checkBcast (b : Block) (stream : W32) : Block :=
  match b.spine.bcasts.find? fun x => x.stream == stream with
  | none => b
  | some x => if x.expected.all fun p => x.acked.contains p then endBcast b x stOk else b

/-- What BROADCAST sends: the host's bytes, or a populated range of binding memory of its tenant (R23). -/
def bcastSource (b : Block) (t : Nat) (p : BroadcastP) : Option (List Byte) :=
  if p.sourceKind = 0 then some p.hostBytes
  else
    (b.bd.extents.find? fun e =>
      e.tenant == t && decide (e.offset ≤ p.source) && decide (p.source + p.length ≤ e.offset + e.length) && !e.lost).map
      fun e => readBytes e.bytes (p.source - e.offset) p.length

def effBroadcast (iss : Issuer) (p : BroadcastP) (b : Block) : Block :=
  let t := iss.tenant.val
  let scope := p.scope.toNat
  let done := complete b iss 0x0404
  if scope > 4 then done stBadParam
  else if !(if scope = 0 then fromCreator b iss else isAdmin b iss) then done stNotAuthorised
  else if p.rsv || decide (p.sourceKind.toNat > 1) || decide (p.source % 64 ≠ 0) || decide (p.length % 64 ≠ 0) ||
      decide (p.length > 64 * gib) || decide (p.resultAddr % 16 ≠ 0) then done stBadParam
  else if scope = 0 && tenantHeld b t then done stHeld
  else if 4 ≤ b.spine.bcasts.length then done stNoResource
  else
    match bcastSource b t p with
    | none => done stBadParam
    | some l =>
      let expected := if scope = 0 then participants (getTen b t) else scopeTrays b scope
      let own := writeLoad b t p.destOffset l
      let id := b.spine.nextStream
      let w : BcastWait :=
        { tenant := t, scope := if scope = 0 then tenantScope b t else subtreeOf (ownPlace b) (scope - 1),
          info := { tenantOnly := scope == 0, use := .loadArea p.destOffset }, bytes := l, expected := expected,
          own := own.isSome }
      checkBcast (launchBcast (own.getD b) w (some (iss, p.resultAddr))) id

def execBroadcast (iss : Issuer) (p : BroadcastP) (s : State) : Host.Outcome State Fault Refusal := act s (effBroadcast iss p)

/-! ## BCAST -/

/-- Whether this tray is a target of a broadcast. -/
def bcastTarget (b : Block) (info : BcastInfo) (f : DataFrame) : Bool :=
  if info.tenantOnly then isParticipant b (getTen b f.tenant.val)
  else f.dest == systemScope || placeWithin (ownPlace b) f.dest

/-- Answers the source once every byte is written, or negatively (R146): byte 0 of the payload is 0 or 1 (DESIGN CHOICE, log
entry 159). -/
def bcastReply (b : Block) (f : DataFrame) (ok : Bool) : Block :=
  sendTransfer b .bcastAck f.tenant f.src f.stream [if ok then 0 else 1]

/-- A group push at a GLT that serves members of the replica group (R222). -/
def takeGroupPush (f : DataFrame) (l : List Byte) (b : Block) : Block :=
  let t := f.tenant.val
  match xferOf l f.tenant f.src (ownPlace b) f.stream with
  | none => b
  | some x =>
    let n := handleGathering x.handle
    match (colophonOf b t n).bind fun k => k.data.find? fun d => d.index == handleIndex x.handle with
    | none => b
    | some d =>
      if (memberTrays b t n d).contains (ownPlace b) && digestIs x.bytes d.digest then
        bcastReply (goJobs (takePush b x.handle x.bytes)) f true
      else b

/-- What a target does with a broadcast's bytes. -/
def bcastTake (info : BcastInfo) (f : DataFrame) (l : List Byte) (b : Block) : Block :=
  let t := f.tenant.val
  match info.use with
  | .loadArea off =>
    match writeLoad b t off l with
    | some b1 => bcastReply b1 f true
    | none => bcastReply b f false
  | .colophon =>
    match colophonAt l with
    | none => bcastReply (raise b .bd 6 (aboutTen b t)) f false
    | some k =>
      let r := takeColophon b t k.gathering k
      bcastReply r.1 f r.2
  | .groupPush => takeGroupPush f l b

/-- A BCAST frame goes on round the ring on which it came, and starts on the other rings that it enters here (R145). -/
def bcastForward (port : Nat) (ty : FrameType) (f : DataFrame) (b : Block) : Block :=
  let k := if port < 4 then 0 else (uplinkLevel b).getD 0
  bcastStart ty f ((bcastStarts b f).filter fun j => j != k) (bcastOn ty f k (portHop port % 2 == 0) b)

/-- BCAST: every member forwards the frame, and a target checks its trailer and writes it (R112, R145). -/
def onBcast (port : Nat) (info : BcastInfo) (f : DataFrame) (b : Block) : Block :=
  if f.src = ownPlace b then b
  else
    let ty := FrameType.bcast info
    let b1 := bcastForward port ty f b
    if !bcastTarget b1 info f then b1
    else if f.crc ≠ frameCrc ty f then dropCell b1 port
    else
      match takeChunk b1 ty f with
      | (b2, some l) => bcastTake info f l b2
      | (b2, none) => b2

/-- BCAST_ACK: a target has written every byte, or has no area (R146). -/
def effBcastAck (src : Place) (stream : W32) (ok : Bool) (b : Block) : Block :=
  let upd (x : BcastSrc) : BcastSrc :=
    if x.stream ≠ stream || !x.expected.contains src then x
    else if ok then { x with acked := withEntry x.acked src } else { x with nacked := withEntry x.nacked src }
  checkBcast { b with spine := { b.spine with bcasts := b.spine.bcasts.map upd } } stream

/-- BCAST_TIMEOUT: the command completes with TIMEOUT; a target that never answered is reported as silent (R146, R283). -/
def effBcastTimeout (stream : W32) (b : Block) : Block :=
  match b.spine.bcasts.find? fun x => x.stream == stream with
  | none => b
  | some x =>
    if nowNs b < x.deadline then b
    else
      let mute := x.expected.filter fun p => !x.acked.contains p && !x.nacked.contains p
      each mute (fun p b => fileReport b .spineSilent p false) (endBcast b x stTimeout)

def execBcastTimeout (stream : W32) (s : State) : Host.Outcome State Fault Refusal := act s (effBcastTimeout stream)

end Sys2Proof.Machine
end

