-- ==== Sys2Proof/Machine/TimeOps.lean ====
section
/-!
DEFINITION. Machine/TimeOps.lean: spine time as other chapters touch it: stamps, the upstream hop, loads of the counter
(R157, R158), the firmware servo (R161) and the exchanges that a change of path discards (R167, R322).
-/

namespace Sys2Proof.Machine

/-! ## Stamps -/

/-- Spine time in units of 2⁻¹⁶ ns, as the PHY stamps it (R168). -/
def nowSub (b : Block) : Nat := nowNs b * 65536 + b.time.frac.toNat / 65536

/-- Sets the counter to a time in units of 2⁻¹⁶ ns; the fraction's low half is zero (R157). -/
def putTime (b : Block) (t : Nat) : Block :=
  { b with time := { b.time with sec := BitVec.ofNat 48 (t / 65536 / nsPerSec), nsec := t / 65536 % nsPerSec,
                                 frac := BitVec.ofNat 32 (t % 65536 * 65536) } }

/-- Ends a slew: nothing remains of it (R158). -/
def endSlew (b : Block) : Block := { b with time := { b.time with adjRem := 0, spanLeft := 0, slewIss := [] } }

/-- The sentinels' local time does not follow a load before the next exchange (R244). -/
def keepSkew (b : Block) (t : Nat) : Block :=
  let d : Int := nowNs b - (t / 65536 : Nat)
  { b with sn := b.sn.map fun x => (x.1, { x.2 with timeSkew := x.2.timeSkew + d }) }

/-- The ports' last timed cells keep their distance from now across a load: the spacing of R171 is one of real time. -/
def keepSpacing (b : Block) (t : Nat) : Block :=
  let shift (u : Ns) : Ns := t / 65536 - (nowNs b - u)
  { b with time := { b.time with lastLaunch := b.time.lastLaunch.map fun x => (x.1, x.2.map shift) } }

/-- Completes each of some commands. -/
def completeAll (b : Block) (l : List Issuer) (op : Nat) (st : Byte) : Block := each l (fun i b => complete b i op st) b

/-- A load of the counter: it takes the value, ends the slew, counts in STEP_COUNT and sets ST_ERR.STEP; the command
that asked for it completes with the new time (R157, R158, R176).  The TIME_SETs whose slew it ends are withdrawn. -/
def loadTime (b : Block) (t : Nat) (iss : Option Issuer) : Block :=
  let b1 := completeAll b b.time.slewIss 0x0701 stWithdrawn
  let b2 := putTime (endSlew (keepSpacing (keepSkew b1 t) t)) t
  let b3 := { b2 with time := { b2.time with stepCount := b2.time.stepCount + 1 } }
  completeOpt (raise b3 .st 7 (aboutAon b3)) iss 0x0701 stOk

/-- Whether the counter gets ticks: TPLL is READY, or the counter runs from XTAL_AON once TPLL has lost lock (R155). -/
def timeRuns (b : Block) : Bool := decide ((getPll b 2).state = .ready) || b.time.degraded

/-- An immediate load waits for the next tick with the value that is staged now; one that waited before gives way, and its TIME_SET
is withdrawn (R157). -/
def askLoad (b : Block) (t : Nat) (iss : Option Issuer) : Block :=
  let b1 := completeOpt b (b.time.loadNow.bind (·.2)) 0x0701 stWithdrawn
  { b1 with time := { b1.time with loadNow := some (t, iss) } }

/-- The staged value in units of 2⁻¹⁶ ns. -/
def stagedTime (b : Block) : Nat :=
  (b.time.setSec.toNat * nsPerSec + b.time.setNsec.toNat) * 65536 + b.time.setSub.toNat

/-! ## The upstream hop -/

/-- Keeps UP_PORT on the active rail of the upstream hop: a rail failover does not change the upstream (R162). -/
def followRail (b : Block) (h : Nat) : Block :=
  if upHop b = some h then { b with time := { b.time with upPort := hopPort b h } } else b

/-- The uplink ring that another tray of this rack joins as a delegate (Table 1.11). -/
def uplinkOf (b : Block) (tray : Nat) : Option Nat :=
  let i := b.ident
  if tray = 0 then some 1
  else if tray = 1 ∧ i.rack = 0 then some 2
  else if tray = 2 ∧ i.rack = 0 ∧ i.block = 0 then some 3
  else none

/-- Where a tray of this rack takes its time from, as far as the censuses here show (R162). -/
inductive TakesFrom where
  /-- From its uplink ring, or from nobody: not over L1. -/
  | notHere
  /-- Over L1 from the delegate of that tray number (case 2). -/
  | delegate (tray : Nat)
  /-- From the L1 neighbour nearer the head (case 3). -/
  | headward
  deriving DecidableEq, Repr

/-- The upstream of tray `m` of this rack: the cases of R162 as that tray applies them. -/
def takesFrom (b : Block) (m : Nat) : TakesFrom :=
  let viaL1 := if m = headNo b 0 then TakesFrom.notHere else .headward
  match uplinkOf b m with
  | none => viaL1
  | some k =>
    if !ringFormed b k then viaL1
    else if lowestMember (getRing b k).map ≠ memberNo k (ownPlace b) then .notHere
    else match nextDelegate b k with
      | some d => if ringFormed b (k + 1) && ringHas b 0 d then .delegate d else .notHere
      | none => .notHere

/-- Whether the way of member `m` of ring `k` to member `c` leaves it on the side of the hop `h` of this GLT that leads to it; `tie`
says whether an equal way goes east. -/
def comesHere (b : Block) (h k m c : Nat) (tie : Bool) : Bool :=
  let east := hopsUp b k m c
  let west := hopsUp b k c m
  let goesEast := match (getRing b k).gap with
    | some g => !eastMeets k m c g
    | none => if tie then decide (east ≤ west) else decide (east < west)
  if h % 2 = 0 then goesEast else !goesEast

/-- The neighbour beyond a hop takes its time from this GLT (R162, R163), as far as the censuses here show: the delegate to the
next ring goes by the way of R119, a tray toward its head west on a tie. -/
def takesFromUs (b : Block) (h : Nat) : Bool :=
  let k := hopRing b h
  let m := memberNo k (hopNeighbour b h)
  let c := headNo b k
  if k ≠ 0 then m != c && comesHere b h k m c false
  else
    match takesFrom b m with
    | .notHere => false
    | .headward => comesHere b h 0 m c false
    | .delegate d => comesHere b h 0 m d true

/-! ## Shadows (R156) and ST_STATUS (Table 6.7) -/

def shadowFind : List (TimeReader × Shadow) → TimeReader → Shadow
  | [], _ => {}
  | (x, v) :: l, r => if x = r then v else shadowFind l r

def shadowPut : List (TimeReader × Shadow) → TimeReader → Shadow → List (TimeReader × Shadow)
  | [], r, v => [(r, v)]
  | (x, w) :: l, r, v => if x = r then (x, v) :: l else (x, w) :: shadowPut l r v

def getShadow (b : Block) (r : TimeReader) : Shadow := shadowFind b.time.shadows r

/-- A read of ST_NSEC latches ST_SEC and ST_SUB for its reader. -/
def latchTime (b : Block) (r : TimeReader) : Block :=
  let x : Shadow := { sec := b.time.sec, sub := b.time.frac.extractLsb' 16 16 }
  { b with time := { b.time with shadows := shadowPut b.time.shadows r { x with ppsHi := (getShadow b r).ppsHi } } }

/-- The high word of a stamp in R111 form. -/
def stampHi (stamp : Nat) : W32 := (r111 (stamp / 65536) >>> 32).setWidth 32

/-- A read of ST_PPS_IN_LO latches ST_PPS_IN_HI for its reader (R173, R156). -/
def latchPps (b : Block) (r : TimeReader) : Block :=
  { b with time := { b.time with shadows := shadowPut b.time.shadows r { getShadow b r with ppsHi := stampHi b.time.ppsIn } } }

def timeStateCode : TimeState → Nat
  | .freeRun => 0 | .acquiring => 1 | .locked => 2 | .holdover => 3 | .root => 4

def stStatus (b : Block) : W32 :=
  let t := b.time
  BitVec.ofNat 32 (timeStateCode t.state + 8 * bit t.loadPending + 16 * bit (t.adjRem ≠ 0) + 32 * bit t.ext +
    64 * bit t.upHoldover + 128 * bit t.degraded + 256 * (t.upPort % 8) + 2048 * bit t.upValid + 4096 * t.depth.toNat +
    1048576 * t.stepCount.toNat)

/-! ## The firmware servo (R161) -/

/-- Firmware runs: an image has booted and a pair is left, outside a control gap. -/
def fwRuns (b : Block) : Bool :=
  !b.fw.down && !(getPll b 1).stopped &&
    match b.fw.phase with
    | .running | .rebinding => true
    | .boot | .gap => false

/-- The lowest and highest ST_INCR (R159). -/
def incrLow : Nat := 0x00FFDF3B65
def incrHigh : Nat := 0x010020C49B

/-- Whether a slew of `ns` over `span` ticks needs no more than 1 ns in 1,000 ticks (R160). -/
def slewOk (units : Int) (span : Nat) : Bool := decide (units.natAbs * 1000 ≤ span * 2 ^ 32)

/-- Bounds an amount of ns to what 1,000 ppm allow over a span beside a remainder of 2⁻³² ns. -/
def slewLimit (ns rem : Int) (span : Nat) : Int :=
  let m : Int := ((span * 2 ^ 32 / 1000 : Nat) : Int)
  let total := ns * 2 ^ 32 + rem
  if total > m then (m - rem) / 2 ^ 32 else if total < -m then -((m + rem) / 2 ^ 32) else ns

/-- Whether a slew may be added to the one that runs (R160). -/
def mayAdd (b : Block) (adj : Int) (span : Nat) : Bool :=
  within 1000 (2 ^ 32 - 1) span && slewOk (b.time.adjRem + adj * 2 ^ 32) span

/-- A slew starts: the amount joins the remainder, over the span (R160). The TIME_SETs whose amounts it carries on complete with
it. -/
def startSlew (b : Block) (adj : Int) (span : Nat) (iss : Option Issuer) : Block :=
  { b with time := { b.time with adj := adj, adjSpan := span, adjRem := b.time.adjRem + adj * 2 ^ 32, spanLeft := span,
                                 slewIss := b.time.slewIss ++ iss.toList } }

/-- A rate is committed: both halves of ST_INCR (R159). -/
def putIncr (b : Block) (n : Nat) : Block :=
  { b with time := { b.time with incr := BitVec.ofNat 40 n, incrLoHeld := BitVec.ofNat 32 n } }

/-- The servo answers a measured offset: ST_INCR follows the upstream's rate, by an amount that the manual leaves open
within R159, and ST_ADJ_SPAN and ST_ADJ remove the offset over one sync interval at no more than 1,000 ppm (R160, R161, R166). -/
def servo (b : Block) (offset : Int) : Block :=
  if !b.time.fwServo || !fwRuns b then b
  else
    let span := b.time.syncIntervalUs * 1000
    let adj := slewLimit (-(offset / 65536)) b.time.adjRem span
    let b1 := putIncr (takeFree b) (incrLow + freeVal b % (incrHigh - incrLow + 1))
    onlyIf (mayAdd b1 adj span) (fun b => startSlew b adj span none) b1

end Sys2Proof.Machine
end

