-- ==== Sys2Proof/Machine/RailOps.lean ====
section
/-!
DEFINITION. Machine/RailOps.lean: the rails of a hop (R124-R127): grading, failover and its window, and what a lost rail
does.
-/

namespace Sys2Proof.Machine

/-- The two ports of a hop. -/
def hopPorts (h : Nat) : List Nat := [hopRail h false, hopRail h true]

/-- Shows the dual-active window on both ports of a hop. -/
def showDual (b : Block) (h : Nat) (on : Bool) : Block := each (hopPorts h) (fun p b => modPort b p fun r => { r with dual := on }) b

/-- The dual-active window closes; a cell still missing then fails the hop on both rails (R126). -/
def closeWindow (b : Block) (h : Nat) : Block :=
  let b1 := showDual (modHop b h fun x => { x with dualUntil := none, failoverSent := false }) h false
  if (getHop b h).waiting.isEmpty then b1 else foldHop b1 h

/-- Replays the unacknowledged control cells of a hop on its active rail (R125), and after them its data frames, which are
never sent twice on one rail (R126). -/
def replayHop (b : Block) (h : Nat) (dual : Bool) : Block :=
  let hop := getHop b h
  let cells := hop.unacked.map fun c => ({ c.1 with dual := dual }, c.2)
  let b1 := each cells (fun c b => cellOut b (hopPort b h) c.1 c.2) (setHop b h { hop with unacked := cells })
  each hop.dunacked (fun f b => frameOut b (hopPort b h) f.1 f.2) b1

/-- The standby link under self-test sends a SELFTEST cell: one as it becomes the standby, one at each grade and one for each
that it receives (R124; the cadence is a DESIGN CHOICE, log entry 163). -/
def selftestOut (b : Block) (p : Nat) : Block :=
  let r := getPort b p
  if r.selftest && decide (r.state = .standby) then cellOut b p { level := Fin.ofNat 4 (hopRing b (portHop p)) } .selftest else b

/-- A port becomes its hop's standby. -/
def standBy (b : Block) (p : Nat) : Block := selftestOut (modPort b p fun r => { r with state := .standby }) p

/-- Moves this side of a hop to its standby rail: the other port becomes ACTIVE, SP_ERR.FAILOVER is set, FAILOVER goes
out there and the unacknowledged cells follow (R125).  FAILOVER itself takes no SEQ (DEDUCED). -/
def moveRail (b : Block) (h : Nat) (window : Bool) : Block :=
  let old := hopPort b h
  let new := otherPort b h
  let b1 := modHop b h fun x =>
    { x with railB := !x.railB, failoverSent := window, dualUntil := if window then some (nowNs b + 20000) else none,
             failbackOffer := none, failbackAt := none }
  let b1 := clearQueue b1 old
  let b2 := if (getPort b old).state = .active then standBy b1 old else b1
  let b3 := modPort b2 new fun r => { r with state := .active }
  let b4 := count (raise (portNote (showDual b3 h window) old 0x0B 0 0 0) .sp 3 (aboutPort b old)) (spineCounter 6) 1
  let b5 := cellOut b4 new { level := Fin.ofNat 4 (hopRing b h), dual := window } (.failover none)
  discardUp (followRail (replayHop b5 h window) h) h

/-- Whether a standby rail can take a hop over: it stands by and is not FAILED (R125). -/
def standbyOk (b : Block) (h : Nat) : Bool :=
  let r := getPort b (otherPort b h)
  decide (r.state = .standby) && decide (r.grade ≠ .failed)

/-- Starts a failover; a hop whose standby is FAILED folds instead (R125). -/
def startFailover (b : Block) (h : Nat) : Block :=
  if (getHop b h).folded then b
  else if standbyOk b h then moveRail b h true
  else foldHop b h

/-- The active rail of a hop has failed or is graded FAILED (R125). -/
def hopFailed (b : Block) (h : Nat) : Block := if b.spine.failoverAuto then startFailover b h else foldHop b h

/-- A rail's grade from its pre-FEC ratio in errors per 10¹² bits and its last uncorrectable codeword (R124). -/
def gradeOf (r : SpPort) (ber : Nat) (last : Option Ns) (now : Ns) : Grade :=
  let up := decide (r.state = .active) || decide (r.state = .standby)
  let recent := match last with
    | none => false
    | some t => decide (now < t + 10 * nsPerSec)
  if !up || recent then .failed
  else if ber < 1000000 then .good
  else .marginal

/-- What a rail does that has become FAILED: an active one moves or folds its hop, a standby one is reported. -/
def railFailed (b : Block) (p : Nat) : Block :=
  let h := portHop p
  if (getHop b h).folded then b
  else if hopPort b h = p then hopFailed b h
  else raise b .sp 4 (aboutPort b p)

/-- Updates a rail's grade. -/
def regrade (b : Block) (p ber : Nat) (uncorrectable : Bool) : Block :=
  let r := getPort b p
  let last := if uncorrectable then some (nowNs b) else r.lastUncorr
  let g := gradeOf r ber last (nowNs b)
  let b1 := selftestOut (setPort b p { r with grade := g, lastUncorr := last,
                                              goodSince := if g = .good && r.grade ≠ .good then nowNs b else r.goodSince }) p
  if g = .failed && r.grade ≠ .failed then railFailed b1 p else b1

/-- A rail goes out of service: its port takes a state and the grade FAILED (R124, R311). -/
def railLost (b : Block) (p : Nat) (st : PortState) : Block :=
  let r := getPort b p
  let wasUp := decide (r.state = .active) || decide (r.state = .standby)
  let b1 := setPort b p { r with state := st, grade := .failed, dual := false }
  if wasUp then railFailed b1 p else b1

/-- A ring's gap is no more. -/
def closeGap (b : Block) (k g : Nat) : Block :=
  modRing b k fun r => if r.gap = some g then { r with gap := none, folded := (getHop b (eastHop k)).folded || (getHop b (westHop k)).folded } else r

/-- A ring gains a hop: the member of which it is the west one tells every member with an UNFOLD of LAP 1 that names it as the
gap's east side (DESIGN CHOICE, log entry 157); the head takes a census, and so does a member that has seen none yet. -/
def hopJoined (b : Block) (h : Nat) : Block :=
  let k := hopRing b h
  let own := memberNo k (ownPlace b)
  let b1 := (gapOf b h).elim b (closeGap b k)
  let b2 := if h % 2 = 0 && !ringAlone b1 k then sendHop b1 (eastHop k) { level := Fin.ofNat 4 k, lap2 := true } (.unfold 0 own)
    else b1
  if isHead b2 k || (getRing b2 k).map = 0 then startCensus b2 k else b2

/-- A rail has trained: it is the hop's active rail, or its standby (R124).  The first rail of an open hop brings the
hop into its ring; a folded hop waits for its unfold. -/
def railUp (b : Block) (p : Nat) : Block :=
  let h := portHop p
  let hop := getHop b h
  let fresh := { getPort b p with grade := .ungraded, lastUncorr := none }
  if hop.folded then
    let other := hopRail h (!portRailB p)
    let otherUp := (getPort b other).state = .active
    if otherUp then standBy (setPort b p fresh) p
    else modHop (setPort b p { fresh with state := .active, turned := false }) h fun x => { x with railB := portRailB p }
  else if hopPort b h = p then
    discardUp (hopJoined (setPort (setHop b h
      { hop with seqTx := 0, seqRx := 0, rxAny := false, dseqTx := 0, dseqRx := 0, drxAny := false, waiting := [],
                 unacked := [], dunacked := [], absent := false }) p { fresh with state := .active }) h) h
  else standBy (setPort b p fresh) p

/-- Whether a rail has been GOOD for 10 s. -/
def goodFor10 (b : Block) (p : Nat) : Bool :=
  let r := getPort b p
  decide (r.grade = .good) && canTransmit b p && decide (r.goodSince + 10 * nsPerSec ≤ nowNs b)

/-- A hop stays folded while a setting holds it (R122). -/
def foldIsHeld (b : Block) (h : Nat) : Bool :=
  !b.spine.unfoldAuto || (hopPorts h).any fun p => (getPort b p).holdFold

end Sys2Proof.Machine
end

