-- ==== Sys2Proof/Machine/SnRegs.lean ====
section
/-!
DEFINITION. Machine/SnRegs.lean: the sentinel window as its registers stand and as the GLT mirrors it (R256, Tables 9.8-9.11).
-/

namespace Sys2Proof.Machine

/-- STATE of SN_STATE (Table 9.10). -/
def snPhaseCode : SnPhase → Nat
  | .down => 0 | .rom => 1 | .loading => 2 | .waitDeclare => 3 | .running => 4 | .fault => 5

/-- A temperature of 12 bits, signed, in steps of 0.25 °C. -/
def tempField (l : List Int) (i : Nat) : W32 := BitVec.ofNat 32 ((nthD 0 l i % 4096).toNat)

/-- A register of the window that shows its declaration (Tables 9.3, 9.8). -/
def snDeclReg (d : Declare) (off : Nat) : W32 :=
  if off = 0x10 then d.dieId
  else if off = 0x14 then BitVec.ofNat 32 (d.nUnits + 8192 * d.nEngines + 4194304 * d.nDomains)
  else if off = 0x18 then BitVec.ofNat 32 d.memPages
  else BitVec.ofNat 32 d.holdReach

/-- A counter of the window. -/
def snCount (s : Sentinel) (off : Nat) : Nat :=
  if off = 0x100 then s.cntPosted
  else if off = 0x104 then s.cntSampled
  else if off = 0x108 then s.cntRefused
  else if off = 0x10C then s.cntSealFail
  else if off = 0x110 then s.cntBroken
  else if off = 0x114 then s.cntLateDrop
  else if off = 0x118 then s.cntHingeDrop
  else 0

/-- The bits of a mask register of 32 bits. -/
def maskReg (f : Nat → Bool) : W32 := foldOver (fun v i => putBit v i (f i)) 0 (upFrom 0 32)

/-- A register's value at a sentinel, with SN_ERR and the accelerator's sensors from outside it; STALE reads 0. -/
def snVal (s : Sentinel) (err : W32) (acc : List Int) (off : Nat) : W32 :=
  let w (x : Nat) : W32 := BitVec.ofNat 32 x
  if off = 0 then w (0xA2 + 256 * s.fwImage.svn)
  else if off = 4 then w (bit s.holdOnLossEn + 2 * bit s.hangEn)
  else if off = 8 then w (snPhaseCode s.phase + 16 * bit s.sntHold + 32 * bit s.armed + 64 * s.ucieWidth.toNat + 256 * s.ucieRate.toNat)
  else if off = 0xC then err
  else if 0x10 ≤ off ∧ off < 0x20 then (s.decl.map fun d => snDeclReg d off).getD 0
  else if off = 0x20 then s.holdLast
  else if off = 0x24 then w s.hangLimitMs
  else if off = 0x28 then w s.streamTimeoutUs
  else if 0x40 ≤ off ∧ off < 0x60 then maskReg fun i => (tabGet {} s.engines ((off - 0x40) / 4 * 32 + i)).hung
  else if off = 0x60 then w s.trimSel.toNat
  else if off = 0x64 then maskReg fun i => s.trimBits.contains (32 * s.trimSel.toNat + i)
  else if 0x80 ≤ off ∧ off < 0xC0 then w (leNat ((upFrom (off - 0x80) 4).map (tabGet 0 s.editions)))
  else if 0xC0 ≤ off ∧ off < 0xE0 then tempField s.temps ((off - 0xC0) / 4)
  else if 0xE0 ≤ off ∧ off < 0x100 then tempField acc ((off - 0xE0) / 4)
  else w (snCount s off)

/-- A register of slot `n`'s sentinel as it stands. -/
def snLive (b : Block) (n off : Nat) : W32 := snVal (getSn b n) (leafGet b (.sn n)) (accTemps b n) off

/-- The mirror is not current: the Tether is down, or the firmware gap is open (R255, R256). -/
def snStale (b : Block) (n : Nat) : Bool :=
  (getSlot b n).stale || ((getSn b n).fwGapEnd.map fun t => decide (nowNs b < t)).getD false

/-- The mirror of a register; one that was never updated shows its reset value. -/
def snMirrored (b : Block) (n off : Nat) : W32 := tabGet (snVal {} 0 [] off) (getSlot b n).mirror off

/-- What a read of the window gives: the sentinel's value, or while STALE is 1 the mirror as last updated. -/
def snReg (b : Block) (n off : Nat) : W32 :=
  if !snStale b n then snLive b n off
  else if off = 8 then snMirrored b n 8 ||| 8
  else snMirrored b n off

/-- The mirror stays as last updated from here on (R256). -/
def keepMirror (b : Block) (n : Nat) : Block :=
  onlyIf (!snStale b n) (fun b => modSlot b n fun r => { r with mirror := (upFrom 0 71).map fun i => (4 * i, snLive b n (4 * i)) }) b

end Sys2Proof.Machine
end

