-- ==== Sys2Proof/Machine/DomainOps.lean ====
section
/-!
DEFINITION. Machine/DomainOps.lean: what a reset of each GLT domain does when it is asserted, when it completes and when it
withdraws the domain (R270-R274), with the start of a link's training that follows it (R313).
-/

namespace Sys2Proof.Machine

/-! ## Links -/

/-- A link changes state; the port's margin ring keeps it (R375); what waits for an up link leaves (R114). -/
def setLinkState (b : Block) (l : Nat) (st : LinkState) (event arg detail : Nat) : Block :=
  let old := (getLink b l).state
  drainLink (portMargin (modLink b l fun k => { k with state := st }) l event arg 0 old st detail) l

/-- A retune begins: the link's traffic waits in its queues. -/
def beginRetune (b : Block) (l : Nat) : Block :=
  let b1 := setLinkState b l .retuning 0x06 0 0
  count (modLink b1 l fun k => { k with slot := none, slotPending := false, retuneReqSent := false, trainKind := .retune })
    (portCounter l 13) 1

/-- The bytes of a link control set (Table 12.4). -/
def lcsBytes (h : LcsHdr) (x : Lcs) : List Byte :=
  let (ty, arg, go) := match x with
    | .train lanes full => (1, lanes.toNat + 16 * bit full, 0)
    | .widthReq w good => (2, w.toNat + 16 * good.toNat, 0)
    | .widthGo lanes atTime go => (3, lanes.toNat + 16 * bit atTime, go)
    | .retuneReq => (4, 0, 0)
    | .retuneGo t => (5, 0, t % 2 ^ 48)
  leBytes 1 ty ++ leBytes 1 arg ++ leBytes 5 h.place.toNat ++ leBytes 1 h.port.val ++ leBytes 6 go

/-- Sends a link control set with this GLT's place, port number and check code. -/
def sendLcs (b : Block) (l : Nat) (x : Lcs) : Block :=
  let h : LcsHdr := { place := ownPlace b, port := Fin.ofNat 32 l }
  emit b (.lcs l { h with crc := crc16 (lcsBytes h x) } x)

/-- The GLT's TRAIN: its tray-level place and its port number, 0-23 (R315). -/
def sendTrain (b : Block) (l : Nat) (full : Bool) : Block :=
  let lanes := foldOver (fun m i => if (tabGet {} (getLink b l).lanes i).lock then putBit m i true else m) (0 : BitVec 4)
    (upFrom 0 4)
  sendLcs b l (.train lanes full)

/-- The reset domain of a link: S0-S7 are 40-47, T0-T15 are 24-39 (Table 10.6). -/
def linkDom (l : Nat) : Nat := if l < 8 then 40 + l else 16 + l

/-- A link begins to train (Table 12.3); a Spine port shows TRAINING. -/
def beginTrain (b : Block) (l : Nat) (k : TrainKind) : Block :=
  let b1 := modLink b l fun x => { x with state := .training, trainKind := k, widthReqSent := none, retuneReqSent := false }
  let b2 := if l < 8 && k == TrainKind.full then modPort b1 l fun r => { r with state := .training } else b1
  sendTrain b2 l (k == TrainKind.full)

/-- Whether a Spine port may train (R22, Table 5.13, Table 5.15): ENABLE, EN, a committed place, a delegate for S4-S7, and
its domain in service. -/
def spMayTrain (b : Block) (p : Nat) : Bool :=
  b.spine.enable && (getPort b p).en && b.ident.valid && (decide (p < 4) || (uplinkLevel b).isSome) &&
    !(getDom b (40 + p)).inReset && !(getDom b (40 + p)).withdrawn

/-- Whether a link may train: a Spine port as above; a Tether port while its slot is present, its domain serves and its
sentinel has not said another stepping than 0xA2 (R3). -/
def mayTrain (b : Block) (l : Nat) : Bool :=
  if l < 8 then spMayTrain b l
  else !(getSlot b (l - 8)).prsntN && (getSlot b (l - 8)).stepping == 0xA2 && !(getDom b (16 + l)).inReset && !(getDom b (16 + l)).withdrawn

/-- Starts a full training where the link may train. -/
def trainIfMay (b : Block) (l : Nat) : Block := if mayTrain b l then beginTrain b l .full else b

/-- A link goes down: nothing of its link layer is kept. -/
def linkDown (b : Block) (l : Nat) : Block :=
  modLink b l fun x =>
    { x with state := .down, width := 0, txUnacked := [], txUnits := [], txWait := [], txFseq := 0, rxFseq := 0, rxDiscard := false,
             noProgress := 0, lcsSeen := none, slot := none, slotPending := false, widenTo := none, widthReqSent := none,
             retuneReqSent := false, downSince := some (nowNs b) }

/-- A Tether goes down as its GLT sees it: the sentinel notices by itself (R247). -/
def tetherDown (b : Block) (n : Nat) : Block :=
  let b0 := keepMirror b n
  let b1 := modSn b0 n fun s => { s with tetherUp := false, tetherDownAt := if s.tetherUp then nowNs b else s.tetherDownAt }
  modSlot b1 n fun s => { s with stale := true }

/-! ## Clusters -/

/-- The cores of a cluster. -/
def clusterCores (k : Nat) : List Nat := (upFrom 0 512).filter fun c => clusterOf c == k

/-- A cluster is reset (R54, R82): its tiles are VOID, its cores are zeroed, messages for them are dropped. -/
def resetCluster (b : Block) (k : Nat) : Block :=
  let hit (c : Nat) : Bool := (instCores b c).any fun i => clusterOf i == k
  let b1 := voidAll b hit .resetCluster
  let b2 := dropMesh b1 fun c => decide (c < 512) && clusterOf c == k
  each (clusterCores k) (fun c b =>
    let x := getCore b c
    setCore b c { freshCore b c with sram := [], pc := 0, cycle := 0, margin := x.margin }) b2

/-- The verified image of a kind in a bank. -/
def bankImage (b : Block) (kind : Nat) (bank : Bool) : Option FwImage :=
  (b.fw.banks.find? fun x => x.1 == kind && x.2.1 == bank).map fun x => x.2.2

/-- A cluster loads the microcode of a bank (R363). -/
def loadUcode (b : Block) (k : Nat) (bank : Bool) : Block :=
  match bankImage b 1 bank with
  | none => b
  | some i => { b with col := { b.col with microcode := tabPut b.col.microcode k i } }

/-- A cluster leaves reset: its cores hold their images again; a microcode that waited for it is loaded (R363). -/
def startCluster (b : Block) (k : Nat) : Block :=
  let b1 := replaceLost (each (clusterCores k) (fun c b => setCore b c (freshCore b c)) b)
  if b1.col.ucodePending.contains k then
    loadUcode { b1 with col := { b1.col with ucodePending := without b1.col.ucodePending k } } k b1.fw.ucodeBank
  else b1

/-- A withdrawn cluster's cores count as trimmed (R271, R84): user instances that touch it are released. -/
def dropCluster (b : Block) (k : Nat) : Block :=
  each (clusterCores k) (fun c b =>
    let s := (getCore b c).progSlot
    if s < 8 then b else replaceInst (releaseInst b c) s) b

/-! ## DDR, storage, binding, hosts, management -/

/-- The gatherings of a tenant that are not sewn and not ended otherwise. -/
def openGatherings (r : TenantRec) : List Nat :=
  (r.gatherings.filter fun g => decide (g.round ≠ .sewn) && !g.rolledBack && !g.released).map fun g => g.n

/-- A DDR reset loses binding memory (R223): extents of sewn bindings are lost, those of open gatherings are freed and
their votes fail; staged pages and queued tile records go too (Table 4.5). -/
def loseDdr (b : Block) : Block :=
  let open' (e : Extent) : Bool := (openGatherings (getTen b e.tenant)).contains e.gathering && decide (e.kind ≠ .loadArea)
  let kept := (b.bd.extents.filter fun e => !open' e).map fun e => { e with lost := true, bytes := [] }
  let b1 := { b with bd := { b.bd with extents := kept },
                     gt := { b.gt with staging := [], level := .normal, full := false } }
  let left := each (upFrom 0 16) (fun n b =>
    abandonSlot b n true ((openGatherings (getTen b (getSlot b n).tenant)).contains (getSlot b n).gathering)) b1
  let b3 := each (liveTenants left) (fun t b =>
    each (openGatherings (getTen b t)) (fun n b =>
      failVote (modG b t n fun g => { g with bindStopped := true, sigs := [] }) t n false) b) left
  let ids := (b3.ver.tiles.filter fun t => !t.freed).map fun t => t.id
  each ids (fun id b =>
    let b1 := modTile b id fun t => { t with intact := false }
    match findTile b1.ver.tiles id with
    | none => b1
    | some t =>
      match t.phase, t.purpose with
      | .queued, _ => voidTile b1 id .resetDdr
      | .confirming, _ => finalFail b1 id false
      | .dispatched, _ => b1
      | .final, _ => b1
      | .unresolved, _ => b1) b3

/-- Commands outstanding for which a test holds complete with a status (R272, R351). -/
def finishOutstanding (b : Block) (hit : CmdOut → Bool) (st : Byte) : Block :=
  each (b.host.outstanding.filter hit) (fun c b => complete b c.iss c.opcode.toNat st) b

/-- The binding engine is reset: its transfers and reads are lost, replies to them are stale, and the restores that ran complete STALE_EDITION
(R272). -/
def resetBind (b : Block) : Block :=
  let b1 := each b.bd.jobs (fun j b =>
    match j.for' with
    | .command => complete b j.iss 0x0504 stStaleEdition
    | .tipIn => complete (modRec b j.tenant fun r => { r with tip := none }) j.iss 0x0604 stStaleEdition
    | .recovery => b) b
  let gone := (b.bd.xfersOut.map fun o => o.x.stream) ++ b.bd.readsOut.map fun o => o.req.replyStream
  { b1 with bd := { b1.bd with staleStreams := b.bd.staleStreams ++ gone, xfersOut := [], readsOut := [], rebuilds := [], jobs := [], groupPushes := [], pushed := [], repairDue := [] } }

/-- HOSTn is reset (R337, R274): the PF's rings, interrupt state and virtual functions go; no status is written for its
commands.  IRQ_PIN_EN is held in the AON domain, HL_ERR stays to report the event. -/
def resetHost (b : Block) (pf : Nat) : Block :=
  let own (i : Issuer) : Bool := i.pf.val == pf
  let gone := (b.host.outstanding.filter fun c => own c.iss).length
  let h := { b.host with outstanding := b.host.outstanding.filter fun c => !own c.iss,
                         done := b.host.done.filter fun r => !own r.iss,
                         rings := b.host.rings.filter fun r => srcPf r.1 != pf }
  let f := getPf b pf
  let left (l : List CmdOut) : List CmdOut := l.filter fun c => !own c.iss
  let w := { b.fw with handover := left b.fw.handover, checkpoint := left b.fw.checkpoint }
  let b1 := setPf { b with host := h, fw := w } pf { irqPinEn := f.irqPinEn }
  let b2 := countStale b1 gone
  each (liveTenants b2) (fun t b =>
    modTen b t fun r => if r.creatingPf = pf then { r with vf := 0 } else r) b2

/-- The management cores are reset: every command that they run completes STALE_EDITION (R272), a trial fails, so that the
old bank boots (R362), and a rebind is abandoned. -/
def resetMgmt (b : Block) : Block :=
  let b1 := finishOutstanding b (fun _ => true) stStaleEdition
  let b2 := if b1.fw.trialEnd.isSome then raise b1 .fw 5 { aboutGlt b1 with domain := 1 } else b1
  { b2 with fw := { b2.fw with phase := .boot, log := [], logWr := 0, rebind := none, checkpoint := [], handover := [],
                               trialEnd := none, trialAdvance := false },
            col := { b2.col with ucodeCluster := none } }

/-! ## Domains -/

/-- What a reset of a domain does to its contents when it is asserted. -/
def domEffect (b : Block) (d : Nat) : Block :=
  if d = 0 then b
  else if d = 1 then resetMgmt b
  else if d ≤ 17 then resetCluster b (d - 2)
  else if d = 18 then loseDdr b
  else if d = 19 then
    each (upFrom 0 4) (fun k b => modDrive b k fun x => { x with trained := false, ready := false }) (stopCold b)
  else if d ≤ 23 then resetHost b (d - 20)
  else if d ≤ 39 then tetherDown (linkDown b (d - 16)) (d - 24)
  else if d ≤ 47 then railLost (linkDown b (d - 40)) (d - 40) .down
  else resetBind b

/-- What the crossings of a domain hold of its old edition is dropped and counted (R272 step 3). -/
def drainCrossings (b : Block) : Block := takeFree (countStale b (Config.crossingHeld b.freeCtr))

/-- A domain leaves reset: READY goes out with its edition, the other sides answer, and accept only that edition from here on
(R272 step 4). -/
def shakeHands (r : Domain) : Domain := { r with inReset := false, holdReset := false, ready := true, seen := r.edition }

/-- A reset of a domain is asserted (R270): the edition increments; a domain already in reset stays as it is. -/
def assertDom (b : Block) (d : Nat) : Block :=
  let r := getDom b d
  if r.inReset || d = 0 then b
  else
    let b1 := setDom b d { r with edition := r.edition + 1, inReset := true, ready := false, beganAt := nowNs b,
                                  resets := r.resets ++ [nowNs b] }
    domEffect (drainCrossings b1) d

/-- Resets of a domain within the last RS_ESC_WINDOW (Table 10.11). -/
def recentResets (b : Block) (d : Nat) : Nat :=
  ((getDom b d).resets.filter fun t => decide (nowNs b < t + b.hr.escWindowS * nsPerSec)).length

/-- What a domain does when it serves again. -/
def startDom (b : Block) (d : Nat) : Block :=
  if d ≤ 1 then b
  else if d ≤ 17 then startCluster b (d - 2)
  else if d = 18 then each (upFrom 0 8) (fun c b => modDdr b c fun x => { x with pending := true, trained := false }) b
  else if d ≤ 23 then b
  else if d ≤ 39 then trainIfMay b (d - 16)
  else if d ≤ 47 then trainIfMay b (d - 40)
  else b

/-- What a withdrawn domain does (R271). -/
def withdrawEffect (b : Block) (d : Nat) : Block :=
  let b1 := if d ≤ 17 then dropCluster b (d - 2)
    else if 24 ≤ d && d ≤ 39 then fileSlot b .tetherLost (d - 24)
    else if d = 48 then
      each (liveTenants b) (fun t b => each (openGatherings (getTen b t)) (fun n b => failVote b t n false) b) b
    else b
  fileSelf b1 d

/-- A reset of a domain completes (R271): the domain serves again, or is withdrawn at its escalation limit. -/
def finishDom (b : Block) (d : Nat) : Block :=
  let r := getDom b d
  if !r.inReset || r.withdrawn then b
  else if d ≥ 2 && recentResets b d ≥ b.hr.escCount then
    let b1 := setDom b d { r with withdrawn := true }
    withdrawEffect (raise b1 .rs 1 { aboutGlt b1 with domain := d, source := d }) d
  else startDom (setDom b d (shakeHands r)) d

/-- A withdrawn domain is readmitted: WITHDRAWN clears and the reset is released. -/
def readmitDom (b : Block) (d : Nat) : Block :=
  let r := getDom b d
  if r.withdrawn then startDom (setDom b d (shakeHands { r with withdrawn := false })) d else b

/-- A full training of a link starts with a reset of its port's domain (R313). -/
def fullTrain (b : Block) (l : Nat) : Block :=
  let d := linkDom l
  let r := getDom b d
  if r.withdrawn || r.holdReset then b
  else
    let b1 := assertDom b d
    if (getDom b1 d).inReset then finishDom b1 d else trainIfMay b1 l

/-- The link layer declares a link failed (R311): a Spine hop acts under R125 and the rail goes on to a fast retrain; a
Tether moves to a fast retrain. -/
def linkFailure (b : Block) (l : Nat) : Block :=
  let b1 := setLinkState b l .failed 0x02 0 0
  let b2 := raise (modLink b1 l fun x => { x with noProgress := 0, slot := none, slotPending := false,
                                                  downSince := some (nowNs b) }) (lkLeaf l) 5 (aboutPort b1 l)
  let b3 := if l < 8 then railLost b2 l .failed else tetherDown b2 (l - 8)
  beginTrain b3 l .fast

end Sys2Proof.Machine
end

