-- ==== Sys2Proof/Machine/Binding.lean ====
section
/-!
DEFINITION. Machine/Binding.lean: the commands of chapter 8: binding transfers and reads (R211-R213), the colophon's
assembly (R214), freeing (R216), SEW, BIND_RESTORE and COLOPHON_READ (R228-R230), restore pages (R221, R222), NVMe
completions (R224-R226), and TIP_IN with the leader's restore order (R304, R295).
-/

namespace Sys2Proof.Machine

/-! ## BIND_WRITE (R210, R211, R214) -/

/-- The region entries, and the data and parity entries, of an ENTRIES transfer. -/
def entriesOf (x : Xfer) : List RegionEntry × List DataEntry :=
  let l := x.bytes.drop (32 * x.row)
  ((records x.bytes 32 x.row).map regionEntryAt, (records l 64 (l.length / 64)).map dataEntryAt)

/-- ENTRIES at the lead controller: of a gathering still open, or the new places of a rebuild (R214, R223). -/
def onEntries (b : Block) (x : Xfer) : Block :=
  let t := x.tenant.val
  let e := entriesOf x
  if !isLead b (getTen b t) || sha256 x.bytes ≠ x.digest then b
  else
    match colophonOf b t x.gathering with
    | some c => if e.1.isEmpty then reissue b t x.gathering c e.2 else b
    | none => takeEntries b t x.gathering x.src e.1 e.2

/-- What a complete BIND_WRITE does, and the status of its ACK. -/
def applyXfer (b : Block) (x : Xfer) : Block × XferStatus :=
  match x.kind with
  | .parityIn =>
    let b1 := takeParity b x (placeTray x.src)
    (b1, if (getG b1 x.tenant.val x.gathering).bindStopped then .noSpace else .ok)
  | .entries => (onEntries b x, .ok)
  | .restorePush | .readReply | .ack => (b, .ok)

/-- A complete BIND_WRITE is applied once and answered with an ACK; a resent one is answered again (R211). -/
def effBindWrite (x : Xfer) (b : Block) : Block :=
  if b.bd.xfersSeen.contains (x.src, x.stream) then
    ackXfer b x (if x.kind = .parityIn && (getG b x.tenant.val x.gathering).bindStopped then .noSpace else .ok)
  else
    let r := applyXfer { b with bd := { b.bd with xfersSeen := b.bd.xfersSeen ++ [(x.src, x.stream)] } } x
    ackXfer r.1 x r.2

/-! ## Entries and the colophon (R214) -/

/-- A participant's entries are ready: its slots are digested, what it owns is matched and written, its parity complete. -/
def entriesReady (b : Block) (t n : Nat) : Bool :=
  let g := getG b t n
  let slots := (slotRanks b t).all fun x =>
    let s := getSlot b x.1
    decide (s.gathering = n) && match s.gphase with
      | .digested | .idle => true
      | .copying | .copied | .abandoned => false
  let sigs := g.sigs.all fun w => !w.owned ||
    (w.matched && (sigExtent b t n (mkHandle t n ((sigIndex b t g w).getD 0))).isSome)
  slots && sigs && parityReady b t n

/-- ENTRIES_SEND: the oldest open gathering whose entries have not gone out. -/
def effEntriesSend (t : Nat) (b : Block) : Block :=
  match (getTen b t).gatherings.find? fun g => decide (g.round = .pending) && !g.rolledBack && !g.entriesSent &&
      decide (g.localVote = .notPosted) && !g.bindStopped && !g.noMap with
  | none => b
  | some g =>
    let b1 := sendCounts b t g.n
    if !isParticipant b (getTen b t) || !entriesReady b1 t g.n then b1
    else
      let rs := ownRegions b1 t g.n
      let es := ownData b1 t g.n ++ ownParity b1 t g.n
      let b2 := modG b1 t g.n fun g => { g with entriesSent := true, phase := .signing, entriesAt := nowNs b }
      let open' := es.any fun d => d.unprotected
      let b3 := if open' then raise b2 .bd 9 (aboutTen b2 t) else b2
      if isLead b3 (getTen b3 t) then takeEntries b3 t g.n (ownPlace b3) rs es
      else sendXfer b3 (entriesXfer b3 t g.n rs es)

def execEntriesSend (tenant : Fin 1024) (s : State) : Host.Outcome State Fault Refusal := act s (effEntriesSend tenant.val)

/-- COLOPHON_TIMEOUT: the lead's own entries went out BD_COLOPHON_TIMEOUT ago and no colophon is signed (R214 step 2). -/
def effColophonTimeout (t : Nat) (b : Block) : Block :=
  match (getTen b t).gatherings.find? fun g => decide (g.round = .pending) && !g.rolledBack && g.entriesSent && g.colophon.isNone with
  | none => b
  | some g =>
    if isLead b (getTen b t) && decide (g.entriesAt + b.bd.colophonTimeoutMs * 1000000 ≤ nowNs b) &&
        decide (g.localVote = .notPosted) && !g.failDue then
      failVote (raise b .bd 5 (aboutTen b t)) t g.n false
    else b

def execColophonTimeout (tenant : Fin 1024) (s : State) : Host.Outcome State Fault Refusal :=
  act s (effColophonTimeout tenant.val)

/-! ## Transfers that time out (R211) -/

/-- The partial transfers under a STREAM whose header has not come in time are dropped and counted. -/
def dropStale (b : Block) (stream : W32) : Block :=
  let n := (b.spine.partials.filter (partialStale b stream)).length
  { b with spine := { b.spine with partials := b.spine.partials.filter fun p => !partialStale b stream p,
                                   dropCount := b.spine.dropCount + n } }

/-- BIND_XFER_TIMEOUT: an unacknowledged transfer of this GLT goes out again, at most twice; a partial transfer without its
header is dropped. -/
def effXferTimeout (stream : W32) (b : Block) : Block :=
  let b1 := dropStale b stream
  match b.bd.xfersOut.find? fun o => o.x.stream == stream with
  | none => b1
  | some o =>
    if nowNs b < o.deadline then b1
    else if o.sent < 3 then
      let again (y : XferOut) : XferOut :=
        if y.x.stream = stream then { y with sent := y.sent + 1, deadline := nowNs b + b.bd.xferTimeoutMs * 1000000 } else y
      putXfer { b1 with bd := { b1.bd with xfersOut := b1.bd.xfersOut.map again } } o.x
    else { b1 with bd := { b1.bd with xfersOut := b1.bd.xfersOut.filter fun y => y.x.stream != stream } }

def execBindXferTimeout (stream : W32) (s : State) : Host.Outcome State Fault Refusal := act s (effXferTimeout stream)

/-! ## BIND_READ at the owner (R204, R205, R212, R213) -/

/-- Whether the extents of a binding are populated: it is being bound, is voting, is sewn and not freed, or was loaded from a
cold copy (R204). -/
def bindingServed (g : Gathering) : Bool :=
  !g.released && (decide (g.round = .sewn) || (decide (g.round = .pending) && !g.rolledBack && !g.bindStopped))

/-- Whether an extent is populated. -/
def extentServed (b : Block) (e : Extent) : Bool :=
  !e.lost && (decide (e.kind = .loadArea) || (hasG b e.tenant e.gathering && bindingServed (getG b e.tenant e.gathering)))

/-- The extent that a read names, of the frame's tenant; its page-digest list follows its bytes. -/
def readExtent (b : Block) (r : BindReadReq) : Option Extent :=
  b.bd.extents.find? fun e =>
    e.tenant == r.tenant.val && e.gathering == r.gathering && e.handle == r.handle && extentServed b e &&
      decide (e.offset ≤ r.offset) && decide (r.offset + r.length ≤ e.offset + extentBytes e)

/-- An extent as it lies in binding memory: its bytes, and from the next 64 KiB boundary its page-digest list. -/
def extentImage (e : Extent) : List Byte :=
  readBytes e.bytes 0 ((e.length + 65535) / 65536 * 65536) ++ e.pageDigests.flatMap digestBytes

/-- Answers a read. -/
def readReply (b : Block) (r : BindReadReq) (st : XferStatus) (bytes : List Byte) : Block :=
  sendData b { kind := .readReply, status := st, gathering := r.gathering, handle := r.handle, length := bytes.length,
               digest := if bytes.isEmpty then 0 else listDigest (pageDigestsOf bytes), bytes := bytes, tenant := r.tenant,
               dest := r.src, stream := r.replyStream }

/-- A read is served: every page is checked; a bad page answers LOST and is repaired in place (R212, R213). -/
def serveRead (b : Block) (r : BindReadReq) (e : Extent) : Block :=
  let off := r.offset - e.offset
  let b1 := count { b with bd := { b.bd with reads := b.bd.reads + 1 } } (bindCounter 5) 1
  let bad := badIn e off (min r.length (e.length - off))
  if bad.isEmpty then readReply b1 r .ok (readBytes (extentImage e) off r.length)
  else readReply (noteBad b1 e bad) r .lost []

/-- BIND_READ. -/
def effBindRead (r : BindReadReq) (b : Block) : Block :=
  let shape := decide (r.offset % 65536 = 0) && decide (r.length % 65536 = 0) && decide (r.length ≤ 4 * gib)
  match (if shape then readExtent b r else none) with
  | none => readReply b r .notPopulated []
  | some e => serveRead b r e

/-! ## BIND_DATA at the requester (R211, R212) -/

/-- A read of this GLT is over. -/
def closeRead (b : Block) (stream : W32) : Block :=
  { b with bd := { b.bd with readsOut := b.bd.readsOut.filter fun o => o.req.replyStream != stream } }

/-- How a read ends: with bytes, with pages that failed at the owner, or without an answer that helps. -/
inductive ReadEnd where
  | bytes (l : List Byte) | lost | absent
  deriving DecidableEq, Repr

/-- A whole signature failed: its page-digest list is asked for, so that only the bad pages are read again (R221). -/
def askList (b : Block) (j : RestoreJob) (d : DataEntry) : Block :=
  issueRead b j.tenant j.gathering d ((d.length + 65535) / 65536 * 65536)
    ((32 * ((d.length + 65535) / 65536) + 65535) / 65536 * 65536) (.list j.id)

/-- The signature in hand has been read, or not. -/
def jobRead (r : ReadEnd) (j : RestoreJob) (d : DataEntry) (b : Block) : Block :=
  match r with
  | .bytes l =>
    let b1 := modJob b j.id fun x => { x with bytes := l, remote := x.remote + l.length / 65536 }
    if digestIs l d.digest then modJob b1 j.id fun x => { x with ready := true } else askList b1 j d
  | .lost => askList b j d
  | .absent => degraded b j.tenant j.gathering d none (.job j.id)

/-- The page-digest list of the signature in hand has been read: its pages that fail are fetched one by one, from parity where
the list does not have the colophon's digest. -/
def jobList (r : ReadEnd) (j : RestoreJob) (d : DataEntry) (b : Block) : Block :=
  let n := (d.length + 65535) / 65536
  let digs := match r with
    | .bytes l => (records l 32 n).map fun x => digestAt x 0
    | .lost | .absent => []
  if listDigest digs ≠ d.digest then degraded b j.tenant j.gathering d none (.job j.id)
  else
    let bad := (upFrom 0 n).filter fun i => sha256 ((j.bytes.drop (i * 65536)).take 65536) != nthD 0 digs i
    fetchPages (modJob (if j.bytes.isEmpty then b else countBad b bad.length) j.id fun x =>
      { x with want := bad, pageDigs := digs }) j.id

/-- A page of the signature in hand has been read, or not. -/
def jobPage (p : Nat) (r : ReadEnd) (j : RestoreJob) (d : DataEntry) (b : Block) : Block :=
  let dig := nthD 0 j.pageDigs p
  match r with
  | .bytes l =>
    if sha256 l = dig then putPage (modJob b j.id fun x => { x with remote := x.remote + 1 }) j.id p l
    else degraded (countBad b 1) j.tenant j.gathering d (some (p, dig)) (.page j.id p)
  | .lost | .absent => degraded b j.tenant j.gathering d (some (p, dig)) (.page j.id p)

/-- Hands a read to its job. -/
def toJob (b : Block) (id : Nat) (f : RestoreJob → DataEntry → Block → Block) : Block :=
  match getJob b id with
  | none => b
  | some j => j.cur.elim b fun d => goJob (f j d b) id

/-- Whether a fragment that was read may serve its rebuild. -/
def fragServes (b : Block) (k m : Nat) (l : List Byte) : Bool :=
  match getRebuild b k with
  | none => false
  | some r => ((colophonOf b r.tenant r.gathering).bind fun c => memberEntry c r.stripe m).any fun d => fragOk d r l

/-- A fragment of a degraded read has been read, or cannot be. -/
def fragRead (k m : Nat) (r : ReadEnd) (b : Block) : Block :=
  let live : Option (List Byte) := match r with
    | .bytes l => if fragServes b k m l then some l else none
    | .lost | .absent => none
  goJobs (runRebuild (modRebuild b k fun x =>
    { x with asked := without x.asked m,
             frags := live.elim x.frags (tabPut x.frags m),
             dead := if live.isSome then x.dead else x.dead ++ [m] }) k)

/-- A read has ended. -/
def readDone (b : Block) (o : ReadOut) (r : ReadEnd) : Block :=
  let b1 := closeRead b o.req.replyStream
  match o.use with
  | .job id => toJob b1 id (jobRead r)
  | .list id => toJob b1 id (jobList r)
  | .page id p => toJob b1 id (jobPage p r)
  | .frag k m => fragRead k m r b1

/-- What a READ_REPLY brings; bytes that its DIGEST does not fit count as failed. -/
def replyEnd (o : ReadOut) (x : Xfer) : ReadEnd :=
  match x.status with
  | .ok =>
    if x.length = o.req.length ∧ x.bytes.length = x.length ∧ listDigest (pageDigestsOf x.bytes) = x.digest then .bytes x.bytes
    else .lost
  | .lost => .lost
  | .notPopulated | .noSpace => .absent

/-- A reply to a request that BIND made under an earlier edition is dropped and counted (R274). -/
def staleReply (b : Block) (x : Xfer) : Block :=
  countStale { b with bd := { b.bd with staleStreams := b.bd.staleStreams.erase x.stream } } 1

/-- BIND_DATA: an ACK ends a transfer; a READ_REPLY ends a read. -/
def effBindData (x : Xfer) (b : Block) : Block :=
  if b.bd.staleStreams.contains x.stream then staleReply b x
  else
  match x.kind with
  | .ack => { b with bd := { b.bd with xfersOut := b.bd.xfersOut.filter fun o => o.x.stream != x.stream } }
  | .readReply =>
    match b.bd.readsOut.find? fun o => o.req.replyStream == x.stream with
    | none => b
    | some o =>
      let r := replyEnd o x
      readDone (if x.status = .ok && r == .lost then countBad b 1 else b) o r
  | .parityIn | .entries | .restorePush => b

/-- A read of this GLT goes out again under a new REPLY_STREAM. -/
def readAgain (b : Block) (o : ReadOut) : Block :=
  let s := b.spine.nextStream
  let o1 := { o with req := { o.req with replyStream := s }, tries := o.tries + 1,
                     deadline := nowNs b + b.bd.readTimeoutMs * 1000000 }
  let swap (y : ReadOut) : ReadOut := if y.req.replyStream = o.req.replyStream then o1 else y
  let b1 := takeStream b
  putRead { b1 with bd := { b1.bd with readsOut := b1.bd.readsOut.map swap } } o1.dest o1.req

/-- BIND_READ_TIMEOUT: the read goes out again, at most twice; then its bytes are read degraded, and the silent GLT is
reported (R212, R283). -/
def effReadTimeout (stream : W32) (b : Block) : Block :=
  match b.bd.readsOut.find? fun o => o.req.replyStream == stream with
  | none => b
  | some o =>
    if nowNs b < o.deadline then b
    else if o.tries < 3 then readAgain b o
    else readDone (fileReport b .spineSilent o.dest false) o .absent

def execBindReadTimeout (stream : W32) (s : State) : Host.Outcome State Fault Refusal := act s (effReadTimeout stream)

/-! ## Freeing (R216) -/

/-- Whether anything in progress names a binding. -/
def bindingBusy (b : Block) (t n : Nat) : Bool :=
  heldOrHolding (getTen b t).hold || (b.bd.jobs.any fun j => j.tenant == t && j.gathering == n) ||
    (b.bd.cold.any fun c => c.tenant == t && c.gathering == n) ||
    (b.bd.rebuilds.any fun r => r.tenant == t && r.gathering == n)

def effBindingFree (t n : Nat) (b : Block) : Block :=
  let g := getG b t n
  if hasG b t n && g.displaced && !g.released && !bindingBusy b t n then freeBinding b t n else b

def execBindingFree (tenant : Fin 1024) (gathering : Nat) (s : State) : Host.Outcome State Fault Refusal :=
  act s (effBindingFree tenant.val gathering)

/-! ## SEW (R228) -/

/-- POLICY's fields in their ranges. -/
def sewPolicyOk (b : Block) (p : SewP) : Bool :=
  within 24 32 p.sigShift && within 4 14 p.k && within 1 4 p.m && within 1 4 p.retain && decide (p.coldEvery ≤ 255) &&
    decide (4 * p.loadArea ≤ b.ident.fittedGib)

/-- A BROADCAST or a LOAD uses the tenant's load area. -/
def loadAreaBusy (b : Block) (t : Nat) : Bool :=
  (b.spine.bcasts.any fun x => x.isCommand && x.tenant == t) || b.bd.jobs.any fun j => j.tenant == t && j.action == 3

/-- Gives the tenant a load area of a size, new; none where it does not fit. -/
def resizeLoad (b : Block) (t size : Nat) : Option Block :=
  let b1 := modTen (dropExtents b fun e => e.tenant == t && decide (e.kind = .loadArea)) t fun r => { r with loadAreaGib := size }
  if size = 0 then some b1
  else (allocExtent b1 { kind := .loadArea, tenant := t, length := size * gib, complete := true }).map Prod.fst

/-- FROM_GATHERING as a number; 0 is the next start. -/
def fromStart (r : TenantRec) (n : Nat) : Nat := if n = 0 then r.started + 1 else n

/-- A change takes its place among those that wait, by its FROM_GATHERING, after the ones that came before it. -/
def pendAt {α : Type} (l : List (Nat × α)) (x : Nat × α) : List (Nat × α) := insertBy (fun x y => decide (x.1 < y.1)) x l

/-- POLICY: RETAIN and LOAD_AREA at once, the rest from FROM_GATHERING. -/
def sewPolicy (b : Block) (iss : Issuer) (p : SewP) : Block :=
  let t := iss.tenant.val
  let from' := fromStart (getTen b t) p.fromGathering
  let done := complete b iss 0x0503
  let apply (b : Block) : Block :=
    complete (modTen b t fun r =>
      displace { r with pendPolicy := pendAt r.pendPolicy (from', p.sigShift, p.k, p.m, p.coldEvery, p.protectRepl),
                        retain := p.retain }) iss 0x0503 stOk
  if p.loadArea = (getTen b t).loadAreaGib then apply b
  else if loadAreaBusy b t then done stRefused
  else
    match resizeLoad b t p.loadArea with
    | some b1 => apply b1
    | none => done stNoResource

/-- No two entries share RANK and REGION. -/
def mapDistinct : List MapEntry → Bool
  | [] => true
  | e :: r => (r.all fun x => x.rank != e.rank || x.region != e.region) && mapDistinct r

def mapEntryOk (e : MapEntry) : Bool :=
  !e.rsv && decide (e.rank < 262144) && decide (e.region < 64) && decide (e.firstIndex < 4194304)

def effSew (iss : Issuer) (p : SewP) (b : Block) : Block :=
  let t := iss.tenant.val
  let r := getTen b t
  let done := complete b iss 0x0503
  if !fromCreator b iss then done stNotAuthorised
  else if p.rsv || decide (p.action.toNat > 2) then done stBadParam
  else if p.action = 0 then
    if sewPolicyOk b p && notStarted r p.fromGathering then sewPolicy b iss p else done stBadParam
  else if p.action = 1 then
    if decide (p.mapAddr % 16 = 0) && within 1 1048576 p.mapCount && p.map.length == p.mapCount && p.map.all mapEntryOk && mapDistinct p.map &&
        notStarted r p.fromGathering then
      complete (modTen b t fun r => { r with pendMap := pendAt r.pendMap (fromStart r p.fromGathering, p.map) }) iss 0x0503 stOk
    else done stBadParam
  else if !((retained r).any fun g => g.n == p.gathering) then done stBadParam
  else if coldFree b then complete (coldStart b t p.gathering) iss 0x0503 stOk
  else done stNoResource

def execSew (iss : Issuer) (p : SewP) (s : State) : Host.Outcome State Fault Refusal := act s (effSew iss p)

/-! ## BIND_RESTORE (R218-R223, R226, R229) -/

/-- REBUILD on its TARGET: every striped fragment that PLACE held. -/
def startRebuildJob (b : Block) (j : RestoreJob) (place target : Place) : Block × Option Byte :=
  let n := restoreGathering b j.tenant j.gathering
  match colophonOf b j.tenant n with
  | none => (b, some stBadParam)
  | some c =>
    if target ≠ ownPlace b || placeLevel place ≠ 2 || !placeOk place then (b, some stBadParam)
    else
      let held := (c.data ++ c.parity).filter fun d => d.place == place
      let lost := (held.find? fun d => d.stripe.isNone).map fun d => d.index
      (addJob b { j with gathering := n, todo := held.filter fun d => d.stripe.isSome, firstLost := lost }, none)

/-- A drive's half that holds a complete copy of a gathering, the newest first. -/
def storedCopy (b : Block) (t n : Nat) : Option ColdStored :=
  (b.bd.coldStore.reverse).find? fun x => x.tenant == t && x.gathering == n

/-- FROM_COLD: the newest complete cold copy of the gathering is read back (R226). -/
def startColdJob (b : Block) (j : RestoreJob) : Block × Option Byte :=
  let n := restoreGathering b j.tenant j.gathering
  match storedCopy b j.tenant n with
  | none => (b, some (if (colophonOf b j.tenant n).isSome then stNoResource else stBadParam))
  | some c =>
    if b.bd.cold.isSome || (b.bd.jobs.any fun x => x.action == 2) || (coldDrives b).isEmpty || (getDom b 19).inReset ||
        (getDom b 19).withdrawn then (b, some stNoResource)
    else
      let ds := coldDrives b
      let total := listSum (c.extents.map fun e => e.length + 32 * e.pageDigests.length)
      let chunks := Nat.max 1 ((total + 1048575) / 1048576)
      let id := b.bd.nextId
      let b1 := { b with bd := { b.bd with nextId := id + 1,
                                           jobs := b.bd.jobs ++ [{ j with id := id, gathering := n, left := chunks }] } }
      (each (upFrom 0 chunks) (fun i b =>
        let d := nthD 0 ds (i % ds.length)
        nvmeCmd b d 2 (halfLba (getDrive b d) c.half + 1 + i / ds.length * 256) (chunkBytes total i) []) b1, none)

/-- LOAD: bytes of the load area into a region of a rank, signature by signature. -/
def startLoadJob (b : Block) (j : RestoreJob) (region len : Nat) : Block × Option Byte :=
  let t := j.tenant
  let r := getTen b t
  let slot := placeSlot (nthD 0 r.places j.rank)
  let area := ((loadArea b t).map fun e => e.length).getD 0
  match (currentList b t slot).find? fun d => d.region.val == region with
  | none => (b, some stBadParam)
  | some d =>
    if !(localRanks b r).contains j.rank || len % 65536 ≠ 0 || decide (d.length < len) || decide (area < j.source + len) then
      (b, some stBadParam)
    else if !mayRestore b t then (b, some stRefused)
    else
      let sz := 2 ^ r.sigShift
      let first := (firstIndex r.map j.rank d).getD 0
      let es := (upFrom 0 ((len + sz - 1) / sz)).map fun i =>
        { index := first + i, region := d.region, rank := j.rank, offset := i * sz, length := min sz (len - i * sz) : DataEntry }
      (addJob (rollBackSlot b t slot) { j with slot := slot, base := d.base, todo := es }, none)

/-- BIND_RESTORE: a command that passes its shape checks writes its result block whenever it completes (R229). -/
def effBindRestore (iss : Issuer) (p : BindRestoreP) (b : Block) : Block :=
  let t := iss.tenant.val
  let j : RestoreJob := { iss := iss, tenant := t, action := p.action.toNat, rank := p.rank, gathering := p.gathering,
                          resultAddr := p.resultAddr, group := p.group, source := p.place }
  let malformed := p.rsv || decide (p.action.toNat > 3) || decide (p.resultAddr % 32 ≠ 0)
  let run : Block × Option Byte :=
    if !fromCreator b iss then (b, some stNotAuthorised)
    else if malformed then (b, some stBadParam)
    else if p.action = 0 then startRestoreJob b j p.classes
    else if p.action = 1 then startRebuildJob b j (BitVec.ofNat 40 p.place) (BitVec.ofNat 40 p.target)
    else if p.action = 2 then startColdJob b j
    else startLoadJob b { j with gathering := 0 } p.region p.target
  match run.2 with
  | none => run.1
  | some st =>
    let b1 := if fromCreator b iss && !malformed then hostWrite run.1 iss p.resultAddr (jobBlock b j) else run.1
    complete b1 iss 0x0504 st

def execBindRestore (iss : Issuer) (p : BindRestoreP) (s : State) : Host.Outcome State Fault Refusal :=
  act s (effBindRestore iss p)

/-- RESTORE_ORDER: the leader's order to restore every rank that this GLT serves (R295 step 4). -/
def execRestoreOrder (tenant : Fin 1024) (s : State) : Host.Outcome State Fault Refusal :=
  act s fun b => restoreAll b tenant.val

/-! ## Restore pages (R221, R222, R219) -/

/-- A page goes out again, or after its third try the command ends with INTERNAL and a record names slot and page. -/
def pageAgain (b : Block) (j : RestoreJob) (d : DataEntry) : Block :=
  if j.tries < 3 then sendPage b j d
  else loseJob (flyEvent b 0x00E0 { aboutSlot b j.slot with context := j.page, arg := d.index }) j stInternal

/-- WRITTEN: the read-back CRC and the status of a restore page. -/
def effWritten (n : Nat) (w : WrittenMsg) (b : Block) : Block :=
  match b.bd.jobs.find? fun j => j.slot == n && j.addr == w.addr && decide (j.tries ≠ 0) && j.action != 1 && j.action != 2 with
  | none => b
  | some j =>
    match j.cur with
    | none => b
    | some d =>
      if w.status = 1 then
        if j.armedSeen then loseJob b j stRefused
        else
          let b1 := modJob (abandonSlot b n false true) j.id fun k => { k with armedSeen := true }
          pageAgain b1 { j with armedSeen := true } d
      else if w.status = 0 && w.crc == j.crc then
        goJob (count (modJob b j.id fun k =>
          { k with bytesDone := k.bytesDone + 65536, page := k.page + 1, tries := 0, armedSeen := false })
          (slotCounter n 12) 65536) j.id
      else pageAgain b j d

def execWritten (slot : Fin 16) (w : WrittenMsg) (s : State) : Host.Outcome State Fault Refusal :=
  act s (effWritten slot.val w)

/-- GROUP_PUSH_TIMEOUT: a member has waited BD_COLOPHON_TIMEOUT for a push: it reads the signature itself (R222). -/
def effPushTimeout (n : Nat) (h : W64) (b : Block) : Block :=
  match b.bd.jobs.find? fun j => j.slot == n && (j.cur.any fun d => mkHandle j.tenant j.gathering d.index == h) && j.pushWait.isSome with
  | none => b
  | some j =>
    match j.cur, j.pushWait with
    | some d, some till =>
      if nowNs b < till then b
      else
        let j1 := { j with pushWait := none }
        goJob (fetchSig (modJob b j.id fun _ => j1) j1 d) j.id
    | _, _ => b

def execGroupPushTimeout (slot : Fin 16) (handle : W64) (s : State) : Host.Outcome State Fault Refusal :=
  act s (effPushTimeout slot.val handle)

/-! ## NVMe completions (R224-R226) -/

/-- The next step of a cold copy, when every command of the one before has completed. -/
def coldNext (b : Block) (c : ColdCopy) : Block :=
  let put (b : Block) (s : ColdStep) : Block :=
    { b with bd := { b.bd with cold := some { c with step := s, left := c.drives.length } } }
  match c.step with
  | .repair => b
  | .data => each c.drives (fun d b => nvmeCmd b d 0 0 0 []) (put b .flush1)
  | .flush1 =>
    let header := coldHeader b c.tenant c.gathering
    each c.drives (fun d b => nvmeCmd b d 1 (halfLba (getDrive b d) c.half) 4096 header) (put b .header)
  | .header => each c.drives (fun d b => nvmeCmd b d 0 0 0 []) (put b .flush2)
  | .flush2 =>
    let s : ColdStored := { tenant := c.tenant, gathering := c.gathering, half := c.half,
                            extents := coldExtents b c.tenant c.gathering, colophon := colophonOf b c.tenant c.gathering }
    let b1 := each c.drives (fun d b => modDrive b d fun x => { x with newest := some (c.tenant, c.gathering, c.half) }) b
    modTen { b1 with bd := { b1.bd with cold := none, coldStore := b1.bd.coldStore ++ [s] } } c.tenant fun r =>
      { r with coldGathering := c.gathering, coldBusy := none }

/-- Allocates the extents of a cold copy beside the others. -/
def placeCold : List Extent → Block → Option Block
  | [], b => some b
  | e :: r, b => (allocExtent b { e with cold := true }).bind fun x => placeCold r x.1

/-- Every chunk of a cold copy has been read: its extents are binding memory again and its colophon serves (R226). -/
def coldLoaded (b : Block) (j : RestoreJob) : Block :=
  match storedCopy b j.tenant j.gathering with
  | none => endJob b j stNoResource
  | some c =>
    match placeCold (c.extents.filter fun e => decide (e.kind ≠ .loadArea)) b with
    | none => endJob b j stNoResource
    | some b1 =>
      let bad := listSum (c.extents.map fun e => (badIn e 0 e.length).length)
      let g := getG b1 j.tenant j.gathering
      let b2 := if hasG b1 j.tenant j.gathering && !g.released then b1
        else modG b1 j.tenant j.gathering fun g =>
          { g with fromCold := true, released := false, round := .sewn, phase := .sewn, colophon := c.colophon,
                   colophonOk := c.colophon.isSome, step := j.gathering * (getTen b1 j.tenant).s }
      endJob (countBad b2 bad) { j with bytesDone := listSum (c.extents.map fun e => e.length) } stOk

/-- NVME_COMPLETION: an error stops the copy, or ends the read; a success moves it on. -/
def effNvme (d : Nat) (res : OpEnd) (b : Block) : Block :=
  let job := b.bd.jobs.find? fun j => j.action == 2
  match res with
  | .error code =>
    let b1 := modDrive (count b (driveCounter d 4) 1) d fun x => { x with error := true, lastErr := code }
    let b2 := stopCold b1
    match job with
    | none => b2
    | some j => endJob (raise b2 .bd 10 (aboutTen b2 j.tenant)) j stNoResource
  | .ok =>
    match b.bd.cold, job with
    | some c, _ =>
      if !c.drives.contains d then b
      else if c.left ≤ 1 then coldNext b c
      else { b with bd := { b.bd with cold := some { c with left := c.left - 1 } } }
    | none, some j =>
      if j.left ≤ 1 then coldLoaded b j else modJob b j.id fun k => { k with left := k.left - 1 }
    | none, none => b

def execNvmeCompletion (drive : Fin 4) (res : OpEnd) (s : State) : Host.Outcome State Fault Refusal :=
  act s (effNvme drive.val res)

/-! ## COLOPHON_READ (R230) -/

def effColophonRead (iss : Issuer) (p : ColophonReadP) (b : Block) : Block :=
  let done := complete b iss 0x0505
  if !fromTenant b iss then done stNotAuthorised
  else if p.rsv || decide (p.offset % 64 ≠ 0) || decide (p.length % 64 ≠ 0) || decide (p.length > gib) || decide (p.dest % 64 ≠ 0) then
    done stBadParam
  else
    match colophonOf b iss.tenant.val p.gathering with
    | none => done stBadParam
    | some c =>
      let l := colophonBytes c
      if p.offset > l.length then done stBadParam
      else
        let out := (l.drop p.offset).take p.length
        completeAt (if out.isEmpty then b else hostWrite b iss p.dest out) iss 0x0505 stOk out.length l.length (nowNs b)

def execColophonRead (iss : Issuer) (p : ColophonReadP) (s : State) : Host.Outcome State Fault Refusal :=
  act s (effColophonRead iss p)

/-! ## TIP_IN (R297, R298, R304) -/

/-- The spare is on this tray: the tip-in takes effect, and with RESTORE its restore runs. -/
def tipLocal (b : Block) (iss : Issuer) (p : TipInP) (failed : Place) : Block :=
  let t := iss.tenant.val
  let n := placeSlot p.spare
  let fd := if onTray b failed then (getSlot b (placeSlot failed)).decl else (getSlot b n).decl
  let group := if onTray b failed then (getSlot b (placeSlot failed)).group else (getSlot b n).group
  if !spareFits b n group fd then complete b iss 0x0604 stNoResource
  else
    let b1 := tipInHere b t p.rank n failed
    if !p.restore then complete b1 iss 0x0604 stOk
    else
      let w : TipWait := { iss := iss, rank := p.rank, restore := true, resultAddr := p.resultAddr, answered := true }
      let b2 := modRec b1 t fun r => { r with tip := some w }
      let run := startRestoreJob b2 { iss := iss, for' := .tipIn, tenant := t, rank := p.rank, resultAddr := p.resultAddr } 0
      match run.2 with
      | none => run.1
      | some st => finishTip run.1 t st

def effTipIn (iss : Issuer) (p : TipInP) (b : Block) : Block :=
  let t := iss.tenant.val
  let r := getTen b t
  let done := complete b iss 0x0604
  let failed := accelOf (nthD 0 r.places p.rank)
  if !(isAdmin b iss || fromCreator b iss) then done stNotAuthorised
  else if p.rsv || decide (r.places.length ≤ p.rank) || placeLevel p.spare ≠ 1 || !placeOk p.spare ||
      (p.restore && decide (p.resultAddr % 32 ≠ 0)) then done stBadParam
  else if !tenantHeld b t || recBusy b t || r.rec'.tip.isSome then done stRefused
  else if onTray b p.spare then tipLocal b iss p failed
  else
    let w : TipWait := { iss := iss, rank := p.rank, restore := p.restore, resultAddr := p.resultAddr,
                         until' := nowNs b + b.sus.probeTimeoutMs * 1000000 }
    emit (modRec b t fun r => { r with tip := some w }) (.order (trayOf p.spare) (.claim t p.rank p.spare failed))

def execTipIn (iss : Issuer) (p : TipInP) (s : State) : Host.Outcome State Fault Refusal := act s (effTipIn iss p)

end Sys2Proof.Machine
end

