-- ==== Sys2Proof/Machine/Taps.lean ====
section
/-!
DEFINITION. Machine/Taps.lean: what the sentinel samples and fetches: tap descriptors (R87-R93, R235), block seals (R237,
R238), and the completions of its reads (R236, R243).
-/

namespace Sys2Proof.Machine

/-! ## Descriptors (R88) -/

/-- Bits of an element of a format of Table 2.1. -/
def inBits (c : Nat) : Nat :=
  if c = 3 ∨ c = 4 then 16 else if c = 5 then 32 else if c = 0xA ∨ c = 0xB then 6 else if c = 0xC then 4 else 8

/-- C is carried where CINIT is 1 or 2. -/
def takesC (t : TapDesc) : Bool := (readAcc t.accDesc).cinit == 1 || (readAcc t.accDesc).cinit == 2

/-- R88: whether the sentinel accepts a descriptor. -/
def tapOk (t : TapDesc) : Bool :=
  inFmtOk t.aFmt.toNat && inFmtOk t.bFmt.toNat && within 1 65535 t.m && within 1 65535 t.n && within 1 1048576 t.k &&
    t.rsv == 0 && (!isMx t.aFmt.toNat || t.saAddr != 0) && (!isMx t.bFmt.toNat || t.sbAddr != 0) &&
    (!takesC t || (decide (t.cFmt.toNat ≤ 8) && t.cFmt != 4))

/-! ## The record (Table 4.2, R92) -/

def up64B (n : Nat) : Nat := (n + 63) / 64 * 64

/-- Element bytes of a row of A or a column of B. -/
def kBytes (fmt k : Nat) : Nat := (k * inBits fmt + 7) / 8

/-- The header with its sections laid out for a sub-block: A, its scales, B, its scales, C, the output, each 64-byte
aligned (DESIGN CHOICE: Table 4.2 names the offsets and no order). -/
def layHdr (h : TileHdr) (m n : Nat) : TileHdr :=
  let t := h.tap
  let mxA := isMx t.aFmt.toNat
  let mxB := isMx t.bFmt.toNat
  let aOff := 256
  let saOff := aOff + m * up64B (kBytes t.aFmt.toNat t.k)
  let bOff := if mxA then saOff + up64B (m * (t.k / 32)) else saOff
  let sbOff := bOff + n * up64B (kBytes t.bFmt.toNat t.k)
  let cOff := if mxB then sbOff + up64B (n * (t.k / 32)) else sbOff
  let yOff := if takesC t then cOff + up64B (m * n * outBytes t.cFmt.toNat) else cOff
  { h with aOff := aOff, saOff := if mxA then saOff else 0, bOff := bOff, sbOff := if mxB then sbOff else 0,
           cOff := if takesC t then cOff else 0, yOff := yOff, subM := m, subN := n,
           recLen := yOff + up64B (m * n * outBytes (readAcc t.accDesc).outFmt) }

/-- The sub-block of R92: the larger side is halved until the record fits in 16 MiB. -/
def cutBlock (h : TileHdr) : Nat → Nat → Nat → Nat × Nat
  | 0, m, n => (m, n)
  | f + 1, m, n =>
    if (layHdr h m n).recLen ≤ 16777216 then (m, n)
    else if n ≤ m then cutBlock h f ((m + 1) / 2) n
    else cutBlock h f m ((n + 1) / 2)

/-- The header of a sampled tile: whole, or a randomly placed sub-block; also how many draws it took. -/
def placeRec (h : TileHdr) (draw : Nat → Nat) : TileHdr × Nat :=
  let t := h.tap
  let (m, n) := cutBlock h 40 t.m t.n
  if m = t.m ∧ n = t.n then (layHdr h m n, 0)
  else ({ layHdr h m n with rowOff := draw 0 % (t.m - m + 1), colOff := draw 1 % (t.n - n + 1) }, 2)

/-- The blocks of a tile in the order of their fetch: rows of A, columns of B, rows of the output, rows of C (R237). -/
def tileBlocks (h : TileHdr) : List TileBlock :=
  let t := h.tap
  let sc (fmt : Nat) : Nat := if isMx fmt then t.k / 32 else 0
  let a := (upFrom h.rowOff h.subM).map fun i =>
    ({ which := 0, idx := i, addr := t.aAddr.toNat + i * t.aStride.toNat, elemBytes := kBytes t.aFmt.toNat t.k,
       scaleAddr := t.saAddr.toNat + i * (t.k / 32), scaleBytes := sc t.aFmt.toNat } : TileBlock)
  let c := (upFrom h.colOff h.subN).map fun i =>
    ({ which := 1, idx := i, addr := t.bAddr.toNat + i * t.bStride.toNat, elemBytes := kBytes t.bFmt.toNat t.k,
       scaleAddr := t.sbAddr.toNat + i * (t.k / 32), scaleBytes := sc t.bFmt.toNat } : TileBlock)
  let y := (upFrom h.rowOff h.subM).map fun i =>
    ({ which := 2, idx := i, addr := t.yAddr.toNat + i * t.yStride.toNat,
       elemBytes := t.n * outBytes (readAcc t.accDesc).outFmt } : TileBlock)
  let z := (upFrom h.rowOff h.subM).map fun i =>
    ({ which := 3, idx := i, addr := t.cAddr.toNat + i * t.cStride.toNat, elemBytes := t.n * outBytes t.cFmt.toNat } : TileBlock)
  a ++ c ++ y ++ (if takesC t then z else [])

/-- Blocks of one operand. -/
def blocksOf (f : Fetch) (w : Fin 4) : List TileBlock := f.done.filter fun k => k.which == w

/-- The element bytes of a block, and the part of a row that the sub-block takes. -/
def elems (k : TileBlock) : List Byte := k.got.take k.elemBytes
def rowPart (h : TileHdr) (w : Nat) (k : TileBlock) : List Byte := ((elems k).drop (h.colOff * w)).take (h.subN * w)

/-- The record's bytes behind its header. -/
def recordData (f : Fetch) : List Byte :=
  let t := f.hdr.tap
  ((blocksOf f 0).flatMap fun k => pad64 (elems k)) ++ pad64 ((blocksOf f 0).flatMap fun k => k.gotScale) ++
    ((blocksOf f 1).flatMap fun k => pad64 (elems k)) ++ pad64 ((blocksOf f 1).flatMap fun k => k.gotScale) ++
    pad64 ((blocksOf f 3).flatMap (rowPart f.hdr (outBytes t.cFmt.toNat))) ++
    pad64 ((blocksOf f 2).flatMap (rowPart f.hdr (outBytes (readAcc t.accDesc).outFmt)))

/-! ## Ends of a fetch (R235, R238) -/

def voidOf (h : TileHdr) (c : Cause) : TileVoid :=
  { tapSeq := h.tapSeq, step := h.step, runSeq := h.tap.runSeq, unit := h.tap.unit, cause := c, edition := h.edition,
    domain := h.domain }

/-- A descriptor is answered: one less is outstanding. -/
def answerTap (b : Block) (n : Nat) (f : Fetch) (status : Byte) : Block :=
  snHinge (modSn b n fun s => { s with tapOut := s.tapOut - 1 }) n (.tapDone f.tag f.hdr.tapSeq status)

/-- A fetch ends without its record: TAP_DONE status 3, the end of the stream that it had begun, and a TILE_VOID (R238,
R239). -/
def endFetch (b : Block) (n : Nat) (f : Fetch) (c : Cause) : Block :=
  let b1 := answerTap (modSn b n fun s => { s with fetches := s.fetches.filter fun x => x.hdr.tapSeq != f.hdr.tapSeq }) n f 3
  finishFetch (abortStreams b1 n f.stream.toList) n f (.void (voidOf f.hdr c))

/-- R238: a seal or a read of a fetch fails: it is recorded and counted, and the GLT is told. -/
def failFetch (b : Block) (n : Nat) (f : Fetch) (c : Cause) : Block :=
  if f.discard then endFetch b n f .resetAccel
  else
    let b1 := snMargin (endFetch b n f c) n 0 0x88 0 (f.hdr.tap.unit.setWidth 32)
    let b2 := count (modSn b1 n fun s => { s with cntSealFail := s.cntSealFail + 1 }) (slotCounter n 14) 1
    let b3 := raise b2 (.sn n) 3 { aboutSlot b n with place := unitPlace b n f.hdr.tap.unit.toNat }
    snTell b3 n (.report (if c = .fetch then .fetch f.hdr.tap.unit else .seal f.hdr.tap.unit))

/-- The sub-cause of a block's seal (Table 4.5). -/
def sealCause (w : Fin 4) : Cause :=
  match w.val with | 0 => .sealA | 1 => .sealB | 2 => .sealOut | _ => .sealC

/-- R237: the seal that a block's bytes give, and whether the stored one matches. -/
def sealOf (k : TileBlock) : W64 :=
  crc64Run 0xC96C5795D7870F42 0xFFFFFFFFFFFFFFFF (elems k ++ k.gotScale) ^^^ 0xFFFFFFFFFFFFFFFF
def sealOk (k : TileBlock) : Bool := k.got.drop ((k.elemBytes + 7) / 8 * 8) == leBytes 8 (sealOf k).toNat

/-- A block of the fetch in hand is complete: its seal is checked; with the last one the record is shipped (R235). -/
def blockDone (b : Block) (n : Nat) (f : Fetch) (rest : List Fetch) (k : TileBlock) : Block :=
  if f.discard || !sealOk k then failFetch b n f (sealCause k.which)
  else
    let f1 := { f with cur := none, done := f.done ++ [k] }
    if f1.todo.isEmpty then
      finishFetch (answerTap (modSn b n fun s => { s with fetches := rest }) n f1 1) n f1
        (.record f1.hdr (recordData f1) f1.stream)
    else modSn b n fun s => { s with fetches := f1 :: rest }

/-! ## TAP_POST -/

/-- The domain that holds a unit, under a declaration. -/
def domainOf (d : Declare) (u : Nat) : Option Nat :=
  (upFrom 0 d.nDomains).find? fun i =>
    let r := nthD {} d.domains i
    r.valid && decide (r.first.toNat ≤ u) && decide (u ≤ r.last.toNat)

/-- The header of a sampled descriptor: step, count, time, edition and domain; a unit that no domain holds has an open
one. -/
def sampleHdr (b : Block) (n : Nat) (d : Declare) (seq : W32) (t : TapDesc) : TileHdr :=
  let s := getSn b n
  let dom := (domainOf d t.unit.toNat).getD (freeVal b)
  { step := s.step, tapSeq := seq, sampleTime := stamp48 (snNow b n), tap := t, domain := Fin.ofNat 64 dom,
    edition := tabGet 0 s.editions (dom % 64) }

/-- A sampled descriptor: its fetch is queued, or none is made where the output has no block positions (R237). -/
def sampleTap (b : Block) (n : Nat) (tag : W16) (t : TapDesc) (d : Declare) (seq : W32) : Block :=
  let s := getSn b n
  let h0 := sampleHdr b n d seq t
  let b1 := count (modSn (takeFree b) n fun s => { s with cntSampled := s.cntSampled + 1 }) (slotCounter n 1) 1
  if !outFmtOk (readAcc t.accDesc).outFmt then
    queueShip (snHinge b1 n (.tapDone tag seq 3)) n (.void (voidOf h0 .descriptor))
  else
    let (h, used) := placeRec h0 fun i => Config.draw s.seed (s.draws + i)
    let f : Fetch := { tag := tag, hdr := h, todo := tileBlocks h }
    startNext (modSn b1 n fun s => { s with tapOut := s.tapOut + 1, draws := s.draws + used, fetches := s.fetches ++ [f],
                                            shipQ := s.shipQ ++ [.fetching seq] }) n

/-- TAP_POST (R88-R93, R234, R235). -/
def effTapPost (n : Nat) (tag : W16) (t : TapDesc) (b : Block) : Block :=
  let s := getSn b n
  match s.decl with
  | none => snHinge b n (.tapDone tag 0 2)
  | some d =>
    let seq := s.tapSeq + 1
    let b1 := count (setSn b n { s with tapSeq := seq, cntPosted := s.cntPosted + 1 }) (slotCounter n 0) 1
    if decide (s.tapOut ≥ 256) || !tapOk t then
      snHinge (modSn b1 n fun s => { s with cntRefused := s.cntRefused + 1 }) n (.tapDone tag seq 2)
    else
      match nthD none s.rates t.cls.toNat with
      | none => snHinge b1 n (.tapDone tag seq 0)
      | some j =>
        let b2 := modSn b1 n fun s => { s with draws := s.draws + 1 }
        if Config.draw s.seed s.draws % 2 ^ j = 0 then sampleTap b2 n tag t d seq else snHinge b2 n (.tapDone tag seq 0)

def execTapPost (slot : Fin 16) (err : HingeErr) (tag : W16) (desc : TapDesc) (s : State) :
    Host.Outcome State Fault Refusal :=
  act s (onHinge slot.val err (effTapPost slot.val tag desc))

/-! ## Completions of reads (R236, R243) -/

/-- Bytes that arrive at an address go to the part of the block that they belong to. -/
def feedBlock (k : TileBlock) (a : Nat) (l : List Byte) : TileBlock :=
  let need := (k.elemBytes + 7) / 8 * 8 + 8
  if k.got.length < need then
    let p := k.addr + k.got.length
    if a ≤ p ∧ p < a + l.length then { k with got := k.got ++ (l.drop (p - a)).take (need - k.got.length) } else k
  else
    let p := k.scaleAddr + k.gotScale.length
    if a ≤ p ∧ p < a + l.length then
      { k with gotScale := k.gotScale ++ (l.drop (p - a)).take (k.scaleBytes - k.gotScale.length) }
    else k

/-- The page written for a restore has been read back, or its read-back has failed (R243). -/
def writtenBack (b : Block) (n : Nat) (w : RestoreWork) (rest : List RestoreWork) (status : Fin 3) : Block :=
  let m : WrittenMsg := { addr := w.push.addr, crc := if status = 0 then crc32c w.back else 0, status := status }
  startNext (snTell (modSn b n fun s => { s with restore := rest }) n (.written m)) n

/-- Data of a tile fetch. -/
def tileData (b : Block) (n : Nat) (q : HingeReq) (l : List Byte) (last : Bool) : Block :=
  match (getSn b n).fetches with
  | [] => b
  | f :: rest =>
    match f.cur with
    | none => b
    | some k0 =>
      let k := feedBlock k0 (q.addr + q.got) l
      let b1 := modSn b n fun s => { s with fetches := { f with cur := some k } :: rest }
      if !last then b1
      else if f.discard then startNext (endFetch b1 n f .resetAccel) n
      else if (blockNext k).isNone then startNext (blockDone b1 n { f with cur := some k } rest k) n
      else startNext b1 n

/-- Data of a page read (R184). -/
def pageData (b : Block) (n : Nat) (l : List Byte) (last : Bool) : Block :=
  match (getSn b n).pageReads with
  | [] => b
  | r :: rest =>
    let r1 := { r with data := r.data ++ l }
    let b1 := modSn b n fun s => { s with pageReads := r1 :: rest }
    if !last then b1
    else if r1.data.length ≥ 65536 then pageDone b1 n r1
    else issueMrd b1 n .page (pageAddr (getSn b n).regions r.region r.page + r1.data.length) 4096

/-- Data of a read-back. -/
def backData (b : Block) (n : Nat) (l : List Byte) (last : Bool) : Block :=
  match (getSn b n).restore with
  | [] => b
  | w :: rest =>
    let w1 := { w with back := w.back ++ l }
    let b1 := modSn b n fun s => { s with restore := w1 :: rest }
    if !last then b1
    else if w1.back.length ≥ w1.push.data.length then writtenBack b1 n w1 rest 0
    else issueMrd b1 n .readback (w.push.addr + w1.back.length) 4096

/-- A read ends in an error: by what it was for (R184, R238, R243). -/
def readFail (b : Block) (n : Nat) (q : HingeReq) : Block :=
  let s := getSn b n
  let b1 := setSn b n { s with reqs := s.reqs.filter fun x => x.tag != q.tag }
  match q.use with
  | .tile =>
    match s.fetches with
    | [] => b1
    | f :: _ => startNext (failFetch b1 n f .fetch) n
  | .page =>
    match s.pageReads with
    | [] => b1
    | r :: _ => pageFail b1 n r
  | .readback =>
    match s.restore with
    | [] => b1
    | w :: rest => writtenBack b1 n w rest 2

/-- CPL: completions come in ascending offset; one for no read or out of order is ignored. -/
def effCpl (n : Nat) (tag : W16) (off : Nat) (status : BitVec 4) (data : List Byte) (b : Block) : Block :=
  let s := getSn b n
  match s.reqs.find? fun q => q.tag == tag with
  | none => b
  | some q =>
    if status ≠ 0 then readFail b n q
    else if off ≠ q.got || data.isEmpty then b
    else
      let l := data.take (q.bytes - q.got)
      let last := decide (q.bytes ≤ q.got + l.length)
      let q1 := { q with got := q.got + l.length }
      let keep := s.reqs.map fun x => if x.tag = tag then q1 else x
      let b1 := setSn b n { s with reqs := if last then s.reqs.filter fun x => x.tag != tag else keep }
      match q.use with
      | .tile => tileData b1 n q l last
      | .page => pageData b1 n l last
      | .readback => backData b1 n l last

def execCpl (slot : Fin 16) (err : HingeErr) (tag : W16) (offset : Nat) (status : BitVec 4) (data : List Byte) (s : State) :
    Host.Outcome State Fault Refusal :=
  act s (onHinge slot.val err (effCpl slot.val tag offset status data))

/-- MRD_TIMEOUT: a read's last completion is not here 1 ms after its MRD (R236). -/
def effMrdTimeout (n : Nat) (tag : W16) (b : Block) : Block :=
  match (getSn b n).reqs.find? fun q => q.tag == tag with
  | none => b
  | some q => if q.at' + 1000000 ≤ nowNs b then readFail b n q else b

def execMrdTimeout (slot : Fin 16) (tag : W16) (s : State) : Host.Outcome State Fault Refusal :=
  act s (effMrdTimeout slot.val tag)

end Sys2Proof.Machine
end

