-- ==== Sys2Proof/Machine/SentinelOps.lean ====
section
/-!
DEFINITION. Machine/SentinelOps.lean: what several commands do at a sentinel: its power and HELLO, the hold line (R244-R246),
domain resets (R252), trims, firmware, and its end of a Tether.
-/

namespace Sys2Proof.Machine

/-! ## Power and state -/

/-- A sentinel without power, and one that its boot ROM has just started: the trim register, the edition registry and the
margin rings are lost; the GLT's end of the port and the fuses stay (R231). -/
def freshSn (s : Sentinel) : Sentinel :=
  { nextStreamGlt := s.nextStreamGlt, sentG := s.sentG, openGlt := s.openGlt, brokenGlt := s.brokenGlt,
    portEdition := s.portEdition, fwMinSvn := s.fwMinSvn }

/-- Firmware runs in the sentinel (R255). -/
def snFirmware (s : Sentinel) : Bool :=
  match s.phase with
  | .waitDeclare | .running => true
  | .down | .rom | .loading | .fault => false

/-- HELLO (Table 9.5). -/
def snHello (b : Block) (n : Nat) : Block :=
  let s := getSn b n
  snTell b n (.hello { svn := BitVec.ofNat 16 s.fwImage.svn, phase := s.phase, declare := s.decl })

/-! ## Hold line -/

/-- The declaration in force, or the one before the last UCIe link-down (R234). -/
def knownDecl (s : Sentinel) : Option Declare := s.decl.orElse fun _ => s.lastDecl

/-- The mark of a cut: TAP_SEQ, the trim register's change count and every edition as they stand (R264). -/
def holdMarkOf (s : Sentinel) : NoteMsg :=
  .holdMark s.tapSeq s.trimChanges ((upFrom 0 ((s.decl.map fun d => d.nDomains).getD 0)).map (tabGet 0 s.editions))

/-- SNT_HOLD rises, or stays high: the reach is measured from its rise, and the mark follows the records sampled before it
(R244, R246, R264). -/
def raiseHold (b : Block) (n : Nat) (at' : Option Ns) : Block :=
  let s := getSn b n
  let s1 := { s with holdPending := s.holdPending.filter fun t => decide (snNow b n < t), holdTime := at' }
  let known := (knownDecl s).isSome
  let b1 :=
    if s.sntHold then setSn b n s1
    else snMargin (setSn b n { s1 with sntHold := true, raisedAt := snNow b n, reachWait := known }) n 0 0x80 0 0
  queueShip b1 n (.holdMark (holdMarkOf s))

/-- Hang detection restarts for every engine (R248). -/
def restartHang (b : Block) (n : Nat) : Block :=
  modSn b n fun s => { s with engines := s.engines.map fun x => (x.1, { x.2 with hung := false, changedAt := nowNs b }) }

/-- SNT_HOLD falls: the hang limit restarts (R244, R248). -/
def lowerHold (b : Block) (n : Nat) : Block :=
  restartHang (modSn b n fun s => { s with sntHold := false, releaseDue := none, holdTime := none, reachWait := false }) n

/-! ## Domain resets (R252) -/

/-- Whether a fetch belongs to a domain. -/
def fetchOf (d : Nat) (f : Fetch) : Bool := f.hdr.domain.val == d

/-- Records of a domain that still wait to leave are given up: their tiles are VOID (R252, R239). -/
def dropRecord (d : Nat) : SnItem → SnItem
  | .record h x st => if h.domain.val = d then .void (voidOf h .resetAccel) else .record h x st
  | .fetching q => .fetching q
  | .void v => .void v
  | .close g st => .close g st
  | .holdMark m => .holdMark m

/-- Streams that the sentinel has begun and that carry an item of a domain; pages belong to the memory domain (R252). -/
def domStreams (s : Sentinel) (d : Nat) (mem : Bool) : List W16 :=
  let queued (x : SnItem) : Option W16 := match x with
    | .record h _ st => if h.domain.val = d then st else none
    | .fetching _ | .void _ | .close _ _ | .holdMark _ => none
  ((s.fetches.filter (fetchOf d)).filterMap fun f => f.stream) ++ s.shipQ.filterMap queued ++ (if mem then pushStreams s else [])

/-- The edition of a domain increments with the first of DOMAIN_RESET and RESET_NOTE: reads and records of the domain are
discarded, pages of the memory domain are freed, open streams of the domain end with END and ABORT, and the GLT is told. -/
def beginReset (b : Block) (n d : Nat) : Block :=
  let s := getSn b n
  if s.inReset.contains d then b
  else
    let ed := tabGet 0 s.editions d + 1
    let mem := (s.decl.map fun x => x.memValid && x.memDomain.toNat == d).getD false
    let mark (f : Fetch) : Fetch := if fetchOf d f then { f with discard := f.cur.isSome, stream := none } else f
    let b1 := setSn b n
      { s with editions := tabPut s.editions d ed, inReset := withEntry s.inReset d, domResets := s.domResets ++ [(d, nowNs b)],
               fetches := s.fetches.map mark, shipQ := s.shipQ.map (dropRecord d),
               pushBuf := if mem then [] else s.pushBuf,
               pageReads := if mem then s.pageReads.map fun r => { r with discard := true } else s.pageReads }
    let b2 := snMargin (abortStreams b1 n (domStreams s d mem)) n 0 0x86 0 (BitVec.ofNat 32 d)
    let idle := (s.fetches.filter fun f => fetchOf d f && f.cur.isNone).map mark
    let b3 := each idle (fun f b => endFetch b n f .resetAccel) b2
    startNext (snTell b3 n (.note (.edition (Fin.ofNat 64 d) ed))) n

/-- Resets of a domain of the accelerator within the last RS_ESC_WINDOW (R271). -/
def recentAccel (b : Block) (n d : Nat) : Nat :=
  ((getSn b n).domResets.filter fun x => x.1 == d && decide (nowNs b < x.2 + b.hr.escWindowS * nsPerSec)).length

/-- Every unit of a domain has left reset; at the escalation limit the GLT is told (R252, R271). -/
def endReset (b : Block) (n d : Nat) : Block :=
  let b1 := snMargin (modSn b n fun s => { s with inReset := without s.inReset d }) n 0 0x87 0 (BitVec.ofNat 32 d)
  let b2 := snTell b1 n (.note (.resetDone (Fin.ofNat 64 d)))
  if recentAccel b n d ≥ b.hr.escCount then snTell b2 n (.report (.domainLimit (Fin.ofNat 64 d))) else b2

/-- Fenced units of a domain. -/
def fencedIn (s : Sentinel) (d : Nat) : List Nat :=
  s.trimBits.filter fun u => (s.decl.map fun x => domainOf x u == some d).getD false

/-! ## Trims (R250, R251) -/

/-- TRIM_SET goes to the die; its TRIM_ACK is due within 1 ms (R250). -/
def sendTrimSet (n u : Nat) (fence : Bool) (b : Block) : Block :=
  snHinge (modSn b n fun s => { s with trimWait := (s.trimWait.filter fun x => x.1 != u) ++ [(u, fence, nowNs b)] }) n
    (.trimSet (BitVec.ofNat 12 u) fence)

/-- A trim is applied: the bit, the change count, TRIM_SET, and its limit of 1 ms; engines of a fenced unit are no longer
hung (R248). -/
def applyTrim (b : Block) (n u : Nat) (fence : Bool) : Block :=
  let s := getSn b n
  let free (x : Nat × Engine) : Nat × Engine :=
    if fence && x.2.unit.toNat == u then (x.1, { x.2 with hung := false }) else x
  let b1 := setSn b n
    { s with trimBits := if fence then withEntry s.trimBits u else without s.trimBits u, trimChanges := s.trimChanges + 1,
             engines := s.engines.map free }
  sendTrimSet n u fence b1

/-! ## The GLT's copies and firmware of a slot -/

/-- The mirror follows the sentinel (R256). -/
def mirrorSn (b : Block) (n : Nat) : Block :=
  let s := getSn b n
  modSlot b n fun r =>
    { r with mirrorPhase := s.phase, decl := s.decl, snSvn := BitVec.ofNat 16 s.fwImage.svn, stale := false }

/-- The bytes of an image as they travel. -/
def imageBytes (i : FwImage) : List Byte := i.raw

/-- Sends an image in FW_CHUNKs of at most 496 bytes. -/
def sendChunks (b : Block) (n : Nat) (i : FwImage) : Block :=
  let l := imageBytes i
  each (upFrom 0 ((l.length + 495) / 496)) (fun k b => tellSn b n (.fwChunk (k * 496) ((l.drop (k * 496)).take 496))) b

/-- A rebind of kind 2 has finished with a slot; with the last one it completes with the masks of the slots (R364). -/
def rebindSlot (b : Block) (n : Nat) (ok : Bool) : Block :=
  match b.fw.rebind with
  | none => b
  | some r =>
    if r.kind ≠ 2 || !r.pending.getLsbD n then b
    else
      let r1 := { r with pending := putBit r.pending n false, switched := putBit r.switched n ok,
                         failed := putBit r.failed n (!ok) }
      let b1 := if ok then b else raise b .fw 6 (aboutSlot b n)
      if r1.pending ≠ 0 then { b1 with fw := { b1.fw with rebind := some r1 } }
      else
        completeAt { b1 with fw := { b1.fw with rebind := none } } r.iss 0x0902 stOk r1.switched.toNat r1.failed.toNat (nowNs b)

end Sys2Proof.Machine
end

