-- ==== Sys2Proof/Machine/FwOps.lean ====
section
/-!
DEFINITION. Machine/FwOps.lean: the management complex (chapter 13): its lockstep pairs, its rebinds and its log.
-/

namespace Sys2Proof.Machine

/-! ## Log (R369) -/

/-- A point where firmware may log: an entry is written when its class is enabled and its level is within LOG_LEVEL.  Which
events an image logs, at which level, and the values that it names are given with the image, so they are open here. -/
def fwLog (cls : Nat) (b : Block) : Block :=
  if !fwRuns b || !b.fw.logEn || !b.fw.traceEn.getLsbD cls then b
  else
    let b1 := takeFree b
    let level := freeVal b % 8
    if b.fw.logLevel < level then b1
    else
      let e : LogEntry := { time := nowNs b, seq := b.fw.logWr, cls := cls, level := level,
                            core := BitVec.ofNat 8 (bit b.fw.pair + 2 * (freeVal b / 8 % 2)),
                            pc := BitVec.ofNat 32 (freeVal b1), code := BitVec.ofNat 32 (freeVal b1 / 2 ^ 32),
                            arg := BitVec.ofNat 64 (freeVal b1 / 2 ^ 64) }
      let l := b1.fw.log ++ [e]
      takeFree { b1 with fw := { b1.fw with log := l.drop (l.length - 1536), logWr := b1.fw.logWr + 1 } }

/-! ## Images -/

/-- Whether an image in NOR verifies: its header, Llynend's key and the fused minimum of its kind (R357). -/
def fwImageOk (b : Block) (kind : Nat) (i : FwImage) : Bool :=
  i.headerOk kind i.raw.length && i.keySlot == 0 &&
    decide (nthD 0 b.fw.minSvn kind ≤ i.svn) && Config.signatureOk 0 i.body i.sig

/-- Raises the fused minimum of a kind. -/
def raiseSvn (b : Block) (kind svn : Nat) : Block :=
  { b with fw := { b.fw with minSvn := setNth b.fw.minSvn kind (Nat.max (nthD 0 b.fw.minSvn kind) svn) } }

/-- The active bank of a kind. -/
def activeBank (b : Block) (kind : Nat) : Bool :=
  if kind = 0 then b.fw.bank else if kind = 1 then b.fw.ucodeBank else b.fw.sntBank

/-- The inactive bank's verified image. -/
def stagedImage (b : Block) (kind : Nat) : Option FwImage := bankImage b kind (!activeBank b kind)

/-- Writes an image into a bank. -/
def putBank (b : Block) (kind : Nat) (bank : Bool) (i : FwImage) : Block :=
  let rest := b.fw.banks.filter fun x => !(x.1 == kind && x.2.1 == bank)
  { b with fw := { b.fw with banks := rest ++ [(kind, bank, i)] } }

/-- The complex runs an image of a bank. -/
def runImage (b : Block) (bank : Bool) (i : FwImage) : Block :=
  { b with fw := { b.fw with bank := bank, version := i.version, svn := i.svn, phase := .running } }

/-! ## Rebinds -/

/-- A rebind ends: the command completes. -/
def endRebind (b : Block) (st : Byte) : Block :=
  match b.fw.rebind with
  | none => b
  | some r => complete { b with fw := { b.fw with rebind := none } } r.iss 0x0902 st

/-- A rebind of kind 0 is given up: the old image goes on (R360, Table 13.22). -/
def abandonRebind (b : Block) (st : Byte) : Block :=
  match b.fw.rebind with
  | none => b
  | some r =>
    if r.kind ≠ 0 then b
    else
      let b1 := endRebind b st
      { b1 with fw := { b1.fw with phase := .running, handover := [], standbyReady := !b1.fw.single && !b1.fw.faultedPair } }

/-! ## Lockstep pairs (R358) -/

/-- Control moves to the standby pair, which goes on from the last checkpoint: the commands that it does not hold complete
with INTERNAL, and the faulted pair is tested.  With no pair to move to, only the Kettle path serves. -/
def takeover (b : Block) : Block :=
  let b0 := abandonRebind b stInternal
  let b1 := finishOutstanding b0 (fun c => !b0.fw.checkpoint.any fun k => k.iss == c.iss) stInternal
  let b2 := flyEvent b1 0x0BE0 { aboutGlt b1 with domain := 1, source := bit b1.fw.pair }
  if b2.fw.single || b2.fw.faultedPair then
    { b2 with fw := { b2.fw with phase := .boot, down := true, standbyReady := false } }
  else
    { b2 with fw := { b2.fw with pair := !b2.fw.pair, faultedPair := true, standbyReady := false } }

/-- Whether the resets of MGMT within the window have reached the limit (R271). -/
def mgmtLimit (b : Block) : Bool := decide (recentResets b 1 ≥ b.hr.escCount)

end Sys2Proof.Machine
end

