-- ==== Sys2Proof/Machine/Firmware.lean ====
section
/-!
DEFINITION. Machine/Firmware.lean: boot, lockstep pairs, in-service update and specimens (R356-R368).
-/

namespace Sys2Proof.Machine

/-! ## Decisions that waited (R361) -/

/-- A decision that fell due while the cores did not run. -/
def runTask (k : FwTask) (b : Block) : Block :=
  match k with
  | .judge i r aside => arbitrate b i r aside
  | .weigh i => weigh b i
  | .suspect t p => recSuspect b t p
  | .cut t => recCut b t
  | .restored t p st => recRestored b t p st
  | .voteWait t => effFailedVoteWait t b
  | .colophon t n => sealColophon b t n

/-- The cores run again: what waited for them is decided, in the order in which it fell due. -/
def runTasks (b : Block) : Block :=
  if fwRuns b then each b.fw.tasks runTask { b with fw := { b.fw with tasks := [] } } else b

/-! ## Boot (R357) -/

/-- Every cluster loads the active microcode bank. -/
def loadAllUcode (b : Block) : Block := each (upFrom 0 16) (fun k b => loadUcode b k b.fw.ucodeBank) b

/-- BOOT: the named bank, or the other with SEC_ERR.BOOT_FALLBACK; with neither, the complex stays in reset. -/
def effBoot (b : Block) : Block :=
  let good (bank : Bool) : Option FwImage := (bankImage b 0 bank).filter (fwImageOk b 0)
  let run (b : Block) (bank : Bool) (i : FwImage) : Block :=
    let b1 := runImage b bank i
    loadAllUcode { b1 with fw := { b1.fw with standbyReady := !b1.fw.single && !b1.fw.faultedPair } }
  if b.fw.phase ≠ .boot || b.fw.down || (getDom b 1).inReset || !b.pw.porstN then b
  else
    match good b.fw.bootBank with
    | some i => runTasks (run b b.fw.bootBank i)
    | none =>
      match good (!b.fw.bootBank) with
      | some i => runTasks (run (raise b (.sec 0) 4 { aboutGlt b with domain := 1 }) (!b.fw.bootBank) i)
      | none => { b with fw := { b.fw with down := true } }

def execBoot (s : State) : Host.Outcome State Fault Refusal := act s effBoot

/-! ## Lockstep pairs (R358) -/

/-- LOCKSTEP_TAKEOVER: a compare mismatch, a heartbeat older than 10 ms, or the MGMT limit. -/
def effTakeover (c : TakeoverCause) (b : Block) : Block :=
  let about : About := { aboutGlt b with domain := 1, source := bit b.fw.pair }
  let up := decide (b.fw.phase ≠ .boot)
  if b.fw.down then b
  else
    match c with
    | .lockstep => if up then runTasks (takeover (raise b .fw 3 about)) else b
    | .heartbeat => if up && decide (b.sus.fwBeatAt + 10000000 < nowNs b) then runTasks (takeover (raise b .fw 4 about)) else b
    | .mgmtLimit => if mgmtLimit b then runTasks (takeover (modDom b 1 fun d => { d with resets := [] })) else b

def execLockstepTakeover (cause : TakeoverCause) (s : State) : Host.Outcome State Fault Refusal := act s (effTakeover cause)

/-- HANDOVER_CHECKPOINT: the active image writes what it has outstanding. -/
def execHandoverCheckpoint (s : State) : Host.Outcome State Fault Refusal :=
  act s fun b => if fwRuns b then { b with fw := { b.fw with checkpoint := b.host.outstanding } } else b

/-- PAIR_SELF_TEST_COMPLETE: the faulted pair stands by again, or is withdrawn. -/
def effPairTest (passed : Bool) (b : Block) : Block :=
  if !b.fw.faultedPair then b
  else { b with fw := { b.fw with faultedPair := false, single := b.fw.single || !passed, standbyReady := passed } }

def execPairSelfTestComplete (passed : Bool) (s : State) : Host.Outcome State Fault Refusal := act s (effPairTest passed)

/-! ## FW_STAGE (R359) -/

/-- What the bank of a kind holds at most (Table 13.15, R255). -/
def bankRoom (kind : Nat) : Nat := if kind = 0 then 16777216 else if kind = 1 then 2097152 else 262144

/-- A refused image: SEC_ERR, FW_ERR.VERIFY and NOT_AUTHORISED. -/
def refuseImage (b : Block) (iss : Issuer) (op secBit fwBit : Nat) : Block :=
  complete (raise (raise b (.sec 0) secBit (aboutGlt b)) .fw fwBit { aboutGlt b with domain := 1, context := op }) iss op
    stNotAuthorised

/-- FW_STAGE. -/
def effFwStage (iss : Issuer) (p : FwStageP) (b : Block) : Block :=
  let done := complete b iss 0x0901
  let i := p.image
  if !isAdmin b iss then done stNotAuthorised
  else if p.rsv || decide (p.kind > 2) || decide (bankRoom p.kind < p.length) then done stBadParam
  else if (b.fw.rebind.map fun r => r.kind) = some p.kind then done stRefused
  else if !i.headerOk p.kind p.length then done stBadParam
  else if i.keySlot ≠ 0 || !Config.signatureOk 0 i.body i.sig then refuseImage b iss 0x0901 0 1
  else if i.svn < nthD 0 b.fw.minSvn p.kind then refuseImage b iss 0x0901 1 1
  else complete (putBank b p.kind (!activeBank b p.kind) i) iss 0x0901 stOk

def execFwStage (iss : Issuer) (p : FwStageP) (s : State) : Host.Outcome State Fault Refusal :=
  act s fun b => effFwStage iss p (fwLog 14 b)

/-! ## FW_REBIND (R360, R363, R364) -/

/-- Slots whose sentinel runs and whose Tether is up. -/
def runningSlots (b : Block) : List Nat :=
  (upFrom 0 16).filter fun n => (getSn b n).tetherUp && decide ((getSn b n).phase = .running)

/-- A rebind of kind 2 sends the image to every running sentinel and then the switch time. -/
def rebindSentinels (b : Block) (r : Rebind) (i : FwImage) : Block :=
  let l := runningSlots b
  let mask := foldOver (fun m n => putBit m n true) (0 : BitVec 16) l
  let b1 := { b with fw := { b.fw with sntBank := !b.fw.sntBank, rebind := some { r with pending := mask } } }
  let b2 := each l (fun n b => modSn (tellSn (sendChunks b n i) n (.fwSwitch r.at')) n fun s =>
    { s with fwSwitchAt := some r.at' }) b1
  if mask = 0 then completeAt { b2 with fw := { b2.fw with rebind := none } } r.iss 0x0902 stOk 0 0 (nowNs b) else b2

/-- FW_REBIND. -/
def effFwRebind (iss : Issuer) (p : FwRebindP) (b : Block) : Block :=
  let done := complete b iss 0x0902
  let t := if p.sec = 0 ∧ p.nsec = 0 then nowNs b + b.fw.rebindLeadMs * 1000000 else secNs p.sec p.nsec
  let r : Rebind := { iss := iss, kind := p.kind, advance := p.advanceSvn, at' := t }
  let hv := ((bankImage b 0 b.fw.bank).map fun i => i.handoverVer).getD 0
  if !isAdmin b iss then done stNotAuthorised
  else if p.rsv || decide (p.kind > 2) || decide (nsPerSec ≤ p.nsec) then done stBadParam
  else if b.fw.rebind.isSome then done stRefused
  else
    match stagedImage b p.kind with
    | none => done stRefused
    | some i =>
      if p.kind = 0 then
        if hv < i.handoverMin then done stRefused
        else { b with fw := { b.fw with rebind := some r, phase := .rebinding, standbyReady := false } }
      else if p.kind = 1 then { b with fw := { b.fw with rebind := some r } }
      else rebindSentinels b r i

def execFwRebind (iss : Issuer) (p : FwRebindP) (s : State) : Host.Outcome State Fault Refusal :=
  act s fun b => effFwRebind iss p (fwLog 14 b)

/-- The rebind of kind 0 under way, before its takeover. -/
def rebinding? (b : Block) : Option Rebind :=
  if b.fw.phase = .rebinding then b.fw.rebind.filter fun r => r.kind == 0 else none

/-- STANDBY_IMAGE_READY: the new image reports READY by T − 1 ms. -/
def effStandbyReady (b : Block) : Block :=
  match rebinding? b with
  | none => b
  | some r =>
    if nowNs b + 1000000 ≤ r.at' && !b.fw.single && !b.fw.faultedPair then
      { b with fw := { b.fw with rebind := some { r with readySeen := true }, standbyReady := true } }
    else b

def execStandbyImageReady (s : State) : Host.Outcome State Fault Refusal := act s effStandbyReady

/-- REBIND_READY_DEADLINE: not READY by T − 1 ms, the rebind is abandoned with TIMEOUT. -/
def effReadyDeadline (b : Block) : Block :=
  match rebinding? b with
  | none => b
  | some r => if !r.readySeen && decide (r.at' ≤ nowNs b + 1000000) then abandonRebind b stTimeout else b

def execRebindReadyDeadline (s : State) : Host.Outcome State Fault Refusal := act s effReadyDeadline

/-- The microcode turn passes to a cluster; one in reset loads when it leaves reset (R363). -/
def ucodeTurn (b : Block) : Nat → Nat → Block
  | 0, _ => b
  | fuel + 1, k =>
    if 16 ≤ k then
      match b.fw.rebind with
      | none => { b with col := { b.col with ucodeCluster := none } }
      | some r =>
        let b1 := if r.advance then raiseSvn b 1 (((bankImage b 1 b.fw.ucodeBank).map fun i => i.svn).getD 0) else b
        let b2 := flyEvent b1 0x0BE1 { aboutGlt b1 with domain := 1, context := 1 }
        endRebind { b2 with col := { b2.col with ucodeCluster := none } } stOk
    else if (getDom b (2 + k)).inReset then
      ucodeTurn { b with col := { b.col with ucodePending := withEntry b.col.ucodePending k } } fuel (k + 1)
    else { b with col := { b.col with ucodeCluster := some k } }

/-- REBIND_TAKEOVER: at T command fetch stops and the old image writes its handover block; a rebind of kind 1 takes its
first cluster. -/
def effRebindTakeover (b : Block) : Block :=
  match b.fw.rebind with
  | none => b
  | some r =>
    if nowNs b < r.at' then b
    else if r.kind = 0 then
      if decide (b.fw.phase = .rebinding) && r.readySeen then
        { b with fw := { b.fw with phase := .gap, handover := b.host.outstanding, rebind := some { r with blockDone := true } } }
      else b
    else if r.kind = 1 && !r.blockDone then
      ucodeTurn { b with fw := { b.fw with rebind := some { r with blockDone := true }, ucodeBank := !b.fw.ucodeBank } } 17 0
    else b

def execRebindTakeover (s : State) : Host.Outcome State Fault Refusal := act s effRebindTakeover

/-- HANDOVER_COMPLETE: the new pair has read the block and fetches: the rebind completes with OK and its trial begins. -/
def effHandover (b : Block) : Block :=
  match b.fw.phase, b.fw.rebind, stagedImage b 0 with
  | .gap, some r, some i =>
    if r.at' + 2000000 < nowNs b then b
    else
      let b1 := runImage b (!b.fw.bank) i
      let trial := some (nowNs b + b.fw.trialS * nsPerSec)
      let b2 := { b1 with fw := { b1.fw with pair := !b1.fw.pair, handover := [], standbyReady := true, trialEnd := trial,
                                             trialAdvance := r.advance } }
      runTasks (endRebind b2 stOk)
  | .gap, some _, none => b
  | .gap, none, _ => b
  | .boot, _, _ => b
  | .running, _, _ => b
  | .rebinding, _, _ => b

def execHandoverComplete (s : State) : Host.Outcome State Fault Refusal := act s effHandover

/-- TAKEOVER_DEADLINE: the block unfinished 1 ms after T, or no fetch 2 ms after T: control returns to the old pair. -/
def effTakeoverDeadline (b : Block) : Block :=
  match b.fw.phase, b.fw.rebind with
  | .gap, some r =>
    if nowNs b < r.at' + 1000000 then b
    else runTasks (abandonRebind (raise b .fw 2 { aboutGlt b with domain := 1, source := bit b.fw.pair }) stInternal)
  | .gap, none => b
  | .boot, _ => b
  | .running, _ => b
  | .rebinding, _ => b

def execTakeoverDeadline (s : State) : Host.Outcome State Fault Refusal := act s effTakeoverDeadline

/-- FW_TRIAL_EXPIRY: the boot record names the new bank, and the fused minimum follows where it was asked for. -/
def effTrialExpiry (b : Block) : Block :=
  match b.fw.trialEnd with
  | none => b
  | some t =>
    if nowNs b < t then b
    else
      let b1 := { b with fw := { b.fw with bootBank := b.fw.bank, trialEnd := none, trialAdvance := false } }
      let b2 := if b.fw.trialAdvance then raiseSvn b1 0 b.fw.svn else b1
      flyEvent b2 0x0BE1 { aboutGlt b2 with domain := 1 }

def execFwTrialExpiry (s : State) : Host.Outcome State Fault Refusal := act s effTrialExpiry

/-- CLUSTER_UCODE_RELOAD: the cluster in turn has drained its tiles and reloads; a reload that fails keeps the old
microcode (Table 13.26). -/
def effUcodeReload (k : Nat) (ok : Bool) (b : Block) : Block :=
  let busy := (clusterCores k).any fun c => (getCore b c).tile.isSome && decide ((getCore b c).progSlot < 8)
  if b.col.ucodeCluster ≠ some k || busy then b
  else
    let b1 := if ok then loadUcode b k b.fw.ucodeBank
      else raise b .fw 7 { aboutGlt b with domain := 2 + k, source := k, meas := .sensor (1 + k) 0 }
    ucodeTurn b1 17 (k + 1)

def execClusterUcodeReload (cluster : Fin 16) (ok : Bool) (s : State) : Host.Outcome State Fault Refusal :=
  act s (effUcodeReload cluster.val ok)

/-! ## Specimens (R365-R367) -/

/-- SPECIMEN_LOAD. -/
def effSpecimenLoad (iss : Issuer) (p : SpecimenLoadP) (b : Block) : Block :=
  let done := complete b iss 0x0805
  let i := p.image
  if !isAdmin b iss then done stNotAuthorised
  else if p.rsv || decide (p.action.toNat > 1) then done stBadParam
  else if p.action = 1 then complete { b with fw := { b.fw with specStore := none } } iss 0x0805 stOk
  else if 8388608 < p.length || !i.headerOk 3 p.length then done stBadParam
  else if 7 < i.keySlot || !Config.signatureOk i.keySlot i.body i.sig then refuseImage b iss 0x0805 0 8
  else if i.svn < nthD 0 b.fw.minSvn 3 then refuseImage b iss 0x0805 1 8
  else complete { b with fw := { b.fw with specStore := some i } } iss 0x0805 stOk

def execSpecimenLoad (iss : Issuer) (p : SpecimenLoadP) (s : State) : Host.Outcome State Fault Refusal :=
  act s fun b => effSpecimenLoad iss p (fwLog 15 b)

/-- SPEC_PERIOD: the cores that have no tile take their turns. -/
def effSpecPeriod (b : Block) : Block :=
  if b.fw.specPeriodS = 0 || decide (nowNs b < b.fw.specAt + b.fw.specPeriodS * nsPerSec) then b
  else nextSpecimen { b with fw := { b.fw with specAt := nowNs b, specTurn := (upFrom 0 512).filter (specReady b) } }

def execSpecPeriod (s : State) : Host.Outcome State Fault Refusal := act s effSpecPeriod

/-- The readmission of a slot ends (R305). -/
def endReadmit (b : Block) (n : Nat) (iss : Option Issuer) (passed : Bool) : Block :=
  let b1 := modSlot b n fun r => { r with readmitting := false, readmitIss := none }
  if passed then
    let b2 := modSlot b1 n fun r => { r with role := roleIdle, heldByHold := false }
    let b3 := if (getSlot b n).heldByKettle then b2 else tellSn b2 n (.releaseAt (nowNs b))
    completeOpt (clearTarget b3 (slotPlace b n)) iss 0x0605 stOk
  else completeOpt (slotDomains b1 n true) iss 0x0605 stRefused

/-- What the specimen that ran leads to: an untrimmed unit, its SUSPECT entry gone, or the end of a readmission (R303, R305,
R288). -/
def endSpec (b : Block) (n : Nat) (x : Option Nat × Option Issuer) (passed : Bool) : Block :=
  match x.1 with
  | none => if (getSlot b n).readmitting then endReadmit b n (getSlot b n).readmitIss passed else b
  | some u =>
    if passed then completeOpt (clearTarget (trimSlot b n u false) (unitPlace b n u)) x.2 0x0603 stOk
    else completeOpt b x.2 0x0603 stRefused

/-- An accelerator specimen passes when within 1 s every area has read back its pattern, or, with no area, each of 64 reads has
ended with CPL status 0 (R366). -/
def specOk (b : Block) (n : Nat) (res : SpecResult) : Bool :=
  let r := getSlot b n
  decide (nowNs b ≤ r.specFrom + nsPerSec) &&
    match res with
    | .areas crcs => !r.specAreas.isEmpty && crcs == r.specAreas.map SpecEntry.areaCrc
    | .reads l => r.specAreas.isEmpty && l.length == 64 && l.all fun x => x == 0

/-- ACCEL_SPECIMEN_COMPLETE: the specimen that ran ends, and the next one starts (R366). -/
def effAccelSpecimen (n : Nat) (res : SpecResult) (b : Block) : Block :=
  let passed := specOk b n res
  match (getSlot b n).specs with
  | [] => b
  | x :: r =>
    let b1 := endSpec (modSlot b n fun s => { s with specs := r }) n x passed
    match r with
    | [] => b1
    | y :: _ => runSpec b1 n y.1

def execAccelSpecimenComplete (slot : Fin 16) (result : SpecResult) (s : State) : Host.Outcome State Fault Refusal :=
  act s (effAccelSpecimen slot.val result)

end Sys2Proof.Machine
end

