-- ==== Sys2Proof/Machine/CutOps.lean ====
section
/-!
DEFINITION. Machine/CutOps.lean: a hold takes effect, its cut completes, and it is released (R258-R268, R299).
-/

namespace Sys2Proof.Machine

def modHold (b : Block) (t : Nat) (f : Hold → Hold) : Block := modTen b t fun r => { r with hold := f r.hold }

/-! ## The cut report (Table 10.2) -/

/-- The cut report of a tenant's hold, written at `now`. -/
def cutReport (t : Nat) (h : Hold) (now : Ns) : List Byte :=
  let flags := bit h.late + 2 * bit (decide (h.phase = .incomplete)) + 4 * bit (h.unbounded != 0)
  leBytes 4 h.holdId.toNat ++ leBytes 5 h.origin.toNat ++ leBytes 1 flags ++ leBytes 2 t ++ leBytes 1 h.marksDue.toNat ++ [0] ++
    leBytes 2 h.slotsDue.toNat ++ leBytes 8 (r111 h.time).toNat ++ leBytes 8 (r111 now).toNat ++ leBytes 2 h.unbounded.toNat ++
    leBytes 2 0 ++ leBytes 4 h.reachMax ++ leBytes 4 h.tilesVoided ++ leBytes 4 h.msgsDropped ++ zeroBytes 16

/-- The cut ends: the report is written for every HOLD_AT that waits for it, and recovery goes on (R261, R262, R295). -/
def endCut (b : Block) (t : Nat) (ph : HoldPhase) : Block :=
  let b1 := modHold b t fun h => { h with phase := ph }
  let h := (getTen b1 t).hold
  let b2 := each (holdOwners h) (fun o b =>
    complete (hostWrite b o.1 o.2 (cutReport t h (nowNs b))) o.1 0x0601 stOk) b1
  let b3 := flyEvent b2 0x07E3 { aboutTen b2 t with arg := h.holdId.toNat }
  recCut (modHold b3 t fun h => { h with iss := none, merged := [] }) t

/-- The cut is complete once every mark is in (R261). -/
def checkCut (b : Block) (t : Nat) : Block :=
  let h := (getTen b t).hold
  if h.phase = .cutting && h.marksDue == 0 && h.slotsDue == 0 then endCut b t .held else b

/-! ## The hold time (R260, Table 10.1) -/

/-- The hops that a tenant cell can come over: a usable hop, and a folded one whose other side is usable. -/
def markHops (b : Block) : List Nat :=
  (upFrom 0 4).filter fun h => hopUsable b h || ((getHop b h).folded && hopUsable b (turnHop h))

/-- Sends MARK on a hop, turned back where the hop is folded; the port's margin ring keeps it. -/
def sendMark (b : Block) (t h : Nat) : Block :=
  let x := (getTen b t).hold
  let c : HoldBody := { holdId := x.holdId, tenant := Fin.ofNat 1024 t, time := x.time, place := ownPlace b }
  portNote (sendHop b h (tenHdr t) (.mark c)) (hopPort b h) 0x0F 0 0 x.holdId.toNat

/-- The user instances of a tenant. -/
def userInstances (b : Block) (t : Nat) : List Nat :=
  (upFrom 8 56).flatMap fun s =>
    let p := getPslot b s
    if p.tenant = t ∧ (p.state = .active ∨ p.state = .draining) then p.origins else []

/-- Table 10.1, the Collator: the tenant's tiles in progress are VOID, its user instances restart, messages to them are
dropped. -/
def holdCollator (b : Block) (t : Nat) : Block :=
  let mine (x : Tile) : Bool := decide (x.hdr.tenant.val = t) && !x.running.isEmpty
  let run := b.ver.tiles.filter mine
  let hit (c : Nat) : Bool := run.any fun x => x.running.contains c
  let origins := userInstances b t
  let cores := origins.flatMap (instCores b)
  let drops := (b.col.mesh.filter fun m => cores.contains m.dst).length
  let b1 := dropMesh (voidAll b hit .holdCut) cores.contains
  let b2 := each origins (fun c b => restartInst b c) b1
  modHold b2 t fun h => { h with tilesVoided := run.length, msgsDropped := drops }

/-- The hold takes effect: marks, Tether markers, the Collator; the cut may be complete at once. -/
def fireHold (b : Block) (t : Nat) : Block :=
  let hops := markHops b
  let slots := tenantSlots b (getTen b t)
  let due := foldOver (fun m h => putBit m (hopPort b h) true) (0 : BitVec 8) hops   -- of each hop, the port that is active
  let sdue := foldOver (fun m n => putBit m n true) (0 : BitVec 16) slots
  let b1 := modHold b t fun h => { h with phase := .cutting, marksDue := due &&& ~~~h.marksSeen, slotsDue := sdue &&& ~~~h.slotsSeen }
  let b2 := each hops (fun h b => sendMark b t h) b1
  let b3 := tellHold b2 t (getTen b t).hold.time
  checkCut (holdCollator (if (getTen b t).hold.late then raise b3 .rs 2 (aboutTen b t) else b3) t) t

/-- A hold whose time has come (or gone by a load or a late HOLD) takes effect; late ones set LATE (R259, R269). -/
def fireIfDue (late : Bool) (t : Nat) (b : Block) : Block :=
  let h := (getTen b t).hold
  if h.phase = .scheduled && decide (h.time ≤ nowNs b) then fireHold (modHold b t fun h => { h with late := h.late || late }) t
  else b

/-- A scheduled hold is dropped: its sentinels withdraw the HOLD_AT, and the commands that wait for it end (R268, R269). -/
def dropHold (b : Block) (t : Nat) : Block :=
  let h := (getTen b t).hold
  let b1 := each (tenantSlots b (getTen b t)) (fun n b => tellSn b n (.releaseAt h.time)) b
  let b2 := each (holdOwners h) (fun o b => complete b o.1 0x0601 stWithdrawn) b1
  modHold b2 t fun h => { holdId := h.holdId, origin := h.origin, time := h.time }

/-! ## The release (R267, R217, R299, R91) -/

/-- Withheld rounds: released, or discarded after a restore. -/
def endWithheld (t : Nat) (restored : Bool) (tr : Ns) (g : Nat) (b : Block) : Block :=
  if !(getBar b t g).withheld then b
  else if restored then nextBarRound (finishArrives b t g stWithdrawn) t g
  else barFire (modBar b t g fun x => { x with withheld := false }) t g tr

/-- After a restore the release begins step (h + 1)·S without a gathering (R299); the sentinels learn the step. -/
def restartStep (b : Block) (t : Nat) : Block :=
  let r := getTen b t
  let step := (r.started + 1) * r.s
  let b1 := modTen b t fun r => { r with step := step, released0 := true }
  each (tenantSlots b r) (fun n b => tellSn b n (.release { group := 0, step := BitVec.ofNat 32 step })) b1

/-- R217: what a recovery frees at the release of its hold: excluded sews, failed gatherings, those rolled back; nothing
where no gathering is a restore point. -/
def freeAfter (b : Block) (t : Nat) (h : Hold) (point : Nat) : Block :=
  let r := getTen b t
  if point = 0 then b
  else
    let out (g : Gathering) : Bool :=
      !g.released && (g.rolledBack || decide (g.round = .failed) || (decide (g.round = .sewn) && excluded h g.completion))
    each ((r.gatherings.filter out).map fun g => g.n) (fun n b => freeBinding b t n) b

/-- Sampling is raised from the release that ends a recovery (R91). -/
def raiseSampling (b : Block) (t : Nat) : Block :=
  let b1 := modTen b t fun r =>
    { r with raised := true, raisedAt := if r.raised then r.raisedAt else nowNs b, raiseEndDue := false, raiseNow := if r.raised then r.raiseNow else r.raise }
  each (tenantSlots b1 (getTen b1 t)) (fun n b => sendPolicy b t n) b1

/-- A recovery ends in its release: the replay begins, an isolation's where candidates stand (R293, R295). -/
def endRecovery (b : Block) (t : Nat) (recovery : Bool) : Block :=
  let go := !(getTen b t).rec'.candidates.isEmpty
  isoReplay (modRec b t fun r =>
    { r with phase := if recovery then (if go then .isolating else .replaying) else .none, targets := [],
             failedHost := false, isoFailed := false }) t

/-- A hold is released at `tr`; a recovery that it ends sets SR_ERR.RECOVERED. -/
def fireRelease (b : Block) (t : Nat) (late : Bool) : Block :=
  let r := getTen b t
  let h := r.hold
  let tr := h.releaseAt.getD (nowNs b)
  let recovery := h.restored || decide (r.rec'.phase ≠ .none)
  let b1 := modTen b t fun r =>
    { r with earlyMarks := [], hold := { holdId := h.holdId, origin := h.origin, time := h.time, late := late } }
  let b2 := each (upFrom 0 4) (endWithheld t h.restored tr) b1
  let point := if h.restored then h.restorePoint else restorePoint r
  let b3 := if h.restored then freeAfter (restartStep b2 t) t h point
    else if recovery then freeAfter b2 t h point
    else modTen b2 t displace
  let b4 := if recovery then raiseSampling b3 t else b3
  let b5 := endRecovery (if recovery then raise b4 .sr 6 (aboutTen b4 t) else b4) t recovery
  let b6 := forgetPushes (if late then raise b5 .rs 2 (aboutTen b5 t) else b5) t
  completeOpt b6 h.releaseIss 0x0602 stOk

/-- A release whose time has come, or gone, takes effect. -/
def releaseIfDue (late : Bool) (t : Nat) (b : Block) : Block :=
  let h := (getTen b t).hold
  match h.releaseAt with
  | none => b
  | some tr => if holdActive h && decide (tr ≤ nowNs b) then fireRelease b t late else b

end Sys2Proof.Machine
end

