-- ==== Sys2Proof/Machine/Holds.lean ====
section
/-!
DEFINITION. Machine/Holds.lean: the commands, cells and times of holds (chapter 10).
-/

namespace Sys2Proof.Machine

/-- A time operand of a command: its nanoseconds lie below a second. -/
def timeOk (nsec sec : Nat) : Bool := decide (nsec < nsPerSec) && decide (sec < 2 ^ 48)

/-! ## HOLD_AT (R257, R268, R281) -/

/-- HOLD_AT, cancel. -/
def cancelHold (b : Block) (iss : Issuer) (t : Nat) (holdId : W32) : Block :=
  let h := (getTen b t).hold
  let done := complete b iss 0x0601
  if h.phase ≠ .scheduled || h.holdId ≠ holdId || !h.isOrigin then done stBadParam
  else if h.time < nowNs b + minLeadNs b then done stRefused
  else
    let c : HoldBody := { holdId := h.holdId, tenant := Fin.ofNat 1024 t, time := h.time, place := h.origin }
    complete (dropHold (broadcastCell b (tenTop b t) (tenHdr t) false (.cancel c)) t) iss 0x0601 stOk

def effHoldAt (iss : Issuer) (p : HoldAtP) (b : Block) : Block :=
  let t := iss.tenant.val
  let done := complete b iss 0x0601
  if !fromOwnerPf b iss then done stNotAuthorised
  else if p.rsv || decide (p.action.toNat > 1) then done stBadParam
  else if p.action = 1 then cancelHold b iss t p.holdId
  else if !timeOk p.nsec p.sec || decide (p.resultAddr % 64 ≠ 0) then done stBadParam
  else if tenantHeld b t then done stHeld
  else if secNs p.sec p.nsec < nowNs b + minLeadNs b then done stRefused
  else scheduleHold b t (secNs p.sec p.nsec) p.collateInHold (some (iss, p.resultAddr))

def execHoldAt (iss : Issuer) (p : HoldAtP) (s : State) : Host.Outcome State Fault Refusal := act s (effHoldAt iss p)

/-! ## The cells -/

/-- HOLD: the hold is armed, and passed on; at or after T it takes effect at once (R258, R259). -/
def onHold (port : Nat) (hdr : CellHdr) (c : HoldBody) (b : Block) : Block :=
  let t := c.tenant.val
  fireIfDue true t (armHold (passBroadcast b (tenTop b t) port hdr (.hold c)) t c none)

/-- RELEASE: the release is armed, and passed on; at or after T_rel it takes effect at once (R267). -/
def onRelease (port : Nat) (hdr : CellHdr) (c : HoldBody) (b : Block) : Block :=
  let t := c.tenant.val
  let b1 := passBroadcast b (tenTop b t) port hdr (.release c)
  if holdActive (getTen b1 t).hold && (getTen b1 t).hold.holdId == c.holdId then
    releaseIfDue true t (if (getTen b1 t).hold.releaseAt = some c.time then b1 else armRelease b1 t c.time none)
  else b1

/-- CANCEL: a GLT that armed the hold drops it (R268). -/
def onCancel (port : Nat) (hdr : CellHdr) (c : HoldBody) (b : Block) : Block :=
  let t := c.tenant.val
  let b1 := passBroadcast b (tenTop b t) port hdr (.cancel c)
  let h := (getTen b1 t).hold
  if h.phase = .scheduled && h.holdId == c.holdId && h.origin == c.place then dropHold b1 t else b1

/-- MARK: everything that a hop sent before it counts as sent before T; with the last mark the cut is complete (R261).  The
mark counts for its hop, whichever of its rails is active; one of a hold that is not armed here is kept for it (R259). -/
def onMark (port : Nat) (c : HoldBody) (b : Block) : Block :=
  let t := c.tenant.val
  let b1 := portNote b port 0x0F 1 0 c.holdId.toNat
  let h := (getTen b1 t).hold
  let hop := portHop port
  if h.holdId ≠ c.holdId || h.time ≠ c.time then
    modTen b1 t fun r => { r with earlyMarks := withEntry r.earlyMarks (c.holdId, c.time, hop) }
  else
    match h.phase with
    | .scheduled => modHold b1 t fun h => { h with marksSeen := h.marksSeen ||| hopBits hop }
    | .cutting => checkCut (modHold b1 t fun h => { h with marksDue := h.marksDue &&& ~~~(hopBits hop) }) t
    | .none | .held | .incomplete => b1

/-! ## Times -/

/-- HOLD_FIRE: local spine time has reached T (R260, R172). -/
def execHoldFire (tenant : Fin 1024) (s : State) : Host.Outcome State Fault Refusal := act s (fireIfDue false tenant.val)

/-- CUT_TIMEOUT: the cut is not complete HR_CUT_TIMEOUT after T (R262). -/
def effCutTimeout (t : Nat) (b : Block) : Block :=
  let h := (getTen b t).hold
  if h.phase = .cutting && decide (h.time + b.hr.cutTimeoutMs * 1000000 ≤ nowNs b) then
    endCut (raise b .rs 3 (aboutTen b t)) t .incomplete
  else b

def execCutTimeout (tenant : Fin 1024) (s : State) : Host.Outcome State Fault Refusal := act s (effCutTimeout tenant.val)

/-! ## RELEASE_AT (R267, R282) -/

/-- Whether the hold of a tenant can be released here: the origin, once its cut has ended. -/
def mayRelease (h : Hold) : Bool :=
  h.isOrigin &&
    match h.phase with
    | .held | .incomplete => true
    | .none | .scheduled | .cutting => false

def effReleaseAt (iss : Issuer) (p : ReleaseAtP) (b : Block) : Block :=
  let t := iss.tenant.val
  let h := (getTen b t).hold
  let done := complete b iss 0x0602
  if !fromOwnerPf b iss then done stNotAuthorised
  else if p.rsv || !timeOk p.nsec p.sec || !heldOrHolding h || decide (h.holdId ≠ p.holdId) then done stBadParam
  else if !mayRelease h || h.releaseIss.isSome || decide (secNs p.sec p.nsec < nowNs b + minLeadNs b) then done stRefused
  else scheduleRelease b t (secNs p.sec p.nsec) (some iss)

def execReleaseAt (iss : Issuer) (p : ReleaseAtP) (s : State) : Host.Outcome State Fault Refusal := act s (effReleaseAt iss p)

/-- RELEASE_FIRE: local spine time has reached T_rel (R267). -/
def execReleaseFire (tenant : Fin 1024) (s : State) : Host.Outcome State Fault Refusal :=
  act s (releaseIfDue false tenant.val)

end Sys2Proof.Machine
end

