-- ==== Sys2Proof/Machine/HostOps.lean ====
section
/-!
DEFINITION. Machine/HostOps.lean: what an event on a host link or a storage link does (R336, R337, R339).
-/

namespace Sys2Proof.Machine

/-- The PFs of a host link under the split that the pins gave (Table 13.1). -/
def linkPfs (split : BitVec 2) (l : Nat) : List Nat :=
  if split = 0 then (if l = 0 then [0, 1, 2, 3] else [])
  else if split = 1 then (if l = 0 then [0, 1] else if l = 1 then [2, 3] else [])
  else if split = 2 then (if l = 0 then [0, 1] else if l = 1 then [2] else if l = 2 then [3] else [])
  else [l]

/-- A PF in the record of an event on it. -/
def aboutPf (b : Block) (pf : Nat) : About := { place := ownPlace b, domain := 20 + pf, source := pf }

/-- HOSTn is reset by its link; the event shows in HL_ERR of the PF's copy (R337). -/
def hostLost (bit : Nat) (pf : Nat) (b : Block) : Block :=
  let b1 := assertDom b (20 + pf)
  raise b1 (.hl pf) bit (aboutPf b1 pf)

/-- A storage link fails: RP_ERR, and a cold copy that uses the drive stops (R339, R224). -/
def storageLost (bit : Nat) (down : Bool) (d : Nat) (b : Block) : Block :=
  let b1 := raise b (.rp 0) bit { aboutGlt b with domain := 19, source := d }
  let b2 := if down then modDrive b1 d fun x => { x with trained := false, ready := false } else b1
  match b2.bd.cold with
  | none => b2
  | some c => if c.drives.contains d then stopCold b2 else b2

end Sys2Proof.Machine
end

