-- ==== Sys2Proof/Machine/FlyOps.lean ====
section
/-!
DEFINITION. Machine/FlyOps.lean: what the Kettle path and the observation commands share: the bytes of Flyleaf and margin
records (Tables 14.7, 3.13, 9.7, 14.4), tokens (R279, Table 10.8), and the clear of the Flyleaf (R386).
-/

namespace Sys2Proof.Machine

/-! ## Records as bytes -/

/-- A Flyleaf record as it is read (Table 14.7), with its CRC. -/
def flyBody (r : FlyRec) : List Byte :=
  let ten : Nat := match r.tenant with
    | none => 0
    | some t => t + 32768
  leBytes 6 r.seq ++ leBytes 2 r.type'.toNat ++ leBytes 8 (r111 r.time).toNat ++ leBytes 5 r.place.toNat ++
    [r.domain, r.edition, r.flags] ++ leBytes 2 r.temp.toNat ++ leBytes 2 r.voltage.toNat ++ leBytes 4 r.context.toNat ++
    leBytes 4 r.source.toNat ++ leBytes 2 ten ++ zeroBytes 2 ++ leBytes 16 r.arg.toNat ++ zeroBytes 4

def flyBytes (r : FlyRec) : List Byte := flyBody r ++ leBytes 4 (crc32c (flyBody r)).toNat

/-- A core's margin record (Table 3.13). -/
def coreMarginBytes (r : CoreMargin) : List Byte :=
  leBytes 6 r.time.toNat ++ [r.event, r.arg] ++ leBytes 4 r.pc.toNat ++
    leBytes 2 (r.slot.toNat + 64 * (r.tenant % 1024)) ++ leBytes 2 r.seq.toNat

/-- A sentinel engine's margin record (Table 9.7). -/
def snMarginBytes (engine : Nat) (r : SnMargin) : List Byte :=
  leBytes 6 r.time.toNat ++ [r.event, BitVec.ofNat 8 engine] ++ leBytes 4 r.pc.toNat ++ leBytes 4 r.arg.toNat

/-- A port's margin record (Table 14.4). -/
def portMarginBytes (r : PortMargin) : List Byte :=
  leBytes 6 r.time.toNat ++ [r.event, r.arg] ++ leBytes 2 r.seq.toNat ++ [r.old, r.new] ++ leBytes 4 r.detail.toNat

/-- The records of a margin ring as bytes, newest first: a core's, a port's, a sentinel engine's (R376). -/
def marginRing (b : Block) (kind slot index : Nat) : List (List Byte) :=
  if kind = 0 then (getCore b index).margin.map coreMarginBytes
  else if kind = 1 then (tabGet [] b.obs.portMargin index).map portMarginBytes
  else (tabGet [] (getSn b slot).margins index).map (snMarginBytes index)

/-- Bytes as little-endian 32-bit words. -/
def wordsOf (n : Nat) (l : List Byte) : List W32 := (upFrom 0 n).map fun i => BitVec.ofNat 32 (leNat ((l.drop (4 * i)).take 4))

/-! ## Tokens (R279, Table 10.8) -/

/-- The signed part of a token, bytes 0x00-0x3F. -/
def tokenBody (t : Token) : List Byte :=
  leBytes 4 t.magic.toNat ++ leBytes 4 t.ops.toNat ++ leBytes 8 t.serial.toNat ++ leBytes 8 t.nonce.toNat ++
    leBytes 8 (r111 t.notAfter).toNat ++ leBytes 1 t.keySlot ++ leBytes 31 t.rsv.toNat

def tokenBytes (t : Token) : List Byte := tokenBody t ++ t.sig

/-- R279: whether a token authorises the operation of a bit of OPS under a nonce. -/
def tokenOk (b : Block) (nonce : W64) (op : Nat) (t : Token) : Bool :=
  t.magic == 0x4E4B544B && t.serial == b.ident.serial && t.nonce == nonce && t.ops.getLsbD op &&
    (decide (t.notAfter = 0) || decide (nowNs b ≤ t.notAfter)) && decide (t.keySlot < 8) &&
    Config.signatureOk t.keySlot (tokenBody t) t.sig

/-- A token check is recorded; a token that fails sets SEC_ERR.TOKEN (Tables 13.13, 14.8). -/
def noteToken (b : Block) (ok : Bool) (source context : Nat) (kettle : Bool) : Block :=
  let b1 := flyEvent b 0x0EE0 { place := ownPlace b, source := source, context := context, arg := bit ok, kettle := kettle }
  if ok then b1 else raise b1 (.sec 0) 2 (aboutGlt b1)

/-! ## The Flyleaf clear (R386) -/

def isCleared (r : FlyRec) : Bool := r.type' == 0x1001

/-- The on-chip record of a SEQ. -/
def flyFind (b : Block) (hit : Nat → Bool) : Option FlyRec := b.fly.ring.find? fun r => hit r.seq

/-- The lowest and the highest of some numbers, 0 when there are none. -/
def lowHigh : List Nat → Nat × Nat
  | [] => (0, 0)
  | x :: l => (foldOver min x l, foldOver max x l)

/-- Clears the Flyleaf: CLEARED takes the next SEQ; every record below it but earlier CLEARED ones leaves the ring, and the
mirror's blocks are erased in the background. -/
def clearFly (b : Block) (keySlot route : Nat) (kettle : Bool) : Block :=
  let f := b.fly
  let olds := ((f.ring ++ f.mirror.map fun m => m.rec').filter fun r => !isCleared r).map fun r => r.seq
  let (lo, hi) := lowHigh olds
  let arg := lo + 2 ^ 48 * hi + 2 ^ 96 * keySlot + 2 ^ 104 * route
  let b1 := { b with fly := { f with ring := f.ring.filter isCleared, clearing := true,
                                     eraseBlocks := (f.mirror.length + 1023) / 1024 } }
  raise (flyEvent b1 0x1001 { place := ownPlace b, source := route, arg := arg, kettle := kettle }) .fl 3 (aboutGlt b1)

end Sys2Proof.Machine
end

