-- ==== Sys2Proof/Machine/KettleOps.lean ====
section
/-!
DEFINITION. Machine/KettleOps.lean: a Kettle route's operation from its start to its end (R275-R280, Table 10.13).
-/

namespace Sys2Proof.Machine

/-- A route's number in SOURCE: the order of R280. -/
def routeNo : Route → Nat
  | .window pf => pf.val
  | .mgmtPort => 4
  | .i3c => 5

/-- KT_STATUS (Table 10.13). -/
def ktStatus (k : KtRoute) : W32 :=
  let st : Nat := match k.phase with
    | .idle => 0 | .busy => 1 | .done => 2
  BitVec.ofNat 32 (st + 4 * bit k.overrun + 256 * k.result.toNat + 65536 * k.done.toNat)

/-- The management port answers the frame whose operation has ended (R278). -/
def mgmtReply (b : Block) (r : Route) : Block :=
  match r, b.hr.mgmtLastSeq with
  | .mgmtPort, some seq =>
    let k := getRoute b r
    emit { b with hr := { b.hr with mgmtLastReply := (ktStatus k, k.data) } } (.kettleReply true seq (ktStatus k) k.data)
  | .mgmtPort, none => b
  | .window _, _ => b
  | .i3c, _ => b

/-- A Kettle operation completes: cause group 8 and its record (Tables 13.12, 14.8). -/
def endKettle (b : Block) (r : Route) (st : Byte) : Block :=
  let k := getRoute b r
  let b1 := setRoute b r { k with phase := .done, result := st, done := k.done + 1, waitSlot := none, unreached := false }
  let b2 := each [0, 1, 2, 3] (pendPf 8 8) b1
  let b3 := flyEvent b2 0x08E0 { place := ownPlace b, source := routeNo r, context := k.op.toNat, kettle := true,
                                 arg := st.toNat }
  mgmtReply b3 r

/-- An operation ends with its results in KT_DATA. -/
def endKettleData (b : Block) (r : Route) (data : List W32) : Block :=
  endKettle (modRoute b r fun k => { k with data := data.take 16 ++ List.replicate (16 - data.length) 0 }) r stOk

/-- How an operation is authorised (R279): open, by its PF or a token, or by a token always; `bit` is its bit of OPS. -/
inductive KtAuth where
  | open' | admin (bit : Nat) | token (bit : Nat)
  deriving DecidableEq, Repr

/-- The token check of a route: recorded, and the route's nonce changes whatever its outcome. -/
def checkKtToken (b : Block) (r : Route) (op bit : Nat) (t : Token) : Block × Bool :=
  let ok := tokenOk b (getRoute b r).nonce bit t
  let b1 := noteToken b ok (routeNo r) op true
  (modRoute (takeFree b1) r fun k => { k with nonce := BitVec.ofNat 64 (freeVal b1) }, ok)

/-- Whether an operation may run, after its token check, if it makes one. -/
def authKettle (b : Block) (r : Route) (op : Nat) (a : KtAuth) (tok : Option Token) : Block × Bool :=
  let byToken (bit : Nat) (else' : Bool) : Block × Bool :=
    match tok with
    | none => (b, else')
    | some t =>
      let x := checkKtToken b r op bit t
      (x.1, x.2 || else')
  match a with
  | .open' => (b, true)
  | .admin bit => byToken bit (decide (r = .window (Fin.ofNat 4 b.ident.adminPf)))
  | .token bit => byToken bit false

/-- A write of KT_OP (R280): ignored while BUSY, with OVERRUN; else the operation starts with its arguments and token,
and ends NOT_AUTHORISED or goes on. -/
def kettleOp (r : Route) (op : Nat) (a : KtAuth) (args : List W32) (tok : Option Token) (f : Block → Block) (b : Block) :
    Block :=
  let k := getRoute b r
  if k.phase = .busy then setRoute b r { k with overrun := true }
  else
    let b1 := setRoute b r { k with phase := .busy, op := BitVec.ofNat 8 op, args := (args ++ [0, 0, 0, 0]).take 4,
                                    data := List.replicate 16 0,
                                    token := match tok with
                                      | none => k.token
                                      | some t => wordsOf 40 (tokenBytes t) }
    let x := authKettle b1 r op a tok
    if x.2 then f x.1 else endKettle x.1 r stNotAuthorised

end Sys2Proof.Machine
end

