-- ==== Sys2Proof/Machine/Sentinel.lean ====
section
/-!
DEFINITION. Machine/Sentinel.lean: a sentinel's own events and the Hinge messages of its die (chapter 9).
-/

namespace Sys2Proof.Machine

/-! ## Power and links -/

/-- SENTINEL_POR: the standby rails are valid and the boot ROM starts (R231, R254 steps 1 and 2). -/
def effSnPor (n : Nat) (b : Block) : Block :=
  let s := getSn b n
  if s.powered || !(getSlot b n).pwren then b
  else
    let up := decide ((getLink b (8 + n)).state = .up)
    let b1 := setSn b n { freshSn s with powered := true, phase := .rom, tetherUp := up, tetherDownAt := nowNs b }
    if up then snHello b1 n else b1

def execSentinelPor (slot : Fin 16) (s : State) : Host.Outcome State Fault Refusal := act s (effSnPor slot.val)

/-- SENTINEL_POWER_LOSS: everything the sentinel holds is lost (R231). -/
def effSnLoss (n : Nat) (b : Block) : Block :=
  let b1 := setSn (keepMirror b n) n (freshSn (getSn b n))
  modSlot b1 n fun r => { r with stale := true }

def execSentinelPowerLoss (slot : Fin 16) (s : State) : Host.Outcome State Fault Refusal := act s (effSnLoss slot.val)

/-- UCIE_LINK_UP: the die must declare itself again (R232, R234). -/
def effUcieUp (n : Nat) (width : BitVec 2) (rate : BitVec 3) (b : Block) : Block :=
  let s := getSn b n
  if !s.powered then b
  else
    let s1 := { s with ucieWidth := width, ucieRate := rate, decl := none, lastDecl := s.decl.orElse fun _ => s.lastDecl }
    setSn b n { s1 with phase := if snFirmware s then .waitDeclare else s.phase }

def execUcieLinkUp (slot : Fin 16) (width : BitVec 2) (rate : BitVec 3) (s : State) : Host.Outcome State Fault Refusal :=
  act s (effUcieUp slot.val width rate)

/-- A restore page that the link takes with it is answered as a write error (R243). -/
def failRestores (b : Block) (n : Nat) : Block :=
  let l := (getSn b n).restore
  each l (fun w b => snTell b n (.written { addr := w.push.addr, crc := 0, status := 2 })) (modSn b n fun s => { s with restore := [] })

/-- UCIE_LINK_DOWN: fetches end as VOID without TAP_DONE, waiting requests are lost, the tracker's state stays (R238). -/
def effUcieDown (n : Nat) (b : Block) : Block :=
  let s := getSn b n
  let s1 :=
    { s with ucieWidth := 0, ucieRate := 0, decl := none, lastDecl := s.decl.orElse fun _ => s.lastDecl, tapOut := 0,
             fetches := [], fwWait := [], urgentQ := [], pageReads := [], reqs := [],
             phase := if snFirmware s then .waitDeclare else s.phase }
  let b1 := each s.fetches (fun f b => finishFetch (abortStreams b n f.stream.toList) n f (.void (voidOf f.hdr .clockAccel)))
    (setSn b n s1)
  failRestores b1 n

def execUcieLinkDown (slot : Fin 16) (s : State) : Host.Outcome State Fault Refusal := act s (effUcieDown slot.val)

/-! ## DECLARE (R234) -/

/-- Reason 1: a field out of range or a reserved field not 0. -/
def declRange (d : Declare) : Bool :=
  let inRange (i : Nat) : Bool :=
    let r := nthD {} d.domains i
    if i < d.nDomains then !r.rsv && (!r.valid || (decide (r.first.toNat ≤ r.last.toNat) && decide (r.last.toNat < d.nUnits)))
    else r == {}
  !d.rsv && within 1 4096 d.nUnits && within 1 256 d.nEngines && within 1 64 d.nDomains &&
    decide (d.memDomain.toNat < d.nDomains) && within 100 100000 d.holdReach && within 1 4194304 d.memPages &&
    decide (d.memBase % 65536 = 0) && decide (d.domains.length ≤ 64) && (upFrom 0 64).all inRange

/-- The valid ranges of a declaration. -/
def declRanges (d : Declare) : List DomRange := d.domains.filter fun r => r.valid

def rangesApart : List DomRange → Bool
  | [] => true
  | r :: l => (l.all fun x => decide (r.last.toNat < x.first.toNat) || decide (x.last.toNat < r.first.toNat)) && rangesApart l

/-- Reason 2: domain ranges that overlap or leave a unit out. -/
def declCovers (d : Declare) : Bool :=
  rangesApart (declRanges d) &&
    listSum ((declRanges d).map fun r => r.last.toNat + 1 - r.first.toNat) == d.nUnits

/-- The reason to refuse a declaration, 0 to accept it. -/
def declReason (s : Sentinel) (d : Declare) : Nat :=
  let before := knownDecl s
  if !declRange d then 1 else if !declCovers d then 2 else if (before.map fun x => x != d).getD false then 3 else 0

/-- The sentinel's state reaches the GLT's mirror while the Tether is up (R256). -/
def showSn (b : Block) (n : Nat) : Block := if (getSn b n).tetherUp then mirrorSn b n else b

/-- DECLARE. -/
def effDeclare (n : Nat) (d : Declare) (b : Block) : Block :=
  let s := getSn b n
  if !snFirmware s then b
  else
    let why := declReason s d
    let b1 := snHinge b n (.declareAck (why == 0) (BitVec.ofNat 8 why))
    if why ≠ 0 then raise b1 (.sn n) 2 (aboutSlot b n)
    else startNext (snHello (showSn (modSn b1 n fun s => { s with decl := some d, phase := .running }) n) n) n

def execDeclare (slot : Fin 16) (err : HingeErr) (tag : W16) (d : Declare) (s : State) : Host.Outcome State Fault Refusal :=
  act s (onHinge slot.val err (effDeclare slot.val d))

/-- A Hinge message that is acted on only once a declaration is accepted (R234). -/
def onDeclared (n : Nat) (err : HingeErr) (f : Block → Block) (b : Block) : Block :=
  onHinge n err (fun b => if (getSn b n).decl.isSome then f b else b) b

/-! ## ARRIVE, HEARTBEAT, EVENT, HOLD_ACK, TRIM_ACK, RESET_NOTE, WACK -/

/-- An ARRIVE reaches the GLT: the slot's rank arrives in the round that it names (R137). -/
def gltArrive (n : Nat) (g : Nat) (round : W16) (b : Block) : Block :=
  match slotTenant? b n with
  | none => b
  | some t =>
    match slotRank? b (getTen b t) n with
    | none => b
    | some k =>
      if barConfigured b t g && (barLocal b t g).contains k && decide ((getBar b t g).round % 65536 = round.toNat) then
        let l := 8 + n
        let x := getLink b l
        let s := getSn b n
        if g = 0 && x.slotPending && decide (x.state = .up) && s.urgentQ.isEmpty && s.pushBuf.all (fun p => !p.urgent) then
          beginRetune (sendLcs (modLink b l fun x => { x with heldArrive := some (t, k) }) l .retuneReq) l
        else arriveRank b t g k
      else b

/-- ARRIVE goes to the GLT in a control message, at once while the Tether is up. -/
def effArrive (n : Nat) (g : Fin 4) (round : W16) (b : Block) : Block :=
  let up := (getSn b n).tetherUp
  onlyIf up (gltArrive n g.val round) (snTell b n (.arrive g round))

def execArrive (slot : Fin 16) (err : HingeErr) (group : Fin 4) (round : W16) (s : State) :
    Host.Outcome State Fault Refusal :=
  act s (onDeclared slot.val err (effArrive slot.val group round))

/-- HEARTBEAT: progress or idleness ends a hang (R248). -/
def effHeartbeat (n e : Nat) (busy : Bool) (unit : BitVec 12) (progress : W32) (b : Block) : Block :=
  modSn b n fun s =>
    let x := tabGet {} s.engines e
    let moved := decide (progress ≠ x.progress) || !busy || !x.busy
    { s with engines := tabPut s.engines e { busy := busy, unit := unit, progress := progress,
                                             changedAt := if moved then nowNs b else x.changedAt, hung := x.hung && !moved } }

def execHeartbeat (slot : Fin 16) (err : HingeErr) (engine : Fin 256) (busy : Bool) (unit : BitVec 12) (progress : W32)
    (s : State) : Host.Outcome State Fault Refusal :=
  act s (onDeclared slot.val err (effHeartbeat slot.val engine.val busy unit progress))

/-- EVENT: a record in the engine's margin ring; the die's codes are 0x00-0x7F (R249). -/
def effEvent (n e : Nat) (code : Byte) (pc arg : W32) (b : Block) : Block :=
  if code.toNat < 128 then snMargin b n e code.toNat pc arg else hingeDrop b n

def execEvent (slot : Fin 16) (err : HingeErr) (engine : Fin 256) (code : Byte) (pc : W32) (arg : W32) (s : State) :
    Host.Outcome State Fault Refusal :=
  act s (onDeclared slot.val err (effEvent slot.val engine.val code pc arg))

/-- HOLD_ACK: the reach is the time since SNT_HOLD rose (R246). -/
def effHoldAck (n : Nat) (b : Block) : Block :=
  let s := getSn b n
  if !s.reachWait then b
  else
    let r := snNow b n - s.raisedAt
    let b1 := setSn b n { s with reachWait := false, holdLast := BitVec.ofNat 32 r }
    snTell (snMargin b1 n 0 0x82 0 (BitVec.ofNat 32 r)) n (.note (.holdAck r))

def execHoldAck (slot : Fin 16) (err : HingeErr) (dieNs : W32) (s : State) : Host.Outcome State Fault Refusal :=
  act s (onDeclared slot.val err (effHoldAck slot.val))

/-- TRIM_ACK (R250). -/
def effTrimAck (n : Nat) (unit : BitVec 12) (fence : Bool) (b : Block) : Block :=
  let b1 := modSn b n fun s =>
    { s with trimWait := s.trimWait.filter fun x => !(x.1 == unit.toNat && x.2.1 == fence) }
  snTell (snMargin b1 n 0 (if fence then 0x84 else 0x85) 0 (unit.setWidth 32)) n (.note (.trimAck unit fence))

def execTrimAck (slot : Fin 16) (err : HingeErr) (unit : BitVec 12) (fence : Bool) (s : State) :
    Host.Outcome State Fault Refusal :=
  act s (onDeclared slot.val err (effTrimAck slot.val unit fence))

/-- RESET_NOTE: a reset begins, and the fenced units of the domain are fenced again; or it is complete (R252, R253). -/
def effResetNote (n d : Nat) (start : Bool) (b : Block) : Block :=
  if start then
    let b1 := beginReset b n d
    each (fencedIn (getSn b n) d) (fun u b => sendTrimSet n u true b) b1
  else endReset b n d

def execResetNote (slot : Fin 16) (err : HingeErr) (domain : Fin 64) (start : Bool) (s : State) :
    Host.Outcome State Fault Refusal :=
  act s (onDeclared slot.val err (effResetNote slot.val domain.val start))

/-- WACK: the write of its TAG is done; with the last one of a restore page its read-back begins (R233, R236, R243).  A TAG
of no write under way does nothing. -/
def effWack (n : Nat) (tag : W16) (b : Block) : Block :=
  let s := getSn b n
  match s.restore with
  | [] => b
  | w :: rest =>
    if !w.tags.contains tag then b
    else
      let w1 := { w with tags := w.tags.erase tag }
      let b1 := setSn b n { s with restore := w1 :: rest }
      if w1.tags.isEmpty then issueMrd b1 n .readback w.push.addr 4096 else b1

def execWack (slot : Fin 16) (err : HingeErr) (tag : W16) (s : State) : Host.Outcome State Fault Refusal :=
  act s (onDeclared slot.val err (effWack slot.val tag))

/-! ## The hold line's own events -/

/-- SNT_HOLD_RAISE: local spine time has reached HOLD_AT. -/
def effRaise (n : Nat) (b : Block) : Block :=
  match (getSn b n).holdPending.find? fun t => decide (t ≤ snNow b n) with
  | none => b
  | some t => raiseHold b n (some t)

def execSntHoldRaise (slot : Fin 16) (s : State) : Host.Outcome State Fault Refusal := act s (effRaise slot.val)

/-- SNT_HOLD_LOWER: local spine time has reached RELEASE_AT. -/
def effLower (n : Nat) (b : Block) : Block :=
  match (getSn b n).releaseDue with
  | none => b
  | some t =>
    if snNow b n < t then b
    else if (getSn b n).sntHold then lowerHold b n
    else modSn b n fun s => { s with releaseDue := none }

def execSntHoldLower (slot : Fin 16) (s : State) : Host.Outcome State Fault Refusal := act s (effLower slot.val)

/-- REACH_TIMEOUT: no HOLD_ACK within HOLD_REACH + 5 µs (R246). -/
def effReachTimeout (n : Nat) (b : Block) : Block :=
  let s := getSn b n
  let reach := ((knownDecl s).map fun d => d.holdReach).getD 0
  if s.reachWait && decide (s.raisedAt + reach + 5000 ≤ snNow b n) then
    let b1 := raise (setSn b n { s with reachWait := false, holdLast := 0xFFFFFFFF }) (.sn n) 6 (aboutSlot b n)
    snTell (snMargin b1 n 0 0x83 0 0) n (.report .reach)
  else b

def execReachTimeout (slot : Fin 16) (s : State) : Host.Outcome State Fault Refusal := act s (effReachTimeout slot.val)

/-- HOLD_ON_LOSS: the Tether has been down for 100 ms (R247). -/
def effHoldOnLoss (n : Nat) (b : Block) : Block :=
  let s := getSn b n
  if s.powered && s.holdOnLossEn && !s.tetherUp && decide (s.tetherDownAt + 100000000 ≤ nowNs b) then
    raiseHold (setSn b n { s with releaseDue := none }) n none
  else b

def execHoldOnLoss (slot : Fin 16) (s : State) : Host.Outcome State Fault Refusal := act s (effHoldOnLoss slot.val)

/-- SENTINEL_TIME_EXCHANGE: with four lanes the local time follows the GLT's (R244). -/
def effTimeExchange (n : Nat) (gltTime : Ns) (b : Block) : Block :=
  if (getSn b n).tetherUp && decide ((getLink b (8 + n)).width = 4) then
    modSn b n fun s => { s with timeSkew := (gltTime : Int) - nowNs b }
  else b

def execSentinelTimeExchange (slot : Fin 16) (gltTime : Ns) (s : State) : Host.Outcome State Fault Refusal :=
  act s (effTimeExchange slot.val gltTime)

/-! ## Watches -/

/-- HANG_DETECT (R248). -/
def effHang (n : Nat) (e : Fin 256) (b : Block) : Block :=
  let s := getSn b n
  let x := tabGet {} s.engines e.val
  if s.hangEn && x.busy && !x.hung && !s.sntHold && !s.trimBits.contains x.unit.toNat &&
      decide (x.changedAt + s.hangLimitMs * 1000000 ≤ nowNs b) then
    let b1 := setSn b n { s with engines := tabPut s.engines e.val { x with hung := true } }
    let b2 := raise b1 (.sn n) 5 { aboutSlot b n with place := unitPlace b n x.unit.toNat, source := n * 256 + e.val }
    snTell (snMargin b2 n e.val 0x81 0 (x.unit.setWidth 32)) n (.report (.hang x.unit e))
  else b

def execHangDetect (slot : Fin 16) (engine : Fin 256) (s : State) : Host.Outcome State Fault Refusal :=
  act s (effHang slot.val engine)

/-- TRIM_ACK_TIMEOUT: no TRIM_ACK 1 ms after TRIM_SET; the bit stays (R250). -/
def effTrimAckTimeout (n : Nat) (unit : BitVec 12) (b : Block) : Block :=
  let s := getSn b n
  match s.trimWait.find? fun x => x.1 == unit.toNat with
  | none => b
  | some x =>
    if x.2.2 + 1000000 ≤ nowNs b then
      let b1 := setSn b n { s with trimWait := s.trimWait.filter fun y => y.1 != unit.toNat }
      let b2 := raise b1 (.sn n) 7 { aboutSlot b n with place := unitPlace b n unit.toNat }
      snTell b2 n (.report (.trim unit))
    else b

def execTrimAckTimeout (slot : Fin 16) (unit : BitVec 12) (s : State) : Host.Outcome State Fault Refusal :=
  act s (effTrimAckTimeout slot.val unit)

/-- SENTINEL_FW_SWITCH: the sentinel runs the image of its second bank; the firmware gap that opens lasts at most 1 ms, an open
value (R255, R256, R364). -/
def effFwSwitch (n : Nat) (b : Block) : Block :=
  let s := getSn b n
  match s.fwSwitchAt, s.fwSecond with
  | some t, some i =>
    if t ≤ snNow b n then
      let gap := some (nowNs b + freeVal b % 1000001)
      let s1 := { s with fwImage := i, fwSecond := none, fwSwitchAt := none, fwBank := !s.fwBank, fwGapEnd := gap }
      rebindSlot (setSn (takeFree (keepMirror b n)) n s1) n true
    else b
  | some _, none => b
  | none, some _ => b
  | none, none => b

def execSentinelFwSwitch (slot : Fin 16) (s : State) : Host.Outcome State Fault Refusal := act s (effFwSwitch slot.val)

/-- SENTINEL_THERMAL: a diode's reading; 100 °C or above sets THERMAL and is reported (Table 9.11). -/
def effSnThermal (n d : Nat) (reading : Int) (b : Block) : Block :=
  let s := getSn b n
  let temps := setNth (if s.temps.length = 8 then s.temps else List.replicate 8 0) d reading
  let b1 := setSn b n { s with temps := temps }
  if s.powered && decide (400 ≤ reading) then snTell (raise b1 (.sn n) 9 (aboutSlot b1 n)) n (.report .thermal) else b1

def execSentinelThermal (slot : Fin 16) (diode : Fin 8) (reading : Int) (s : State) : Host.Outcome State Fault Refusal :=
  act s (effSnThermal slot.val diode.val reading)

end Sys2Proof.Machine
end

