-- ==== Sys2Proof/Machine/Tether.lean ====
section
/-!
DEFINITION. Machine/Tether.lean: streams on a Tether (R239-R242) and the messages that its two ends receive (Table 9.5).
-/

namespace Sys2Proof.Machine

/-! ## Streams -/

/-- One end of port n: its open streams and the numbers of broken ones. -/
def openAt (s : Sentinel) (glt : Bool) : List OpenStream := if glt then s.openGlt else s.openIn
def brokenAt (s : Sentinel) (glt : Bool) : List W16 := if glt then s.brokenGlt else s.brokenIn
def putOpen (s : Sentinel) (glt : Bool) (l : List OpenStream) : Sentinel :=
  if glt then { s with openGlt := l } else { s with openIn := l }

/-- A receiver answers a stream. -/
def answer (b : Block) (n : Nat) (glt : Bool) (k : AckKind) (stream : W16) : Block :=
  if glt then tellSn b n (.ack k stream 0) else snTell b n (.ack k stream 0)

/-- A segment is dropped as late (R241). -/
def dropSegment (b : Block) (n : Nat) : Block :=
  count (modSn b n fun s => { s with cntLateDrop := s.cntLateDrop + 1 }) (portCounter (8 + n) 10) 1

/-- A tile's identity from the record header in the START segment (Table 4.2, R242). -/
def voidFrom (l : List Byte) : TileVoid :=
  let w (off len : Nat) : Nat := leNat ((l.drop off).take len)
  { tapSeq := BitVec.ofNat 32 (w 0x14 4), step := BitVec.ofNat 32 (w 0x0C 4), runSeq := BitVec.ofNat 32 (w 0x2C 4),
    unit := BitVec.ofNat 12 (w 0x22 2), cause := .streamBroken, edition := BitVec.ofNat 8 (w 0x80 1),
    domain := Fin.ofNat 64 (w 0x81 1) }

/-- What a stream that does not arrive means to the GLT: a tile record is VOID, a page push has used a credit (R242). -/
def lostStream (b : Block) (n : Nat) (k : StreamKind) (start : List Byte) : Block :=
  match k with
  | .tileRecord => effTileVoid n (voidFrom start) b
  | .pagePush => returnCredit b n ((nthD 0 start 7).getLsbD 0)
  | .tileVoid | .intervalClose | .restorePush | .control => b

/-- Whether a complete stream is acknowledged by itself: a notice of an acknowledgement is not (R242). -/
def acksItself (k : StreamKind) (l : List Byte) : Bool :=
  match k with
  | .tileVoid | .intervalClose => true
  | .control => l.head? != some 0x09
  | .tileRecord | .pagePush | .restorePush => false

/-- Whether an aborted stream was a page push: it has used a credit (R192). -/
def abortedPush (glt : Bool) (o : OpenStream) : Bool := glt && decide (o.kind = .pagePush)

/-- An open stream has a new segment: it is complete, discarded with ABORT, or stays open. -/
def onOpen (b : Block) (n : Nat) (glt : Bool) (g : Segment) (o : OpenStream) (rest : List OpenStream) : Block :=
  if g.abort then
    onlyIf (abortedPush glt o) (fun b => lostStream b n o.kind o.bytes) (modSn b n fun s => putOpen s glt rest)
  else if g.fin || decide (o.total ≤ o.got) then
    let b1 := modSn b n fun s => putOpen s glt rest
    if acksItself o.kind o.bytes then answer b1 n glt .ack g.stream else b1
  else modSn b n fun s => putOpen s glt (rest ++ [o])

/-- STREAM_SEGMENT (R239-R242). -/
def effSegment (n : Nat) (glt : Bool) (g : Segment) (b : Block) : Block :=
  let s := getSn b n
  let l := openAt s glt
  if g.edition ≠ s.portEdition then dropSegment b n
  else if g.start then
    if (brokenAt s glt).contains g.stream then dropSegment b n
    else if l.length ≥ 8 then
      onlyIf (glt && !g.abort) (fun b => lostStream b n g.kind g.payload) (answer b n glt .nak g.stream)
    else
      onOpen b n glt g { stream := g.stream, kind := g.kind, got := g.payload.length, total := g.total, last := nowNs b,
                         bytes := g.payload } l
  else
    match l.find? fun o => o.stream == g.stream with
    | none => dropSegment b n
    | some o =>
      -- R240: a segment as late as the expiry is late
      if o.last + s.streamTimeoutUs * 1000 ≤ nowNs b then dropSegment b n
      else onOpen b n glt g { o with got := o.got + g.payload.length, last := nowNs b, bytes := o.bytes ++ g.payload }
        (l.filter fun x => x.stream != g.stream)

def execStreamSegment (slot : Fin 16) (atGlt : Bool) (g : Segment) (s : State) : Host.Outcome State Fault Refusal :=
  act s (effSegment slot.val atGlt g)

/-- STREAM_TIMEOUT: no segment for SN_STREAM_TIMEOUT: the stream is discarded, broken and NAKed (R240). -/
def effStreamTimeout (n : Nat) (glt : Bool) (stream : W16) (b : Block) : Block :=
  let s := getSn b n
  match (openAt s glt).find? fun o => o.stream == stream with
  | none => b
  | some o =>
    if nowNs b < o.last + s.streamTimeoutUs * 1000 then b
    else
      let s1 := putOpen { s with cntBroken := s.cntBroken + 1 } glt ((openAt s glt).filter fun x => x.stream != stream)
      let s2 := if glt then { s1 with brokenGlt := withEntry s1.brokenGlt stream }
                else { s1 with brokenIn := withEntry s1.brokenIn stream }
      let b1 := count (raise (setSn b n s2) (.sn n) 4 (aboutSlot b n)) (slotCounter n 15) 1
      let b2 := if glt then portNote b1 (8 + n) 0x0D 0 stream.toNat 0 else snMargin b1 n 0 0x89 0 0
      onlyIf glt (fun b => lostStream b n o.kind o.bytes) (answer b2 n glt .nak stream)

def execStreamTimeout (slot : Fin 16) (atGlt : Bool) (stream : W16) (s : State) : Host.Outcome State Fault Refusal :=
  act s (effStreamTimeout slot.val atGlt stream)

/-- An answer reaches the GLT about a stream that it sent: a kept message is done or begun again, and a restore page goes
out again (R242). -/
def ackAtGlt (n : Nat) (k : AckKind) (stream : W16) (b : Block) : Block :=
  let s := getSn b n
  match s.sentG.find? fun x => x.1 == stream with
  | some x =>
    let b1 := setSn b n { s with sentG := s.sentG.filter fun y => y.1 != stream }
    if k = .ack then b1 else tellSn b1 n x.2
  | none =>
    match b.bd.jobs.find? fun j => j.slot == n && j.stream == stream && decide (j.tries ≠ 0) with
    | none => b
    | some j =>
      match j.cur, k with
      | some d, .nak => sendPage b j d
      | some _, .ack | some _, .stale | none, _ => b

/-- An answer reaches the sentinel about a stream that it sent: a page leaves the push buffer or goes out again, another
kept message is done or begun again (R185, R190, R242). -/
def ackAtSn (n : Nat) (k : AckKind) (stream : W16) (b : Block) : Block :=
  let s := getSn b n
  if s.pushBuf.any fun p => p.sentAs == some stream then
    if k = .nak then
      setSn b n { s with pushBuf := s.pushBuf.map fun p => if p.sentAs = some stream then { p with sentAs := none } else p }
    else startNext (setSn b n { s with pushBuf := s.pushBuf.filter fun p => p.sentAs != some stream }) n
  else
    match s.sentS.find? fun x => x.1 == stream with
    | none => b
    | some x =>
      let b1 := setSn b n { s with sentS := s.sentS.filter fun y => y.1 != stream }
      if k = .ack then b1 else snTell b1 n x.2

def execStreamAck (slot : Fin 16) (atGlt : Bool) (k : AckKind) (stream : W16) (s : State) :
    Host.Outcome State Fault Refusal :=
  act s (if atGlt then ackAtGlt slot.val k stream else ackAtSn slot.val k stream)

/-! ## Messages to the sentinel -/

/-- POLICY: exponents and a fresh seed (R90). -/
def execPolicy (slot : Fin 16) (p : PolicyMsg) (s : State) : Host.Outcome State Fault Refusal :=
  act s fun b => modSn b slot.val fun x => { x with rates := p.rates, seed := p.seed, draws := 0 }

/-- HOLD_AT: armed, or acted on at once when past; a repeat of the time that raised the line is the marker (R244).  A release
that was to come at or after its time is replaced (R280). -/
def effHoldAtMsg (n : Nat) (t : Ns) (b : Block) : Block :=
  let s := getSn b n
  let due := if (s.releaseDue.map fun x => decide (t ≤ x)).getD false then none else s.releaseDue
  if s.sntHold && s.holdTime == some t then b
  else if t ≤ snNow b n then raiseHold (setSn b n { s with releaseDue := due }) n (some t)
  else setSn b n { s with holdPending := withEntry s.holdPending t, releaseDue := due }

def execHoldAtMessage (slot : Fin 16) (t : Ns) (s : State) : Host.Outcome State Fault Refusal :=
  act s (effHoldAtMsg slot.val t)

/-- RELEASE_AT: withdraws a pending HOLD_AT of the same time, else lowers the line at its time, also where the line rises
only before then (R244). -/
def effReleaseAtMsg (n : Nat) (t : Ns) (b : Block) : Block :=
  let s := getSn b n
  if s.holdPending.contains t then setSn b n { s with holdPending := without s.holdPending t }
  else if !s.sntHold && (s.holdPending.isEmpty || decide (t ≤ snNow b n)) then b
  else if t ≤ snNow b n then lowerHold b n
  else setSn b n { s with releaseDue := some t }

def execReleaseAtMessage (slot : Fin 16) (t : Ns) (s : State) : Host.Outcome State Fault Refusal :=
  act s (effReleaseAtMsg slot.val t)

/-- TRIM (R250, R251). -/
def execTrimMessage (slot : Fin 16) (unit : BitVec 12) (fence : Bool) (s : State) : Host.Outcome State Fault Refusal :=
  act s fun b => applyTrim b slot.val unit.toNat fence

/-- DOMAIN: asserts or releases a domain's reset at the die; an assertion begins it here (R252). -/
def effDomainMsg (n : Nat) (d : Fin 64) (assert : Bool) (b : Block) : Block :=
  snHinge (if assert then beginReset b n d.val else b) n (.domainReset d assert)

def execDomainMessage (slot : Fin 16) (domain : Fin 64) (assert : Bool) (s : State) : Host.Outcome State Fault Refusal :=
  act s (effDomainMsg slot.val domain assert)

/-- Whether a sentinel image passes the checks of R255. -/
def snImageOk (s : Sentinel) (i : FwImage) : Bool :=
  i.headerOk 2 i.raw.length && decide (i.raw.length ≤ 262144) && decide (s.fwMinSvn ≤ i.svn) && i.keySlot == 0 && Config.signatureOk 0 i.body i.sig

/-- Whether an image is on hand whole, by its own IMAGE_LEN, or has grown beyond the limit of R255. -/
def imageEnds (i : FwImage) : Bool :=
  decide (256 ≤ i.raw.length) && (decide (i.imageLen ≤ i.raw.length) || decide (262144 < i.raw.length))

/-- A whole image is verified: the boot ROM starts it, or a running sentinel keeps it in its second bank (R254, R255, R364). -/
def takeImage (n : Nat) (i : FwImage) (b : Block) : Block :=
  let s := getSn b n
  let ok := snImageOk s i
  match s.phase with
  | .rom | .loading =>
    if ok then snHello (setSn b n { s with fwImage := i, phase := .waitDeclare }) n
    else raise (setSn b n { s with phase := .rom }) (.sn n) 8 (aboutSlot b n)
  | .waitDeclare | .running =>
    if ok then setSn b n { s with fwSecond := some i }
    else rebindSlot (raise b (.sn n) 8 (aboutSlot b n)) n false
  | .down | .fault => b

/-- FW_CHUNK: the chunks of an image, from offset 0 on, are put together; the last one has it verified. -/
def effFwChunk (n : Nat) (off : Nat) (bytes : List Byte) (b : Block) : Block :=
  let s := getSn b n
  let buf := if off = 0 then bytes else patchBytes s.fwBuf off bytes
  match s.phase with
  | .down | .fault => b
  | .rom | .loading | .waitDeclare | .running =>
    if imageEnds { raw := buf } then takeImage n { raw := buf } (setSn b n { s with fwBuf := [] })
    else setSn b n { s with fwBuf := buf, phase := if s.phase = .rom then .loading else s.phase }

def execFwChunk (slot : Fin 16) (offset count : Nat) (bytes : List Byte) (s : State) : Host.Outcome State Fault Refusal :=
  act s (effFwChunk slot.val offset (bytes.take count))

/-- RESTORE_PUSH_RECEIVED (R243). -/
def effRestorePush (n : Nat) (p : RestorePush) (b : Block) : Block :=
  let s := getSn b n
  let say (st : Fin 3) : Block := snTell b n (.written { addr := p.addr, crc := 0, status := st })
  if crc32c p.data ≠ p.crc then say 2
  else if s.armed then say 1
  else startNext (setSn b n { s with restore := s.restore ++ [{ push := p }] }) n

def execRestorePushReceived (slot : Fin 16) (p : RestorePush) (s : State) : Host.Outcome State Fault Refusal :=
  act s (effRestorePush slot.val p)

/-! ## Sentinel registers (R256, Tables 9.8-9.11) -/

/-- A write of a register of the sentinel window (R9, R10, R256). -/
def snRegWrite (n off : Nat) (v : W32) (b : Block) : Block :=
  let f (lo hi x : Nat) (g : Sentinel → Sentinel) : Block := fieldIf (within lo hi x) (.sn n) (fun b => modSn b n g) b
  if off = 4 then modSn b n fun s => { s with holdOnLossEn := v.getLsbD 0, hangEn := v.getLsbD 1 }
  else if off = 0xC then clearLeaf b (.sn n) v
  else if off = 0x24 then f 2 1000 (field v 0 10) fun s => { s with hangLimitMs := field v 0 10 }
  else if off = 0x28 then f 100 100000 (field v 0 17) fun s => { s with streamTimeoutUs := field v 0 17 }
  else if off = 0x60 then modSn b n fun s => { s with trimSel := v.setWidth 7 }
  else b

/-- REG_RD, REG_WR: served by the sentinel's firmware; the answer updates the mirror (R256). -/
def effRegRd (n off : Nat) (write : Option W32) (b : Block) : Block :=
  if !snFirmware (getSn b n) then b
  else
    let b1 := match write with
      | none => b
      | some v => snRegWrite n off v b
    snTell (showSn b1 n) n (.regData off (snLive b1 n off))

def execRegRd (slot : Fin 16) (off : Nat) (write : Option W32) (s : State) : Host.Outcome State Fault Refusal :=
  act s (effRegRd slot.val off write)

/-! ## HELLO at the GLT (R254, R3, R305) -/

/-- Step 4 of R254: trim bits from the GLT's copy, every edition as its copy plus 1. -/
def loadRegistry (b : Block) (n : Nat) : Block :=
  let r := getSlot b n
  let eds := (upFrom 0 64).map fun d => (d, tabGet 0 r.editionCopy d + 1)
  let b1 := modSlot b n fun r => { r with editionCopy := eds }
  modSn b1 n fun s => { s with trimBits := r.trimCopy, editions := eds }

/-- A readmission starts its specimen once the sentinel runs (R305). -/
def startReadmit (b : Block) (n : Nat) : Block :=
  if (getSlot b n).readmitting then startWhole b n else b

/-- A slot whose gathering is being copied is supplied with credits (R192). -/
def supplyCopying (n : Nat) (b : Block) : Block := onlyIf (decide ((getSlot b n).gphase = .copying)) (supplySlot n) b

/-- HELLO. -/
def effHello (n : Nat) (h : HelloMsg) (b : Block) : Block :=
  let r := getSlot b n
  let first := match r.mirrorPhase with
    | .down | .rom | .loading | .fault => true
    | .waitDeclare | .running => false
  let b1 := modSlot b n fun r => { r with stepping := h.stepping, snSvn := h.svn, mirrorPhase := h.phase, stale := false }
  if h.stepping ≠ 0xA2 then
    raise (linkDown (tetherDown b1 n) (8 + n)) (lkLeaf (8 + n)) 6 (aboutPort b (8 + n))
  else
    match h.phase with
    | .rom =>
      let b2 := dropCredits (abandonSlot b1 n true false) n
      match bankImage b2 2 b.fw.sntBank with
      | none => b2
      | some i => sendChunks b2 n i
    | .waitDeclare =>
      let b2 := if first then loadRegistry b1 n else b1
      if r.on then modSlot b2 n fun r => { r with perstN := true, seqStart := none } else b2
    | .running => supplyCopying n (startReadmit (modSlot b1 n fun r => { r with decl := h.declare }) n)
    | .down | .loading | .fault => b1

def execHello (slot : Fin 16) (h : HelloMsg) (s : State) : Host.Outcome State Fault Refusal := act s (effHello slot.val h)

/-! ## NOTE and REPORT at the GLT (R248, R252, R264) -/

/-- A trim is acknowledged: the commands and the Kettle operations that wait for it complete with OK, or with TIMEOUT
(R250, R303, Table 10.7). -/
def endTrim (b : Block) (n : Nat) (unit : Nat) (fence : Bool) (st : Byte) : Block :=
  let r := getSlot b n
  let hit (x : Nat × Bool × Issuer) : Bool := x.1 == unit && x.2.1 == fence
  let b1 := each (r.trimIss.filter hit) (fun x b => complete b x.2.2 0x0603 st)
    (modSlot b n fun r => { r with trimIss := r.trimIss.filter fun x => !hit x })
  let waits := b1.hr.routes.filter fun x => (x.2.waitSlot.map fun w => w.1 == n).getD false && x.2.args.getD 1 0 % 4096 == BitVec.ofNat 32 unit
  each waits (fun x b => endKettle b x.1 st) b1

/-- NOTE: the GLT's copies follow; an edition of the memory domain abandons the gathering; a HOLD_MARK closes its part of
the cut. -/
def effNote (n : Nat) (x : NoteMsg) (b : Block) : Block :=
  match x with
  | .trimAck unit fence => endTrim b n unit.toNat fence stOk
  | .edition d ed =>
    let b1 := modSlot b n fun r => { r with editionCopy := tabPut r.editionCopy d.val ed }
    let mem := ((getSlot b n).decl.map fun m => m.memValid && m.memDomain.toNat == d.val).getD false
    if mem then abandonSlot b1 n true false else b1
  | .resetDone _ => b
  | .holdAck reach =>
    let b1 := modSlot b n fun r => { r with reachLast := reach, reachExceeded := false }
    match slotTenant? b n with
    | none => b1
    | some t => modHold b1 t fun h => { h with reachMax := Nat.max h.reachMax reach }
  | .holdMark _ _ eds =>
    let b1 := modSlot b n fun r =>
      { r with editionCopy := foldOver (fun t i => tabPut t i (nthD 0 eds i)) r.editionCopy (upFrom 0 eds.length) }
    match slotTenant? b n with
    | none => b1
    | some t =>
      match (getTen b t).hold.phase with
      | .scheduled =>
        if (getTen b t).hold.time ≤ nowNs b then modHold b1 t fun h => { h with slotsSeen := putBit h.slotsSeen n true } else b1
      | .cutting => checkCut (modHold b1 t fun h => { h with slotsDue := putBit h.slotsDue n false }) t
      | .none | .held | .incomplete => b1

def execNote (slot : Fin 16) (n : NoteMsg) (s : State) : Host.Outcome State Fault Refusal := act s (effNote slot.val n)

/-- REPORT: the matching suspect report is filed (R283); a reach marks the hold's cut as unbounded (R265). -/
def effReport (n : Nat) (r : ReportMsg) (b : Block) : Block :=
  match r with
  | .hang unit engine => fileUnit (count b (slotCounter n 13) 1) .hang n unit.toNat engine.val
  | .reach =>
    let b1 := raise (modSlot b n fun r => { r with reachExceeded := true }) .rs 4 (aboutSlot b n)
    let b2 := match slotTenant? b n with
      | none => b1
      | some t => modHold b1 t fun h => { h with unbounded := putBit h.unbounded n true }
    fileSlot b2 .reach n
  | .trim unit =>
    endTrim (endTrim (fileUnit b .trimTimeout n unit.toNat 0) n unit.toNat true stTimeout) n unit.toNat false stTimeout
  | .pageRead _ _ => abandonSlot (fileSlot b .pageCrc n) n true false
  | .seal _ | .fetch _ => b
  | .thermal => fileSlot b .thermal n
  | .domainLimit _ => fileSlot b .domainLimit n

def execReport (slot : Fin 16) (r : ReportMsg) (s : State) : Host.Outcome State Fault Refusal := act s (effReport slot.val r)

end Sys2Proof.Machine
end

