-- ==== Sys2Proof/Machine/Links.lean ====
section
/-!
DEFINITION. Machine/Links.lean: link frames, training, width changes and retunes of the 24 links (R306-R322).  Links 0-7 are
S0-S7 and 8-23 are T0-T15.
-/

namespace Sys2Proof.Machine

/-! ## Link frames (R309, R310) -/

/-- Whether a frame number lies among the unacknowledged ones. -/
def ackIndex : List (BitVec 12) → BitVec 12 → Option Nat
  | [], _ => none
  | x :: l, a => if x = a then some 0 else (ackIndex l a).map (· + 1)

/-- A unit of a Spine link that its neighbour has acknowledged needs no replay on another rail (R125, R126). -/
def unitDone (l : Nat) (u : TxUnit) (b : Block) : Block :=
  if 8 ≤ l then b
  else
    match u with
    | .cell hdr x => modHop b (portHop l) fun h => { h with unacked := h.unacked.filter fun c => !(c.1.seq == hdr.seq && c.2 == x) }
    | .seg ty f i =>
      if i + 1 = segments f then
        modHop b (portHop l) fun h => { h with dunacked := h.dunacked.filter fun c => !(c.1 == ty && c.2.dseq == f.dseq) }
      else b
    | .stream => b

/-- An ACK frees the frames up to the one it names, and what waits takes their room. -/
def takeAck (b : Block) (l : Nat) (a : BitVec 12) : Block :=
  let k := getLink b l
  match ackIndex k.txUnacked a with
  | none => b
  | some i =>
    let b1 := setLink b l { k with txUnacked := k.txUnacked.drop (i + 1), txUnits := k.txUnits.drop (i + 1), noProgress := 0, waitFrom := nowNs b }
    drainLink (each (k.txUnits.take (i + 1)) (unitDone l) b1) l

/-- The sender replays from its first unacknowledged frame; eight replays without progress fail the link (R310, R311). -/
def replay (b : Block) (l : Nat) : Block :=
  let k := getLink b l
  match k.txUnacked with
  | [] => b
  | f :: _ =>
    let b1 := setLink b l { k with replay := k.replay + 1, noProgress := k.noProgress + 1, waitFrom := nowNs b }
    let b2 := count (portNote (emit b1 (.linkReplay l f)) l 0x03 0 f.toNat 0) (portCounter l 6) 1
    if 8 ≤ k.noProgress + 1 then linkFailure b2 l else b2

/-- A CONTENT frame that is not the next one in order or did not arrive whole: the first is NAKed, later ones are
discarded. -/
def refuseFrame (b : Block) (l : Nat) : Block :=
  let k := getLink b l
  if k.rxDiscard then b
  else
    let b1 := count (setLink b l { k with rxDiscard := true }) (portCounter l 7) 1
    portNote (emit b1 (.linkAck l true (k.rxFseq - 1))) l 0x04 0 (k.rxFseq - 1).toNat 0

/-- The check code of a link frame, over its first 0x228 bytes. -/
def linkCrc (f : LinkFrame) : W32 :=
  crc32c (leBytes 2 f.fseq.toNat ++ leBytes 2 (f.ack.toNat + 4096 * bit f.ackValid + 8192 * bit f.nak) ++ [f.kind, 0] ++
    leBytes 2 f.length ++ readBytes f.body 0 544)

/-- Whether a frame has arrived whole: its codewords are correctable and its CRC matches (R310). -/
def frameWhole (f : LinkFrame) : Bool := f.correctable && f.crc == linkCrc f

/-- A frame's content at its receiver. -/
def takeFrame (b : Block) (l : Nat) (f : LinkFrame) : Block :=
  let k := getLink b l
  let b1 := setLink b l { k with corr := k.corr + f.corrected, uncorr := k.uncorr + bit (!f.correctable) }
  let b2 := count (count b1 (portCounter l 4) f.corrected) (portCounter l 5) (bit (!f.correctable))
  if f.kind ≠ 1 then b2
  else if frameWhole f && f.fseq == k.rxFseq then
    let b3 := modLink b2 l fun k => { k with rxFseq := k.rxFseq + 1, rxDiscard := false }
    let b4 := count (count (count b3 (portCounter l 1) 1) (portCounter l 9) f.units) (portCounter l 3) f.length
    emit b4 (.linkAck l false f.fseq)
  else refuseFrame b2 l

/-- LINK_FRAME: its ACK or NAK, and its content. -/
def effLinkFrame (l : Nat) (f : LinkFrame) (b : Block) : Block :=
  match (getLink b l).state with
  | .down | .training | .failed => b
  | .up | .retuning | .changing =>
    let b1 := takeFrame b l f
    if f.ackValid && frameWhole f then
      let b2 := takeAck b1 l f.ack
      if f.nak then replay b2 l else b2
    else b1

def execLinkFrame (link : Fin 24) (f : LinkFrame) (s : State) : Host.Outcome State Fault Refusal :=
  act s (effLinkFrame link.val f)

/-- REPLAY_TIMEOUT: no ACK within the round trip measured at training plus 1 µs. -/
def effReplayTimeout (l : Nat) (b : Block) : Block :=
  let k := getLink b l
  match k.state with
  | .down | .training | .failed => b
  | .up | .retuning | .changing => if k.waitFrom + k.rtt + 1000 ≤ nowNs b then replay b l else b

def execReplayTimeout (link : Fin 24) (s : State) : Host.Outcome State Fault Refusal :=
  act s (effReplayTimeout link.val)

/-- LINK_FAILED (R311). -/
def effLinkFailed (l : Nat) (b : Block) : Block :=
  match (getLink b l).state with
  | .up | .retuning | .changing => linkFailure b l
  | .down | .training | .failed => b

def execLinkFailed (link : Fin 24) (s : State) : Host.Outcome State Fault Refusal := act s (effLinkFailed link.val)

/-! ## Lanes and widths (Table 12.5, R316-R318) -/

def laneGood (x : Lane) : Bool := x.lock && !x.isBad && !x.quarantined && !x.moduleFlag

/-- A good lane that a width may use: one in use, or one that its self-test has readmitted (R318). -/
def laneReady (x : Lane) : Bool := laneGood x && (x.inUse || x.clean)

/-- The lanes of a link for which a test holds, as a mask. -/
def laneMask (k : Link) (f : Lane → Bool) : BitVec 4 := foldOver (fun m i => putBit m i (f (tabGet {} k.lanes i))) 0 (upFrom 0 4)

/-- The widest width, within a limit, that Table 12.5 forms from good lanes, with its lanes. -/
def formWidth (good : BitVec 4) (limit : Nat) : Nat × BitVec 4 :=
  if 4 ≤ limit && good == 0xF then (4, 0xF)
  else if 2 ≤ limit && good &&& 3 == 3 then (2, 3)
  else if 2 ≤ limit && good &&& 0xC == 0xC then (2, 0xC)
  else if good.getLsbD 0 then (1, 1)
  else if good.getLsbD 1 then (1, 2)
  else if good.getLsbD 2 then (1, 4)
  else if good.getLsbD 3 then (1, 8)
  else (0, 0)

def maskWidth (m : BitVec 4) : Nat := bit (m.getLsbD 0) + bit (m.getLsbD 1) + bit (m.getLsbD 2) + bit (m.getLsbD 3)

/-- The lanes of a link carry a new mask: lanes out of use run self-test. -/
def useLanes (now : Ns) (k : Link) (lanes : BitVec 4) : Link :=
  let one (t : Tab Lane) (i : Nat) : Tab Lane :=
    let x := tabGet {} t i
    let on := lanes.getLsbD i
    let test := !on && !x.quarantined
    tabPut t i { x with inUse := on, selftest := test, clean := !on && x.clean && x.selftest,
                        cleanFrom := if test && !x.selftest then now else x.cleanFrom }
  { k with width := maskWidth lanes, lanes := foldOver one k.lanes (upFrom 0 4) }

/-- The upstream hop's next exchanges are discarded after a change of its path (R322). -/
def pathChanged (b : Block) (l : Nat) : Block := if l < 8 && hopPort b (portHop l) == l then discardUp b (portHop l) else b

/-- A width change takes effect: both ends replay from the last frame acknowledged (R317). -/
def changeWidth (b : Block) (l : Nat) (lanes : BitVec 4) : Block :=
  let old := (getLink b l).width
  let b1 := modLink b l fun k => { useLanes (nowNs b) k lanes with widthReqSent := none }
  let b2 := setLinkState b1 l .up 0x05 (maskWidth lanes) 0
  let b3 := count b2 (portCounter l 12) 1
  let b4 := if maskWidth lanes < old then raise b3 (lkLeaf l) 1 (aboutPort b3 l) else b3
  let b5 := match (getLink b4 l).txUnacked with
    | [] => b4
    | f :: _ => emit b4 (.linkReplay l f)
  pathChanged b5 l

/-- The arrival that a Tether's retune withheld reaches its barrier (R320). -/
def freeArrive (b : Block) (l : Nat) : Block :=
  match (getLink b l).heldArrive with
  | none => b
  | some (t, k) => arriveRank (modLink b l fun x => { x with heldArrive := none }) t 0 k

/-- The end of a retune that a bad lane or a width change cuts short (R321). -/
def cutRetune (b : Block) (l : Nat) : Block :=
  if (getLink b l).state = .retuning then freeArrive (setLinkState b l .up 0x07 0 0) l else b

/-- This end asks for the widest width of its good lanes (R316). -/
def askWidth (b : Block) (l : Nat) : Block :=
  let k := getLink b l
  let good := laneMask k laneReady
  let (w, _) := formWidth good k.maxWidth
  if w = 0 then linkFailure b l
  else
    let b1 := modLink b l fun k => { k with state := .changing, widthReqSent := some (w, good) }
    sendLcs b1 l (.widthReq (BitVec.ofNat 3 w) good)

/-- A bad event of a lane; the third within 60 s quarantines it (R318). -/
def laneEvent (b : Block) (l i : Nat) : Block :=
  let x := tabGet {} (getLink b l).lanes i
  let bad := (x.bad.filter fun t => decide (nowNs b < t + 60 * nsPerSec)) ++ [nowNs b]
  let q := decide (3 ≤ bad.length)
  let put (b : Block) (x : Lane) : Block := modLink b l fun k => { k with lanes := tabPut k.lanes i x }
  let b1 := portNote (put b { x with bad := bad, isBad := true, clean := false, cleanFrom := nowNs b, quarantined := x.quarantined || q }) l 0x08
    (2 ^ i) 0 0
  if q && !x.quarantined then raise (portNote b1 l 0x09 (2 ^ i) 0 0) (lkLeaf l) 2 (aboutPort b1 l) else b1

/-- LANE_BAD: a lane in use that goes bad asks for a width at once; a lane out of use starts its self-test again. -/
def effLaneBad (l i : Nat) (b : Block) : Block :=
  let k := getLink b l
  let x := tabGet {} k.lanes i
  let b1 := laneEvent b l i
  match k.state with
  | .down | .training | .failed => b1
  | .up | .retuning | .changing => if x.inUse then askWidth (cutRetune b1 l) l else b1

def execLaneBad (link : Fin 24) (lane : Fin 4) (s : State) : Host.Outcome State Fault Refusal :=
  act s (effLaneBad link.val lane.val)

/-- The leader names a time, 1 ms ahead, at which the link widens (R318). -/
def nameWidening (b : Block) (l : Nat) (lanes : BitVec 4) : Block :=
  let t := nowNs b + 1000000
  sendLcs (modLink b l fun k => { k with widenTo := some (lanes, t) }) l (.widthGo lanes true (t % 2 ^ 48))

/-- Whether a link control set is acted on: its check code fits, and it is no copy of the last one, which came in a row of
four (R314; that a copy comes within 100 ns is a DESIGN CHOICE, log entry 169). -/
def lcsFresh (b : Block) (l : Nat) (h : LcsHdr) (x : Lcs) : Bool :=
  h.crc == crc16 (lcsBytes h x) &&
    match (getLink b l).lcsSeen with
    | none => true
    | some (bytes, t) => bytes != lcsBytes h x || decide (t + 100 < nowNs b)

/-- Acts on a link control set. -/
def takeLcs (l : Nat) (h : LcsHdr) (x : Lcs) (f : Block → Block) (b : Block) : Block :=
  if lcsFresh b l h x then f (modLink b l fun k => { k with lcsSeen := some (lcsBytes h x, nowNs b) }) else b

/-- WIDTH_REQ: the leader answers with WIDTH_GO, at once for a narrower link and with a time for a wider one; the other end
answers with its own request, which acknowledges (R317, R318). -/
def effWidthReq (l : Nat) (width : BitVec 3) (good : BitVec 4) (b0 : Block) : Block :=
  let b := cutRetune b0 l
  let k := getLink b l
  match k.state with
  | .down | .training | .failed => b0
  | .up | .retuning | .changing =>
    if k.leader then
      let own := match k.widthReqSent with
        | some x => x
        | none => ((formWidth (laneMask k laneReady) k.maxWidth).1, laneMask k laneReady)
      let (w, lanes) := formWidth (own.2 &&& good) (min own.1 width.toNat)
      if w = 0 then linkFailure b l
      else if k.width < w then nameWidening b l lanes
      else if w = k.width && lanes == laneMask k (·.inUse) && k.widthReqSent.isNone then b
      else
        let first := (k.txUnacked.head?).getD k.txFseq
        changeWidth (sendLcs b l (.widthGo lanes false first.toNat)) l lanes
    else if k.widthReqSent.isSome then b
    else askWidth b l

def execWidthReq (link : Fin 24) (h : LcsHdr) (width : BitVec 3) (good : BitVec 4) (s : State) :
    Host.Outcome State Fault Refusal := act s (takeLcs link.val h (.widthReq width good) (effWidthReq link.val width good))

/-- A spine time given modulo 2⁴⁸ ns: the first one not before now. -/
def wrap48 (now m : Nat) : Ns := now + (m + 2 ^ 48 - now % 2 ^ 48) % 2 ^ 48

/-- WIDTH_GO reaches the end that does not lead. -/
def effWidthGo (l : Nat) (lanes : BitVec 4) (atTime : Bool) (go : Nat) (b0 : Block) : Block :=
  let b := if atTime then b0 else cutRetune b0 l
  let k := getLink b l
  match k.state with
  | .down | .training | .failed => b0
  | .up | .retuning | .changing =>
    if k.leader || lanes == 0 then b
    else if atTime then modLink b l fun k => { k with widenTo := some (lanes, wrap48 (nowNs b) go) }
    else changeWidth b l lanes

def execWidthGo (link : Fin 24) (h : LcsHdr) (lanes : BitVec 4) (atTime : Bool) (go : Nat) (s : State) :
    Host.Outcome State Fault Refusal := act s (takeLcs link.val h (.widthGo lanes atTime go) (effWidthGo link.val lanes atTime go))

/-- A link that its ready lanes and MAX_WIDTH let be wider: the leader names a time, the other end asks (R318). -/
def seekWider (b : Block) (l : Nat) : Block :=
  let k := getLink b l
  let good := laneMask k laneReady
  let (w, lanes) := formWidth good k.maxWidth
  if k.state ≠ .up || w ≤ k.width then b
  else if k.leader then nameWidening b l lanes
  else sendLcs b l (.widthReq (BitVec.ofNat 3 w) good)

/-- LANE_SELFTEST_CLEAN: 10 s without an error readmit a lane; the leader names a time to widen, the other end asks for the
wider width (R318). -/
def effLaneClean (l i : Nat) (b : Block) : Block :=
  let k := getLink b l
  let x := tabGet {} k.lanes i
  if !x.selftest || x.inUse || x.quarantined || decide (nowNs b < x.cleanFrom + 10 * nsPerSec) then b
  else
    let k1 := { k with lanes := tabPut k.lanes i { x with clean := true, isBad := false, lock := true, moduleFlag := false } }
    let b1 := portNote (setLink b l k1) l 0x0A (2 ^ i) 0 0
    seekWider b1 l

def execLaneSelftestClean (link : Fin 24) (lane : Fin 4) (s : State) : Host.Outcome State Fault Refusal :=
  act s (effLaneClean link.val lane.val)

/-- WIDEN_AT: at its time the link widens; a width request under way wins (R317, R318). -/
def effWidenAt (l : Nat) (b : Block) : Block :=
  match (getLink b l).widenTo with
  | none => b
  | some (lanes, t) =>
    if nowNs b < t then b
    else
      let b1 := modLink b l fun k => { k with widenTo := none }
      match (getLink b l).state with
      | .up => changeWidth (modLink b1 l fun k => { k with pausedUntil := nowNs b + 2000 }) l lanes
      | .down | .training | .failed | .retuning | .changing => b1

def execWidenAt (link : Fin 24) (s : State) : Host.Outcome State Fault Refusal := act s (effWidenAt link.val)

/-! ## Retunes (R319-R321) -/

/-- A time at which something of this GLT is scheduled on the Spine: a hold, a release, an unfold, a failback. -/
def scheduledIn (b : Block) (lo hi : Ns) : Bool :=
  let inside (t : Ns) : Bool := decide (lo ≤ t) && decide (t ≤ hi)
  let opt (t : Option Ns) : Bool := (t.map inside).getD false
  (liveTenants b).any (fun t =>
      let h := (getTen b t).hold
      (decide (h.phase = .scheduled) && inside h.time) || opt h.releaseAt ||
        (upFrom 0 4).any fun g => opt (getBar b t g).release) ||
    (upFrom 0 4).any fun h => opt (getHop b h).unfoldAt || opt (getHop b h).failbackAt

/-- The first time, at least 1 ms ahead and by whole milliseconds, with nothing scheduled in the millisecond after it (R320). -/
def freeTime (b : Block) : Nat → Ns → Ns
  | 0, t => t
  | n + 1, t => if scheduledIn b t (t + 1000000) then freeTime b n (t + 1000000) else t

/-- Whether a link takes a slot at once: a standby Spine link, a port without traffic (R320). -/
def slotAtOnce (b : Block) (l : Nat) : Bool :=
  if l < 8 then decide ((getPort b l).state ≠ .active) else (slotTenant? b (l - 8)).isNone

/-- The leader names the retune's time. -/
def nameRetune (b : Block) (l : Nat) (t : Ns) : Block :=
  sendLcs (modLink b l fun k => { k with slotPending := true, slot := some t }) l (.retuneGo t)

/-- A retune is wanted in the next slot: both ends ask, the leader names the time (R320, R321).  A Tether waits for its
slot's arrival at barrier group 0. -/
def wantRetune (b : Block) (l : Nat) : Block :=
  let k := getLink b l
  if k.state ≠ .up || k.slotPending then b
  else
    let b1 := modLink b l fun k => { k with slotPending := true, slotReqAt := nowNs b, retuneReqSent := !k.leader }
    if slotAtOnce b l then beginRetune (sendLcs b1 l .retuneReq) l
    else if 8 ≤ l then b1
    else if k.leader then nameRetune b1 l (freeTime b 64 (nowNs b + 1000000))
    else sendLcs b1 l .retuneReq

/-- RETUNE_REQ: the leader names the time; the other end answers with its own request. -/
def effRetuneReq (l : Nat) (b : Block) : Block :=
  let k := getLink b l
  if k.state ≠ .up && k.state ≠ .changing then b
  else if k.leader then (if k.slot.isSome then b else nameRetune b l (freeTime b 64 (nowNs b + 1000000)))
  else if k.retuneReqSent then b
  else sendLcs (modLink b l fun k => { k with slotPending := true, slotReqAt := nowNs b, retuneReqSent := true }) l .retuneReq

def execRetuneReq (link : Fin 24) (h : LcsHdr) (s : State) : Host.Outcome State Fault Refusal :=
  act s (takeLcs link.val h .retuneReq (effRetuneReq link.val))

/-- RETUNE_GO reaches the end that does not lead. -/
def effRetuneGo (l : Nat) (t : Ns) (b : Block) : Block :=
  let k := getLink b l
  if k.leader || (k.state ≠ .up && k.state ≠ .changing) then b
  else modLink b l fun k => { k with slotPending := true, slot := some (wrap48 (nowNs b) (t % 2 ^ 48)) }

def execRetuneGo (link : Fin 24) (h : LcsHdr) (t : Ns) (s : State) : Host.Outcome State Fault Refusal :=
  act s (takeLcs link.val h (.retuneGo t) (effRetuneGo link.val t))

/-- BER_WINDOW: Table 12.7, and the grade of a Spine rail (R124). -/
def effBerWindow (l ber : Nat) (b : Block) : Block :=
  let k := getLink b l
  if !k.marginEn then b
  else
    let b1 := modLink b l fun k => { k with ber := min ber (2 ^ 32 - 1) }
    let b2 := if l < 8 then regrade b1 l ber false else b1
    if k.state ≠ .up || ber < k.marginBer then b2
    else
      let b3 := portNote b2 l 0x0E 0 0 ber
      if k.urgentBer ≤ ber then beginRetune (sendLcs (raise b3 (lkLeaf l) 4 (aboutPort b3 l)) l .retuneReq) l
      else wantRetune (raise b3 (lkLeaf l) 3 (aboutPort b3 l)) l

def execBerWindow (link : Fin 24) (berE12 : Nat) (s : State) : Host.Outcome State Fault Refusal :=
  act s (effBerWindow link.val berE12)

/-- RETRAIN_SLOT: the slot has come and the retune runs, unless the link is changing its width. -/
def effRetrainSlot (l : Nat) (b : Block) : Block :=
  let k := getLink b l
  match k.slot with
  | none => if k.slotPending && decide (k.state = .up) && slotAtOnce b l then beginRetune b l else b
  | some t => if k.slotPending && decide (k.state = .up) && decide (t ≤ nowNs b) then beginRetune b l else b

def execRetrainSlot (link : Fin 24) (s : State) : Host.Outcome State Fault Refusal := act s (effRetrainSlot link.val)

/-- LK_SLOT_MAX_EXPIRY: the first time 1 ms ahead is taken. -/
def effSlotMax (l : Nat) (b : Block) : Block :=
  let k := getLink b l
  if k.slotPending && k.slot.isNone && decide (k.slotReqAt + k.slotMaxS * nsPerSec ≤ nowNs b) then
    if k.leader then nameRetune b l (nowNs b + 1000000)
    else modLink b l fun k => { k with slot := some (nowNs b + 1000000) }
  else b

def execLkSlotMaxExpiry (link : Fin 24) (s : State) : Host.Outcome State Fault Refusal := act s (effSlotMax link.val)

/-- The offset of a link's register block in BAR0 (R333). -/
def lkOff (l : Nat) : Nat := if l < 8 then 0x41000 + 0x100 * l else 0x50000 + 0x100 * (l - 8)

def execRetune (pf : Fin 4) (link : Fin 24) (s : State) : Host.Outcome State Fault Refusal :=
  act s fun b => adminWrite b pf.val (lkOff link.val) fun b => wantRetune b link.val

/-- FULL_TRAIN: also for a port that three failed trainings left down (R313). -/
def execFullTrain (pf : Fin 4) (link : Fin 24) (s : State) : Host.Outcome State Fault Refusal :=
  act s fun b => adminWrite b pf.val (lkOff link.val) fun b =>
    fullTrain (modLink b link.val fun k => { k with trainFails := 0, fastFails := 0 }) link.val

/-- LK_CTRL.READMIT: quarantined lanes start their self-test; their bad events still count (R318, LK_FLAPS). -/
def effLaneReadmit (l : Nat) (lanes : BitVec 4) (b : Block) : Block :=
  modLink b l fun k =>
    let one (t : Tab Lane) (i : Nat) : Tab Lane :=
      let x := tabGet {} t i
      if lanes.getLsbD i && x.quarantined then
        tabPut t i { x with quarantined := false, selftest := !x.inUse, clean := false, cleanFrom := nowNs b } else t
    { k with lanes := foldOver one k.lanes (upFrom 0 4) }

def execLaneReadmitWrite (pf : Fin 4) (link : Fin 24) (lanes : BitVec 4) (s : State) : Host.Outcome State Fault Refusal :=
  act s fun b => adminWrite b pf.val (lkOff link.val) (effLaneReadmit link.val lanes)

/-- MODULE_FLAG: LK_ERR.MODULE; a loss-of-signal or fault flag on a lane counts as loss of its lock (R308). -/
def effModuleFlag (p i : Nat) (onLane : Bool) (b : Block) : Block :=
  let b1 := raise (portNote b p 0x10 (if onLane then 2 ^ i else 0) 0 0) (.lkS p) 7 (aboutPort b p)
  if !onLane then b1
  else
    effLaneBad p i (modLink b1 p fun k => { k with lanes := tabPut k.lanes i { tabGet {} k.lanes i with moduleFlag := true, lock := false } })

def execModuleFlag (port : Fin 8) (lane : Fin 4) (onLane : Bool) (s : State) : Host.Outcome State Fault Refusal :=
  act s (effModuleFlag port.val lane.val onLane)

/-! ## Training (R313-R315, R22, R25, R254) -/

/-- The port that a Spine port's neighbour must use: east ports meet west ports of the same rail (R25). -/
def partnerPort (p : Nat) : Nat := if p % 2 = 1 then p - 1 else p + 1

/-- Whether a place lies in the ring of level `k` of this GLT, beside its own member (Table 1.11). -/
def inRing (b : Block) (k : Nat) (q : Place) : Bool :=
  let o := ownPlace b
  let hall := placeHall q == placeHall o
  let block := placeBlock q == placeBlock o
  let same := match k with
    | 0 => hall && block && placeRack q == placeRack o
    | 1 => hall && block && placeTray q == 0
    | 2 => hall && placeRack q == 0 && placeTray q == 1
    | _ => placeBlock q == 0 && placeRack q == 0 && placeTray q == 2
  placeOk q && placeLevel q == 2 && same && memberNo k q != memberNo k o

/-- The place that a Spine port's neighbour has named, while the port is up. -/
def upNeighbour (b : Block) (p : Nat) : Option Place :=
  let r := getPort b p
  if r.state = .active ∨ r.state = .standby then some r.nbr else none

/-- Whether a neighbour fits the ring as the other ports of this GLT show it (R25): the one on the other rail of the hop is the same,
and going up from here the member to the east comes no later than the one to the west. -/
def inOrder (b : Block) (p : Nat) (q : Place) : Bool :=
  let h := portHop p
  let k := hopRing b h
  let n := ringSize k
  let up (x : Place) : Nat := (memberNo k x + n - memberNo k (ownPlace b)) % n
  let other := upNeighbour b (hopRail h (!portRailB p))
  let far := (upNeighbour b (hopRail (turnHop h) false)).toList ++ (upNeighbour b (hopRail (turnHop h) true)).toList
  (other.all fun x => x == q) && far.all fun x => if h % 2 = 1 then decide (up q ≤ up x) else decide (up x ≤ up q)

/-- A Spine port's neighbour fails the checks of R22 or R25: the port is kept down. -/
def keepDown (b : Block) (p : Nat) : Block :=
  raise (modPort (linkDown b p) p fun r => { r with state := .miscabled }) .sp 1 (aboutPort b p)

/-- TRAIN: the other end's lanes, place and port.  An end that is not training joins the training. -/
def effTrain (l : Nat) (h : LcsHdr) (lanes : BitVec 4) (full : Bool) (b0 : Block) : Block :=
  let join (b : Block) : Block :=
    match (getLink b l).state with
    | .training => b
    | .down => if full then (if mayTrain b l && (getLink b l).trainFails < 3 then fullTrain b l else b) else b
    | .failed => beginTrain b l (if full then .full else .fast)
    | .up | .retuning | .changing => if full then fullTrain b l else linkFailure b l
  let b := join b0
  if (getLink b l).state ≠ .training then b
  else
    let b1 := modLink b l fun k => { k with nbr := h.place, nbrPort := h.port.val, peerLanes := lanes }
    if 8 ≤ l then b1
    else
      let b2 := modPort b1 l fun r => { r with nbr := h.place, nbrPort := h.port.val }
      let fits := inRing b (hopRing b (portHop l)) h.place && inOrder b l h.place
      if h.place = ownPlace b || !fits || h.port.val ≠ partnerPort l then keepDown b2 l
      else b2

def execTrain (link : Fin 24) (h : LcsHdr) (lanes : BitVec 4) (full : Bool) (s : State) : Host.Outcome State Fault Refusal :=
  act s (takeLcs link.val h (.train lanes full) (effTrain link.val h lanes full))

/-- Arrivals that the sentinel kept while its Tether was down reach the GLT (R242). -/
def lateArrivals (b : Block) (n : Nat) : Block :=
  each (getSn b n).sentS (fun x b =>
    match x.2 with
    | .arrive g r => gltArrive n g.val r b
    | _ => b) b

/-- A record of which a part has been sent is not kept where the streams start afresh (R242). -/
def cutStreams (b : Block) (n : Nat) : Block :=
  let cut (s : Sentinel) : Sentinel :=
    let gone (f : Fetch) : Bool := f.stream.isSome
    let begun (x : SnItem) : Bool := match x with
      | .record _ _ st => st.isSome
      | .fetching _ | .void _ | .close _ _ | .holdMark _ => false
    let placeGone (x : SnItem) : Bool := s.fetches.any fun f => gone f && isPlace f.hdr.tapSeq x
    { s with fetches := s.fetches.map fun f => if gone f then { f with stream := none, lost := true } else f,
             shipQ := s.shipQ.filter fun x => !begun x && !placeGone x }
  modSn b n cut

/-- A Tether is up again: after a full training both ends start their streams afresh and the sentinel says HELLO (R254); a
fast retrain keeps streams and replay buffer (R313). -/
def tetherBack (b : Block) (l : Nat) (full : Bool) : Block :=
  let n := l - 8
  let s := getSn (onlyIf full (fun b => cutStreams b n) b) n
  let pages (p : PushPage) : PushPage := { p with sentAs := none }
  let fresh (s : Sentinel) : Sentinel :=
    { s with portEdition := (getDom b (16 + l)).edition, brokenIn := [], brokenGlt := [], openIn := [], openGlt := [],
             pushBuf := s.pushBuf.map pages, urgentCredit := 0, preCredit := 0, tapSeq := 0 }
  let b1 := setSn (onlyIf full (fun b => dropCredits b n) b) n { (if full then fresh s else s) with tetherUp := s.powered }
  if s.powered then ship (lateArrivals (snHello b1 n) n) n else b1

/-- A link is up: its lanes, round trip, leader and counters. -/
def linkUp (b : Block) (l : Nat) (full : Bool) (rtt : Nat) : Block :=
  let k := getLink b l
  let lane (t : Tab Lane) (i : Nat) : Tab Lane :=
    let x := tabGet {} t i
    tabPut t i { x with lock := !x.moduleFlag, isBad := false, selftest := false, clean := false }
  let k1 := { k with lanes := foldOver lane k.lanes (upFrom 0 4) }
  let (_, lanes) := formWidth (laneMask k1 laneGood &&& k1.peerLanes) k1.maxWidth
  let down := match k.downSince with
    | none => 0
    | some t => nowNs b - t
  let lead := decide (l < 8) && decide ((ownPlace b).toNat < k.nbr.toNat)
  let used := useLanes (nowNs b) k1 lanes
  let k2 := { used with leader := lead, rtt := rtt, trainFails := 0, fastFails := 0, downSince := none, noProgress := 0 }
  let b1 := setLinkState (setLink b l k2) l .up 0x01 (maskWidth lanes) 0
  let b2 := count (count b1 (portCounter l 14) 1) (portCounter l 15) down
  if l < 8 then pathChanged (railUp b2 l) l else freeArrive (tetherBack b2 l full) l

/-- Whether a rail still trains. -/
def railTrains (b : Block) (p : Nat) : Bool := decide ((getPort b p).state = .training)

/-- No rail of a hop has trained: the member beyond it is absent, and the hop folds (R120). -/
def absentHop (b : Block) (h : Nat) : Block :=
  if (getHop b h).folded || !((hopPorts h).all fun p => railDown b p && !railTrains b p) then b
  else foldHop (modHop b h fun x => { x with absent := true }) h

/-- A training that failed: the third full one in a row leaves the port down; two fast ones lead to a full one (R313). -/
def trainFailed (b : Block) (l : Nat) (k : TrainKind) : Block :=
  let x := getLink b l
  match k with
  | .full =>
    let b1 := modLink b l fun k => { k with trainFails := k.trainFails + 1 }
    if 3 ≤ x.trainFails + 1 then
      let b2 := raise (modLink (linkDown b1 l) l fun k => { k with trainFails := 3 }) (lkLeaf l) 6 (aboutPort b1 l)
      if l < 8 then absentHop (modPort b2 l fun r => { r with state := .down }) (portHop l) else b2
    else beginTrain b1 l .full
  | .fast =>
    if 2 ≤ x.fastFails + 1 then fullTrain (modLink b l fun k => { k with fastFails := 0 }) l
    else linkFailure (modLink b l fun k => { k with fastFails := k.fastFails + 1 }) l
  | .retune => freeArrive (linkFailure b l) l

/-- TRAINING_COMPLETE. -/
def effTrainDone (l : Nat) (k : TrainKind) (ok : Bool) (rtt : Nat) (b : Block) : Block :=
  let x := getLink b l
  match x.state, k with
  | .training, .full =>
    if x.trainKind ≠ .full then b else if ok then linkUp b l true rtt else trainFailed b l .full
  | .training, .fast =>
    if x.trainKind ≠ .fast then b else if ok then linkUp b l false rtt else trainFailed b l .fast
  | .retuning, .retune =>
    if ok then freeArrive (pathChanged (setLinkState b l .up 0x07 0 0) l) l else trainFailed b l .retune
  | .training, .retune => b
  | .retuning, .full => b
  | .retuning, .fast => b
  | .down, _ => b
  | .up, _ => b
  | .changing, _ => b
  | .failed, _ => b

def execTrainingComplete (link : Fin 24) (k : TrainKind) (ok : Bool) (rttNs : Nat) (s : State) :
    Host.Outcome State Fault Refusal := act s (effTrainDone link.val k ok rttNs)

end Sys2Proof.Machine
end

