-- ==== Sys2Proof/Machine/Rails.lean ====
section
/-!
DEFINITION. Machine/Rails.lean: the commands of chapter 5 that keep the rings: reserved cells, census, folds and unfolds,
grades, failover and failback.
-/

namespace Sys2Proof.Machine

/-- RESERVED_CELL: a cell or frame with a reserved TYPE or field is dropped, counted and flagged (R113). -/
def execReservedCell (port : Fin 8) (frame : Bool) (s : State) : Host.Outcome State Fault Refusal :=
  act s fun b => if frame then dropCell b port.val else dropCell b port.val

/-! ## Census (R121, R123) -/

/-- The members whose loss cuts this GLT's subtree from the levels above (R123): the delegates of its rack, and the first
member of its uplink ring. -/
def cutMembers (b : Block) (k : Nat) : List Nat :=
  let i := b.ident
  if k = 0 then
    [0] ++ (if i.rack = 0 then [1] else []) ++ (if i.rack = 0 ∧ i.block = 0 then [2] else [])
  else [0]

/-- Rings of this GLT below a level, the ones that a census of that level is told on. -/
def lowerRings (b : Block) (k : Nat) : List Nat := (ownRings b 3).filter fun j => decide (j < k)

/-- Tells a census of ring `k`, or its loss, on the rings below: a CENSUS whose level is not that of the ring it travels
(DESIGN CHOICE, log entry 157: cases 2 of R162 and R123 need it, and the manual names no message). -/
def tellRings (b : Block) (k : Nat) (map : BitVec 64) (epoch : W16) : Block :=
  each (lowerRings b k) (fun j b =>
    if ringAlone b j then b else sendHop b (eastHop j) { level := Fin.ofNat 4 k, lap2 := true } (.census map epoch)) b

/-- The levels that the loss of members of ring `k` cuts beyond what the ring's own members see (R123): without tray 1 of
rack 0 its block has no way to L3, without tray 2 of rack 0 of block 0 its hall none to L4. -/
def cutLevels (b : Block) (k : Nat) (was now : BitVec 64) : List Nat :=
  let i := b.ident
  let gone (m : Nat) : Bool := was.getLsbD m && !now.getLsbD m
  if k ≠ 0 ∨ i.rack ≠ 0 then []
  else (if gone 1 then [2] else []) ++ (if gone 2 && i.block == 0 then [3] else [])

/-- A level is cut: its ring has no census here any more, and the rings below hear of it. -/
def tellCut (b : Block) (k : Nat) : Block :=
  if ringMember b k then b
  else
    let e := (getRing b k).epoch + 1
    tellRings (modRing b k fun r => { r with map := 0, present := 0, epoch := e }) k 0 e

/-- Takes a census result for ring `k`: PRESENT, MAP, EPOCH; a delegate that the last census had and this one lacks sets
DELEGATE_LOST; the rings below are told, and the upstream is chosen anew (R121, R123, R162). -/
def takeCensus (b : Block) (k : Nat) (map : BitVec 64) (epoch : W16) : Block :=
  let r := getRing b k
  let own := (getHop b (eastHop k)).folded || (getHop b (westHop k)).folded
  let b1 := setRing b k { r with present := (setBits 64 map.toNat).length, map := map, epoch := epoch, member := true,
                                 head := lowestMember map == memberNo k (ownPlace b), folded := r.gap.isSome || own }
  let cut := (cutMembers b k).any fun m => r.map.getLsbD m && !map.getLsbD m && m != memberNo k (ownPlace b)
  let b2 := each (cutLevels b k r.map map) (fun j b => tellCut b j) (if cut then raise b1 .sp 8 (aboutGlt b1) else b1)
  takeLeads b (chooseUpstream (tellRings b2 k map epoch))

/-- A census of another ring is told here: it is kept and told on; where it shows a way cut that was there, DELEGATE_LOST is set
(R123). -/
def toldCensus (k : Nat) (map : BitVec 64) (epoch : W16) (b : Block) : Block :=
  let r := getRing b k
  if ringMember b k || (r.map == map && r.epoch == epoch) then b
  else
    let cut := map == 0 || (r.map.getLsbD 0 && !map.getLsbD 0)
    let b1 := setRing b k { r with present := (setBits 64 map.toNat).length, map := map, epoch := epoch, member := false, head := false }
    takeLeads b (chooseUpstream (tellRings (if cut then raise b1 .sp 8 (aboutGlt b1) else b1) k map epoch))

/-- The ring of a port. -/
def portRing (b : Block) (port : Nat) : Nat := hopRing b (portHop port)

/-- CENSUS received: on the first lap a member adds its bit, and the lap closes where the bit is already set; on the
second lap every member takes the result. -/
def onCensus (port : Nat) (hdr : CellHdr) (map : BitVec 64) (epoch : W16) (b : Block) : Block :=
  let k := hdr.level.val
  let own := memberNo k (ownPlace b)
  let r := getRing b k
  let pass (b : Block) (m : BitVec 64) (l : Bool) : Block := sendHop b (eastHop k) { level := hdr.level, lap2 := l } (.census m epoch)
  if k ≠ portRing b port then toldCensus k map epoch b
  else if !ringMember b k then b
  else if hdr.lap2 then (if r.map = map ∧ r.epoch = epoch then b else takeCensus (pass b map true) k map epoch)
  else if map.getLsbD own then takeCensus (pass b map true) k map epoch
  else pass b (putBit map own true) false

/-! ## Folds (R120, R122) -/

/-- FOLD received: it goes round to the other side of the gap; the head marks it and takes a census, and the member that
sent it takes one when no head has seen it. -/
def onFold (port : Nat) (hdr : CellHdr) (gap : Nat) (b : Block) : Block :=
  let k := hdr.level.val
  if k ≠ portRing b port || !ringMember b k then b
  else
    let b1 := modRing b k fun r => { r with folded := true, gap := some gap }
    if gap = memberNo k (ownPlace b) then (if hdr.lap2 then b1 else startCensus b1 k)
    else
      let b2 := sendHop b1 (eastHop k) { level := hdr.level, lap2 := hdr.lap2 || isHead b k } (.fold gap)
      if isHead b k && !(getHop b (eastHop k)).folded then startCensus b2 k else b2

/-- UNFOLD of LAP 1: a hop has joined, the gap that it names is closed; the head takes a census. -/
def onJoined (hdr : CellHdr) (gap : Nat) (b : Block) : Block :=
  let k := hdr.level.val
  if !ringMember b k || gap = memberNo k (ownPlace b) then b
  else
    let b1 := sendHop (closeGap b k gap) (eastHop k) { level := hdr.level, lap2 := true } (.unfold 0 gap)
    if isHead b1 k then startCensus b1 k else b1

/-- Sends a proposal about a hop on one of its rails. -/
def proposeOn (b : Block) (p : Nat) (body : CellBody) : Block :=
  cellOut b p { level := Fin.ofNat 4 (hopRing b (portHop p)) } body

/-- A time may be proposed where none has been, or where one has passed without an answer. -/
def mayOffer (now : Ns) (offer agreed : Option Ns) : Bool := offer.elim true fun t => agreed.isNone && decide (t < now)

/-- An unfold time that is proposed or agreed is withdrawn, and the neighbour hears of it (UNFOLD with the time 0). -/
def withdrawUnfold (h : Nat) (b : Block) : Block :=
  let hop := getHop b h
  if hop.unfoldOffer.isNone && hop.unfoldAt.isNone then b
  else
    let b1 := modHop b h fun x => { x with unfoldOffer := none, unfoldAt := none }
    ((hopPorts h).find? (canTransmit b)).elim b1 fun p => proposeOn b1 p (.unfold 0 0)

/-- A setting has changed: the hops that it now keeps folded withdraw their unfold times (R122). -/
def checkUnfolds (b : Block) : Block := each (upFrom 0 4) (fun h b => if foldIsHeld b h then withdrawUnfold h b else b) b

/-- The neighbour across the gap proposes an unfold time or answers with one: the later of the two stands.  A member that keeps
the hop folded agrees to none (R122). -/
def onUnfoldTime (port : Nat) (t : Ns) (b : Block) : Block :=
  let h := portHop port
  let hop := getHop b h
  let mine := Nat.max t (nowNs b + 1000000)
  if t = 0 then modHop b h fun x => { x with unfoldOffer := none, unfoldAt := none }
  else if !hop.folded then proposeOn b port (.unfold mine 0)
  else if foldIsHeld b h then b
  else
    match hop.unfoldOffer with
    | some o => modHop b h fun x => { x with unfoldAt := some (Nat.max t o) }
    | none => proposeOn (modHop b h fun x => { x with unfoldOffer := some mine, unfoldAt := some mine }) port (.unfold mine 0)

/-- UNFOLD received. -/
def onUnfold (port : Nat) (hdr : CellHdr) (at' : Ns) (gap : Nat) (b : Block) : Block :=
  if hdr.lap2 then onJoined hdr gap b else onUnfoldTime port at' b

/-- UNFOLD_CLEAN_TIMER: a rail of a folded hop has been GOOD for 10 s: an unfold time 1 ms ahead is proposed on it; the two
members unfold at the time that both have agreed (R122). -/
def effUnfoldClean (h : Nat) (b : Block) : Block :=
  let hop := getHop b h
  match (hopPorts h).find? (goodFor10 b) with
  | none => b
  | some p =>
    if !hop.folded || !mayOffer (nowNs b) hop.unfoldOffer hop.unfoldAt || foldIsHeld b h then b
    else
      let t := nowNs b + 1000000
      proposeOn (modHop b h fun x => { x with unfoldOffer := some t }) p (.unfold t 0)

def execUnfoldCleanTimer (hop : Fin 4) (s : State) : Host.Outcome State Fault Refusal := act s (effUnfoldClean hop.val)

/-- A folded hop rejoins on a rail that can carry it. -/
def rejoin (b : Block) (h : Nat) : Block :=
  let now := hopPort b h
  let b1 := if canTransmit b now && (getPort b now).grade ≠ .failed then b else modHop b h fun x => { x with railB := !x.railB }
  let p := hopPort b1 h
  let b2 := modHop b1 h fun x =>
    { x with folded := false, absent := false, unfoldOffer := none, unfoldAt := none, lateTurned := true }
  let b3 := each (hopPorts h) (fun q b => modPort b q fun r =>
    { r with turned := false, state := if canTransmit b q then (if q = p then .active else .standby) else r.state }) b2
  let b3 := each (hopPorts h) (fun q b => selftestOut b q) b3
  let b4 := portNote b3 p 0x0C 0 0 0
  hopJoined (modRing b4 (hopRing b4 h) fun r => { r with folded := (getHop b4 (turnHop h)).folded }) h

/-- UNFOLD_AT: the agreed time has come. -/
def effUnfoldAt (h : Nat) (b : Block) : Block :=
  match (getHop b h).unfoldAt with
  | none => b
  | some t =>
    if nowNs b < t || !(getHop b h).folded then b
    else if foldIsHeld b h then withdrawUnfold h b
    else rejoin b h

def execUnfoldAt (hop : Fin 4) (s : State) : Host.Outcome State Fault Refusal := act s (effUnfoldAt hop.val)

/-! ## Grades and failover (R124-R127) -/

/-- RAIL_GRADE_UPDATE: a link's grade follows from its pre-FEC ratio and its uncorrectable codewords (R124). -/
def execRailGradeUpdate (port : Fin 8) (berE12 : Nat) (uncorrectable : Bool) (s : State) :
    Host.Outcome State Fault Refusal := act s fun b => regrade b port.val berE12 uncorrectable

/-- SELFTEST received on a standby link under self-test: it measures the error ratio, and the next one goes out (R124). -/
def onSelftest (port ber : Nat) (b : Block) : Block :=
  let r := getPort b port
  if r.selftest && r.state = .standby then regrade b port ber false else b

/-- FAILOVER received on the rail that is not active: after a FAILOVER of our own it is the acknowledgement; otherwise
this side moves, and its own FAILOVER answers (R125).  On the rail that is already active it acknowledges our move. -/
def onFailoverNow (port : Nat) (b : Block) : Block :=
  let h := portHop port
  let hop := getHop b h
  if hop.folded then b
  else if hopPort b h = port then (if hop.failoverSent then closeWindow b h else b)
  else if standbyOk b h then moveRail b h false
  else foldHop b h

/-- The other member proposes a failback time or answers with one: the later of the two stands (R127; the message is a DESIGN
CHOICE, log entry 157). -/
def onFailbackTime (port : Nat) (t : Ns) (b : Block) : Block :=
  let h := portHop port
  let hop := getHop b h
  let mine := Nat.max t (nowNs b + 1000000)
  if hop.folded || !hop.railB || !b.spine.failbackAuto then b
  else
    match hop.failbackOffer with
    | some o => modHop b h fun x => { x with failbackAt := some (Nat.max t o) }
    | none =>
      proposeOn (modHop b h fun x => { x with failbackOffer := some mine, failbackAt := some mine }) port (.failover (some mine))

/-- FAILOVER received: one that names a time is about a failback. -/
def onFailover (port : Nat) (at' : Option Ns) (b : Block) : Block :=
  at'.elim (onFailoverNow port b) fun t => onFailbackTime port t b

/-- SP_FORCE_OTHER: a write of SP_PCTRLp.FORCE_OTHER moves the port's hop to its other rail (R125). -/
def execSpForceOther (pf : Fin 4) (port : Fin 8) (s : State) : Host.Outcome State Fault Refusal :=
  act s fun b => adminWrite b pf.val (0x40040 + 4 * port.val) (fun b => startFailover b (portHop port.val))

/-- Takes every Spine port DOWN: its hops start afresh when they train again (Table 5.13). -/
def spineOff (b : Block) : Block :=
  let b1 := each (upFrom 0 8) (fun p b =>
    linkDown (modPort b p fun r => { r with state := .down, grade := .ungraded, turned := false, dual := false }) p) b
  chooseUpstream { b1 with spine := { b1.spine with hops := [], rings := [] } }

/-- SP_CTRL_WRITE: ENABLE lets enabled ports train or takes every port DOWN; FAILOVER_AUTO, FAILBACK_AUTO and UNFOLD_AUTO
take their bits (Table 5.13). -/
def effSpCtrl (val : W32) (b : Block) : Block :=
  let on := val.getLsbD 0
  let was := b.spine.enable
  let b1 := { b with spine := { b.spine with enable := on, failoverAuto := val.getLsbD 1, failbackAuto := val.getLsbD 2,
                                             unfoldAuto := val.getLsbD 3 } }
  checkUnfolds
    (if on && !was then each (upFrom 0 8) (fun p b => trainIfMay b p) b1
     else if !on && was then spineOff b1
     else b1)

def execSpCtrlWrite (pf : Fin 4) (val : W32) (s : State) : Host.Outcome State Fault Refusal :=
  act s fun b => adminWrite b pf.val 0x40000 (effSpCtrl val)

/-- DUAL_WINDOW_EXPIRY: 20 µs after it opened the window closes; a cell still missing fails the hop on both rails
(R126). -/
def effDualExpiry (h : Nat) (b : Block) : Block :=
  let hop := getHop b h
  match hop.dualUntil with
  | none => b
  | some t =>
    if nowNs b < t then b else closeWindow b h

def execDualWindowExpiry (hop : Fin 4) (s : State) : Host.Outcome State Fault Refusal := act s (effDualExpiry hop.val)

/-- FAILBACK_TIMER: rail A has been GOOD for 10 s as the standby: a failback 1 ms ahead is proposed on it; the hop moves at the
time that both members have agreed (R127). -/
def effFailbackTimer (h : Nat) (b : Block) : Block :=
  let hop := getHop b h
  if b.spine.failbackAuto && hop.railB && !hop.folded && hop.dualUntil.isNone && mayOffer (nowNs b) hop.failbackOffer hop.failbackAt &&
      (getPort b (hopRail h false)).state = .standby && goodFor10 b (hopRail h false) then
    let t := nowNs b + 1000000
    proposeOn (modHop b h fun x => { x with failbackOffer := some t }) (hopRail h false) (.failover (some t))
  else b

def execFailbackTimer (hop : Fin 4) (s : State) : Host.Outcome State Fault Refusal := act s (effFailbackTimer hop.val)

/-- FAILBACK_AT: at the set time the hop moves back to rail A under R125 and R126. -/
def effFailbackAt (h : Nat) (b : Block) : Block :=
  match (getHop b h).failbackAt with
  | none => b
  | some t =>
    if nowNs b < t then b
    else
      let b1 := modHop b h fun x => { x with failbackOffer := none, failbackAt := none }
      if (getHop b h).railB && b.spine.failbackAuto && standbyOk b h then startFailover b1 h else b1

def execFailbackAt (hop : Fin 4) (s : State) : Host.Outcome State Fault Refusal := act s (effFailbackAt hop.val)

end Sys2Proof.Machine
end

