-- ==== Sys2Proof/Machine/Time.lean ====
section
/-!
DEFINITION. Machine/Time.lean: spine time (chapter 6): reading and loading the counter, steering, sync exchanges, timed
launches and the SYNC pins.
-/

namespace Sys2Proof.Machine

/-! ## Launches (R169-R171, R174) -/

/-- A SYNC_OUT pulse of OUT_WIDTH ms; one that falls in another extends its high time (R174). -/
def startPulse (b : Block) : Block :=
  { b with time := { b.time with syncOut := true, syncOutEnd := nowNs b + b.time.ppsOutWidth * 1000000 } }

/-- A transmit stamp is queued (R169). -/
def pushTsq (b : Block) (x : Launch) : Block :=
  if b.time.tsq.length < 16 then
    { b with time := { b.time with tsq := b.time.tsq ++ [{ id := x.id, port := x.port, stamp := nowSub b }] } }
  else raise b .st 1 (aboutAon b)

/-- A TIMED cell leaves with the stamp of its launch. -/
def sendTimed (b : Block) (x : Launch) : Block :=
  let h := portHop x.port
  let b1 := sendOn b h { level := Fin.ofNat 4 (hopRing b h) } (.timed (nowSub b) x.id x.payload)
  let b2 := { b1 with time := { b1.time with lastLaunch := tabPut b1.time.lastLaunch x.port (some (nowNs b)) } }
  if x.stamp then pushTsq b2 x else b2

/-- Whether a port's last timed cell left less than 16 ns before a time. -/
def tooClose (b : Block) (port : Nat) (t : Ns) : Bool :=
  ((tabGet none b.time.lastLaunch port).map fun u => decide (t < u + 16)).getD false

/-- A launch fires: its effect, and its command's completion with the launch time (R171, R177). -/
def fireLaunch (late : Bool) (x : Launch) (b : Block) : Block :=
  let finish' (b : Block) (st : Byte) : Block := completeAt b x.iss 0x0702 st 0 0 x.at'
  let mark (late : Bool) (b : Block) : Block := if late then raise b .st 6 (aboutAon b) else b
  if x.kind = 0 then finish' (mark late (each [0, 1, 2, 3] (pendPf 5 5) b)) stOk
  else if x.kind = 1 then finish' (mark late (if b.time.ppsOutMode = 2 then startPulse b else b)) stOk
  else
    let late := late || tooClose b x.port x.at'
    if (getPort b x.port).state ≠ .active then finish' (mark late b) stRefused else finish' (mark late (sendTimed b x)) stOk

/-- The launch that is due first: the earliest time, then the order of queuing. -/
def nextLaunch (l : List Launch) : Option Launch :=
  foldOver (fun (m : Option Launch) x =>
    match m with
    | none => some x
    | some y => if x.at' < y.at' then some x else some y) none l

/-- Fires what is due; a port's cells stay 16 ns apart. -/
def runLaunches : Nat → Bool → Block → Block
  | 0, _, b => b
  | n + 1, late, b =>
    match nextLaunch (b.time.launches.filter fun x => decide (x.at' ≤ nowNs b) && !(x.kind == 2 && tooClose b x.port (nowNs b))) with
    | none => b
    | some x =>
      runLaunches n late (fireLaunch late x { b with time := { b.time with launches := b.time.launches.erase x } })

def execLaunchFire (s : State) : Host.Outcome State Fault Refusal := act s (runLaunches 1 false)

/-! ## Loads (R157, R158) -/

/-- After a load every scheduled action whose time has passed fires at once, late. -/
def fireOverdue (b : Block) : Block :=
  let ten (t : Nat) (b : Block) : Block :=
    each [0, 1, 2, 3] (fun g b => lateCheck t g b) (releaseIfDue true t (fireIfDue true t b))
  let b1 := each (liveTenants b) ten b
  let b2 := each (upFrom 0 4) (fun h b => effFailbackAt h (effUnfoldAt h b)) b1
  let b3 := each (upFrom 0 24) (fun l b => effWidenAt l (effRetrainSlot l b)) b2
  runLaunches 64 true (effRebindTakeover b3)

/-- A load with what it sets off. -/
def load (b : Block) (t : Nat) (iss : Option Issuer) : Block := fireOverdue (loadTime b t iss)

/-- The boundary load is applied: it waits no longer. -/
def boundaryLoad (b : Block) : Block :=
  load { b with time := { b.time with loadPending := false, loadIss := none } } (stagedTime b) b.time.loadIss

/-- The immediate load is applied. -/
def loadAsked (b : Block) (t : Nat) (iss : Option Issuer) : Block :=
  load { b with time := { b.time with loadNow := none } } t iss

/-- The counter as a number of 2⁻³² ns. -/
def counter (b : Block) : Nat := nowNs b * 2 ^ 32 + b.time.frac.toNat

/-- Sets the counter from 2⁻³² ns; ST_SEC wraps (R154). -/
def putCounter (b : Block) (u : Nat) : Block :=
  { b with time := { b.time with sec := BitVec.ofNat 48 (u / 2 ^ 32 / nsPerSec), nsec := u / 2 ^ 32 % nsPerSec,
                                 frac := BitVec.ofNat 32 (u % 2 ^ 32) } }

/-- What a tick adds, without the slew: ST_INCR, 40 times it in a tick of XTAL_AON (R155). -/
def tickIncr (b : Block) : Nat := b.time.incr.toNat * (if b.time.degraded then 40 else 1)

/-- The slew step of a tick: the remainder spread evenly over the span's ticks, all of it in the last (R160). -/
def slewStep (b : Block) : Int := if b.time.spanLeft ≤ 1 then b.time.adjRem else b.time.adjRem.tdiv b.time.spanLeft

/-- The counter after the next tick. -/
def nextCounter (b : Block) : Nat := ((counter b + tickIncr b : Nat) + slewStep b).toNat

/-- Whether the next tick passes a second boundary. -/
def rollsOver (b : Block) : Bool := decide (nsPerSec * 2 ^ 32 ≤ nextCounter b - b.time.sec.toNat * nsPerSec * 2 ^ 32)

def execStNsecRead (reader : TimeReader) (s : State) : Host.Outcome State Fault Refusal :=
  act s fun b => latchTime b reader

/-- CANCEL withdraws a load that is pending, at the boundary or at the next tick; a TIME_SET that waits for it completes
WITHDRAWN. -/
def cancelLoad (b : Block) : Block :=
  let b1 := completeOpt b b.time.loadIss 0x0701 stWithdrawn
  let b2 := completeOpt b1 (b.time.loadNow.bind (·.2)) 0x0701 stWithdrawn
  { b2 with time := { b2.time with loadPending := false, loadIss := none, loadNow := none } }

/-- ST_CTRL (Table 6.6). -/
def effStCtrl (v : W32) (b : Block) : Block :=
  let b1 := { b with time := { b.time with loadAt := v.getLsbD 1, fwServo := v.getLsbD 3, syncEn := v.getLsbD 4,
                                           stepFollow := v.getLsbD 5 } }
  let b2 := onlyIf (v.getLsbD 2) cancelLoad b1
  if !v.getLsbD 0 then b2
  else if 999999999 < b.time.setNsec.toNat then refuse b2 .st
  else if v.getLsbD 1 then { b2 with time := { b2.time with loadPending := true } }
  else askLoad b2 (stagedTime b2) none

/-- ST_LOAD: a write of ST_CTRL with LOAD set. -/
def execStLoad (pf : Fin 4) (val : W32) (s : State) : Host.Outcome State Fault Refusal :=
  act s fun b => adminWrite b pf.val 0x20000 (effStCtrl (val ||| 1))

/-- ST_CANCEL: a write of ST_CTRL with CANCEL set. -/
def execStCancel (pf : Fin 4) (val : W32) (s : State) : Host.Outcome State Fault Refusal :=
  act s fun b => adminWrite b pf.val 0x20000 (effStCtrl (val ||| 4))

/-- ST_BOUNDARY_LOAD: in the tick that would roll over, the staged value is taken in its place. -/
def effBoundaryLoad (b : Block) : Block := onlyIf (timeRuns b && b.time.loadPending && rollsOver b) boundaryLoad b

def execStBoundaryLoad (s : State) : Host.Outcome State Fault Refusal := act s effBoundaryLoad

/-! ## Rate and phase (R159, R160) -/

/-- ST_INCR_WRITE: ST_INCR_HI with the held low half, or both halves. -/
def effStIncr (width : Nat) (v : W64) (b : Block) : Block :=
  let n := if width = 8 then field v 0 40 else field v 0 8 * 2 ^ 32 + b.time.incrLoHeld.toNat
  fieldIf (within incrLow incrHigh n) .st (fun b => putIncr b n) b

def execStIncrWrite (pf : Fin 4) (width : Nat) (val : W64) (s : State) : Host.Outcome State Fault Refusal :=
  act s fun b => adminWrite b pf.val 0x20030 (effStIncr width val)

def effStAdj (v : W32) (b : Block) : Block :=
  if mayAdd b v.toInt b.time.adjSpan then startSlew b v.toInt b.time.adjSpan none else refuse b .st

def execStAdjWrite (pf : Fin 4) (val : W32) (s : State) : Host.Outcome State Fault Refusal :=
  act s fun b => adminWrite b pf.val 0x20038 (effStAdj val)

/-- The span's last tick adds all that remains, and the TIME_SETs that asked for the slew complete (R176). -/
def slewDone (b : Block) : Block :=
  completeAll (endSlew (putCounter b ((counter b : Int) + b.time.adjRem).toNat)) b.time.slewIss 0x0701 stOk

def execSlewComplete (s : State) : Host.Outcome State Fault Refusal :=
  act s fun b => if b.time.spanLeft = 1 then slewDone b else b

/-! ## Exchanges (R163-R167) -/

/-- A time-class cell leaves on a hop. -/
def sendTimeCell (b : Block) (h : Nat) (body : CellBody) : Block :=
  sendOn b h { level := Fin.ofNat 4 (hopRing b h) } body

/-- SYNC as this GLT sends it. -/
def syncBody (b : Block) : SyncBody :=
  let t := b.time
  { t1 := nowSub b, state := Fin.ofNat 5 (timeStateCode t.state), upHoldover := t.upHoldover || decide (t.state = .holdover),
    ext := t.ext, stepCount := t.stepCount, root := t.rootPlace, depth := t.depth }

/-- SYNC_INTERVAL: SYNC on every active port whose neighbour takes time from here; four intervals without a SYNC lead to
HOLDOVER. -/
def effSyncInterval (b : Block) : Block :=
  let send (h : Nat) (b : Block) : Block := if hopUsable b h && takesFromUs b h then sendTimeCell b h (.sync (syncBody b)) else b
  let b1 := if b.time.syncEn then each (upFrom 0 4) send b else b
  let missed := if b.time.syncSeen then 0 else b.time.missedSync + 1
  let b2 := { b1 with time := { b1.time with syncSeen := false, missedSync := missed } }
  if decide (b.time.state = .locked) && decide (4 ≤ missed) then
    raise { b2 with time := { b2.time with state := .holdover, holdoverAt := nowNs b, exchange := none } } .st 3 (aboutAon b2)
  else b2

def execSyncInterval (s : State) : Host.Outcome State Fault Refusal := act s effSyncInterval

/-- SYNC from the upstream: the state moves and DELAY_REQ answers. -/
def onSync (port : Nat) (x : SyncBody) (t2 : Nat) (b : Block) : Block :=
  let t := b.time
  if !t.syncEn || !t.upValid || decide (t.upPort ≠ port) then b
  else
    let back := decide (t.state = .freeRun) || decide (t.state = .holdover)
    let st := if back || decide (t.state = .root) then TimeState.acquiring else t.state
    let t1 := { t with syncSeen := true, missedSync := 0, upHoldover := x.upHoldover, ext := x.ext, depth := x.depth + 1,
                       rootPlace := x.root, state := st, resync := t.resync || back, goodRun := if back then 0 else t.goodRun,
                       followDue := t.followDue || (t.stepFollow && x.stepCount != t.upStep), upStep := x.stepCount,
                       exchange := some { reqId := t.reqId, t1 := x.t1, t2 := t2, t3 := nowSub b }, reqId := t.reqId + 1 }
    sendTimeCell { b with time := t1 } (portHop port) (.delayReq (nowSub b) t.reqId)

/-- DELAY_REQ from a GLT that takes time from here. -/
def onDelayReq (port : Nat) (reqId : W16) (t4 : Nat) (b : Block) : Block :=
  if b.time.syncEn then sendTimeCell b (portHop port) (.delayResp t4 reqId) else b

/-- The state machine of Table 6.2 after an exchange; 10 ns and 25 ns in 2⁻¹⁶ ns. -/
def judgeOffset (t : SpineTime) (offset : Int) : SpineTime :=
  match t.state with
  | .acquiring =>
    if offset.natAbs ≤ 655360 then
      if 16 ≤ t.goodRun + 1 then { t with state := .locked, goodRun := 0, badRun := 0, resync := false }
      else { t with goodRun := t.goodRun + 1 }
    else { t with goodRun := 0 }
  | .locked =>
    if 1638400 < offset.natAbs then
      if 4 ≤ t.badRun + 1 then { t with state := .acquiring, goodRun := 0, badRun := 0 } else { t with badRun := t.badRun + 1 }
    else { t with badRun := 0 }
  | .freeRun | .holdover | .root => t

/-- A complete exchange: delay and offset, the signalled step or the servo (R163-R166). -/
def exchanged (b : Block) (e : Exchange) (t4 : Nat) : Block :=
  let out : Int := (e.t2 : Int) - e.t1
  let home : Int := (t4 : Int) - e.t3
  let delay := (out + home) / 2
  let offset := (out - home) / 2 - tabGet 0 b.time.asym b.time.upPort
  let t := { b.time with offset := offset, pdelay := BitVec.ofInt 32 delay, exch := b.time.exch + 1 }
  if b.time.followDue then
    let b1 := load { b with time := { t with followDue := false } } ((nowSub b : Int) - offset).toNat none
    { b1 with time := { b1.time with stepCount := t.upStep } }
  else
    let b1 := { b with time := judgeOffset t offset }
    let b2 := if t.resync && decide (t.stepLimitNs * 65536 < offset.natAbs) then raise b1 .st 5 (aboutAon b1) else b1
    servo b2 offset

/-- DELAY_RESP completes the exchange it echoes. -/
def onDelayResp (port : Nat) (t4 : Nat) (reqId : W16) (b : Block) : Block :=
  match b.time.exchange with
  | none => b
  | some e =>
    if !b.time.syncEn || e.reqId ≠ reqId || !b.time.upValid || decide (b.time.upPort ≠ port) then b
    else
      let b1 := { b with time := { b.time with exchange := none } }
      if b.time.discard ≠ 0 then { b1 with time := { b1.time with discard := b.time.discard - 1 } } else exchanged b1 e t4

/-- HOLDOVER_LIMIT. -/
def effHoldoverLimit (b : Block) : Block :=
  if decide (b.time.state = .holdover) && decide (b.time.holdoverAt + b.time.holdoverLimitS * nsPerSec ≤ nowNs b) then
    raise { b with time := { b.time with state := .freeRun } } .st 4 (aboutAon b)
  else b

def execHoldoverLimit (s : State) : Host.Outcome State Fault Refusal := act s effHoldoverLimit

/-! ## TIMED and the queues (R169, R170) -/

def onTimed (launch : Nat) (id : W16) (payload : BitVec 96) (arrival : Nat) (b : Block) : Block :=
  if b.time.rxq.length < 16 then
    each [0, 1, 2, 3] (pendPf 5 5)
      { b with time := { b.time with rxq := b.time.rxq ++ [{ id := id, payload := payload, launch := launch, arrival := arrival }] } }
  else raise b .st 2 (aboutAon b)

def execStTsqPop (pf : Fin 4) (s : State) : Host.Outcome State Fault Refusal :=
  act s fun b => adminWrite b pf.val 0x200D0 fun b => { b with time := { b.time with tsq := b.time.tsq.drop 1 } }

def execStRxqPop (pf : Fin 4) (s : State) : Host.Outcome State Fault Refusal :=
  act s fun b => adminWrite b pf.val 0x20120 fun b => { b with time := { b.time with rxq := b.time.rxq.drop 1 } }

/-! ## TIME_SET and TIME_LAUNCH (R176, R177) -/

/-- TIME_SET. -/
def effTimeSet (iss : Issuer) (p : TimeSetP) (b : Block) : Block :=
  let done := complete b iss 0x0701
  let slew := decide (p.action = 2)
  if !isAdmin b iss then done stNotAuthorised
  else if p.rsv || decide (p.action.toNat > 2) then done stBadParam
  else if b.time.state ≠ .root then done stRefused
  else if !slew && (!(liveTenants b).isEmpty || b.time.loadPending) then done stRefused
  else if nsPerSec ≤ p.nsec then done stBadParam
  else if slew then
    if mayAdd b p.adj p.span then startSlew b p.adj p.span (some iss) else done stBadParam
  else
    let b1 := { b with time := { b.time with setSec := BitVec.ofNat 48 p.sec, setNsec := BitVec.ofNat 30 p.nsec, setSub := p.sub } }
    if p.action = 0 then askLoad b1 (stagedTime b1) (some iss)
    else { b1 with time := { b1.time with loadPending := true, loadIss := some iss } }

def execTimeSet (iss : Issuer) (p : TimeSetP) (s : State) : Host.Outcome State Fault Refusal := act s (effTimeSet iss p)

/-- A cancel withdraws the earliest queued launch of its ID and PF. -/
def cancelLaunch (b : Block) (iss : Issuer) (id : W16) : Block :=
  match b.time.launches.find? fun x => x.id == id && x.iss.pf == iss.pf with
  | none => complete b iss 0x0702 stBadParam
  | some x =>
    let b1 := { b with time := { b.time with launches := b.time.launches.erase x } }
    complete (completeAt b1 x.iss 0x0702 stWithdrawn 0 0 x.at') iss 0x0702 stOk

/-- TIME_LAUNCH. -/
def effTimeLaunch (iss : Issuer) (p : TimeLaunchP) (b : Block) : Block :=
  let done := complete b iss 0x0702
  let t := secNs p.sec p.nsec
  if !isAdmin b iss then done stNotAuthorised
  else if p.rsv || decide (p.action.toNat > 1) then done stBadParam
  else if p.action = 1 then cancelLaunch b iss p.id
  else if decide (p.kind.toNat > 2) || !timeOk p.nsec p.sec then done stBadParam
  else if t < nowNs b + 1000 then done stRefused
  else if 64 ≤ b.time.launches.length then done stNoResource
  else
    let x : Launch := { iss := iss, kind := p.kind, port := p.port.val, stamp := p.stamp, id := p.id, at' := t,
                        payload := p.payload }
    { b with time := { b.time with launches := b.time.launches ++ [x] } }

def execTimeLaunch (iss : Issuer) (p : TimeLaunchP) (s : State) : Host.Outcome State Fault Refusal :=
  act s (effTimeLaunch iss p)

/-! ## SYNC_IN and SYNC_OUT (R173, R174) -/

/-- The distance of a stamp from the nearest second boundary. -/
def fromSecond (stamp : Nat) : Int :=
  let s := nsPerSec * 65536
  let r := stamp % s
  if 2 * r ≤ s then r else (r : Int) - s

/-- SYNC_IN_EDGE. -/
def effSyncIn (stamp : Nat) (b : Block) : Block :=
  let t := b.time
  let apart := stamp - t.ppsIn
  if !t.ppsInEn then b
  else if t.ppsAny && (decide (apart < 900000000 * 65536) || decide (1100000000 * 65536 < apart)) then raise b .st 9 (aboutAon b)
  else
    let b1 := { b with time := { t with ppsIn := stamp, ppsAny := true, ppsSince := stamp } }
    if decide (t.state = .root) && t.ppsDiscipline then
      servo { b1 with time := { b1.time with ext := true } } (fromSecond stamp)
    else b1

def execSyncInEdge (stamp : Nat) (s : State) : Host.Outcome State Fault Refusal := act s (effSyncIn stamp)

/-- PPS_MISS: 2 s without an accepted edge at the root, which expects edges or was disciplined by them; another GLT only stamps
them. -/
def effPpsMiss (b : Block) : Block :=
  let t := b.time
  let missed := decide (t.ppsSince + 2 * nsPerSec * 65536 ≤ nowSub b)
  onlyIf (decide (t.state = .root) && (t.ppsInEn || t.ext) && missed)
    (fun b => raise { b with time := { b.time with ext := false } } .st 8 (aboutAon b)) b

def execPpsMiss (s : State) : Host.Outcome State Fault Refusal := act s effPpsMiss

/-- How far the counter has gone beyond the last second boundary plus ST_PPS_OFFSET, in 2⁻³² ns. -/
def sincePulse (u : Nat) (offset : Int) : Int := ((u : Int) - offset * 2 ^ 32) % (nsPerSec * 2 ^ 32 : Nat)

/-- SYNC_OUT_PULSE: OUT_MODE 1 at its moment, the tick that passes a second boundary plus ST_PPS_OFFSET; mode 0 keeps the pin low,
mode 2 pulses at launches only. -/
def execSyncOutPulse (s : State) : Host.Outcome State Fault Refusal :=
  act s fun b => onlyIf (decide (b.time.ppsOutMode = 1) && decide (sincePulse (counter b) b.time.ppsOffset < tickIncr b)) startPulse b

def execSyncOutPulseEnd (s : State) : Host.Outcome State Fault Refusal :=
  act s fun b => if b.time.syncOut && decide (b.time.syncOutEnd ≤ nowNs b) then
    { b with time := { b.time with syncOut := false } } else b

end Sys2Proof.Machine
end

