-- ==== Sys2Proof/Machine/Cells.lean ====
section
/-!
DEFINITION. Machine/Cells.lean: how a control cell is received: the SEQ of its hop (R126), turned cells at a gap (R120), and
the handler of its type (Table 5.3).
-/

namespace Sys2Proof.Machine

/-- The handler of a cell's type.  `stamp` is the PHY's stamp of the arrival in units of 2⁻¹⁶ ns; for a SELFTEST cell it is
the error ratio that the receiver measured. -/
def onCell (port : Nat) (hdr : CellHdr) (body : CellBody) (stamp : Nat) (b : Block) : Block :=
  match body with
  | .sync x => onSync port x stamp b
  | .delayReq _ reqId => onDelayReq port reqId stamp b
  | .delayResp t4 reqId => onDelayResp port t4 reqId b
  | .timed launch id payload => onTimed launch id payload stamp b
  | .hold x => onHold port hdr x b
  | .release x => onRelease port hdr x b
  | .mark x => onMark port x b
  | .cancel x => onCancel port hdr x b
  | .fold gap => onFold port hdr gap b
  | .unfold at' gap => onUnfold port hdr at' gap b
  | .census map epoch => recheckExpress (onCensus port hdr map epoch b)
  | .failover at' => onFailover port at' b
  | .selftest => onSelftest port stamp b
  | .vote x => onVote port hdr x b
  | .sewn x => onSewnCell port hdr x b
  | .barrier x => onBarrier port hdr x b
  | .reduce x => onReduce port hdr x b
  | .reduceX x => onReduceX port hdr x b
  | .report x => onReport x b
  | .summary x => onSummary x b
  | .probe x => onProbe x b
  | .probeAck x => onProbeAck x b
  | .suspect x => onSuspect port hdr x b
  | .restored t status p => onRestored t.val status p b

/-- Whether turned traffic ends here: the hop ahead is the gap, or was it when the traffic set out and the ring has closed since
(R120, R122). -/
def turnEnds (b : Block) (port : Nat) : Bool :=
  let far := getHop b (turnHop (portHop port))
  far.folded || (far.lateTurned && !(getRing b (portRing b port)).folded)

/-- A turned cell passes on without processing; the member beside the gap clears TURNED and takes the cell as though it had
crossed the gap (R120).  A sync cell is never forwarded (R163). -/
def takeTurned (port : Nat) (hdr : CellHdr) (body : CellBody) (stamp : Nat) (b : Block) : Block :=
  let far := turnHop (portHop port)
  if !hdr.turned then onCell port hdr body stamp b
  else if hopLocal body then b
  else if turnEnds b port then onCell (hopPort b far) { hdr with turned := false } body stamp b
  else sendOn b far hdr body

/-- Cells that act on a rail or across a gap take no SEQ of the hop (DEDUCED: they travel on a rail that carries no other
control cell). -/
def hasSeq (hdr : CellHdr) (body : CellBody) : Bool :=
  match body with
  | .failover _ | .selftest => false
  | .unfold _ _ => hdr.lap2
  | .sync _ | .delayReq _ _ | .delayResp _ _ | .timed _ _ _ | .hold _ | .release _ | .mark _ | .cancel _ | .fold _
  | .census _ _ | .vote _ | .sewn _ | .barrier _ | .reduce _ | .reduceX _ | .report _ | .summary _ | .probe _
  | .probeAck _ | .suspect _ | .restored _ _ _ => true

/-- A later copy of a SEQ is dropped and counted (R126). -/
def dupCell (b : Block) (port : Nat) : Block :=
  count { b with spine := { b.spine with dupCount := b.spine.dupCount + 1 } } (portCounter port 11) 1

/-- How far a SEQ lies beyond the last one accepted, modulo 65,536. -/
def seqAhead (hop : Hop) (seq : W16) : Nat := (seq - hop.seqRx).toNat

/-- Accepts a cell: its SEQ is the last one of the hop, and its handler runs. -/
def acceptCell (port : Nat) (hdr : CellHdr) (body : CellBody) (stamp : Nat) (b : Block) : Block :=
  takeTurned port hdr body stamp (modHop b (portHop port) fun x => { x with seqRx := hdr.seq, rxAny := true })

/-- Accepts the cells that waited and now follow, in order of SEQ. -/
def drainCells : Nat → Nat → Block → Block
  | 0, _, b => b
  | n + 1, h, b =>
    let hop := getHop b h
    match hop.waiting.find? fun w => decide (seqAhead hop w.hdr.seq = 1) with
    | none => b
    | some w =>
      let b1 := modHop b h fun x => { x with waiting := x.waiting.filter fun y => y.hdr.seq != w.hdr.seq }
      drainCells n h (acceptCell w.port w.hdr w.body w.stamp b1)

/-- A control cell is received (R126): the first copy of each SEQ is accepted in order; a cell more than one ahead waits. -/
def receiveCell (port : Nat) (hdr : CellHdr) (body : CellBody) (stamp : Nat) (b : Block) : Block :=
  let h := portHop port
  let hop := getHop b h
  let d := seqAhead hop hdr.seq
  if !hasSeq hdr body then onCell port hdr body stamp b
  else if !hop.rxAny || d = 1 then drainCells hop.waiting.length h (acceptCell port hdr body stamp b)
  else if d = 0 || decide (32768 ≤ d) || hop.waiting.any fun w => w.hdr.seq == hdr.seq then dupCell b port
  else setHop b h { hop with waiting := hop.waiting ++ [{ port := port, hdr := hdr, body := body, stamp := stamp }] }

/-- CENSUS (R121, R123). -/
def execCensus (port : Fin 8) (hdr : CellHdr) (map : BitVec 64) (epoch : W16) (s : State) :
    Host.Outcome State Fault Refusal := act s (receiveCell port.val hdr (.census map epoch) 0)

/-- FOLD (R120). -/
def execFold (port : Fin 8) (c : GapCell) (s : State) :
    Host.Outcome State Fault Refusal := act s (receiveCell port.val c.hdr (.fold c.gap.val) 0)

/-- UNFOLD (R122). -/
def execUnfold (port : Fin 8) (c : GapCell) (at' : Ns) (s : State) :
    Host.Outcome State Fault Refusal := act s (receiveCell port.val c.hdr (.unfold at' c.gap.val) 0)

/-- FAILOVER (R125). -/
def execFailover (port : Fin 8) (c : FailoverCell) (s : State) :
    Host.Outcome State Fault Refusal := act s (receiveCell port.val c.hdr (.failover c.at') 0)

/-- SELFTEST: the receiver measures the pre-FEC error ratio (R124). -/
def execSelftest (port : Fin 8) (hdr : CellHdr) (berE12 : Nat) (s : State) :
    Host.Outcome State Fault Refusal := act s (receiveCell port.val hdr (.selftest) berE12)

/-- REDUCE (R116, R129-R134). -/
def execReduce (port : Fin 8) (hdr : CellHdr) (b : RedBody) (s : State) :
    Host.Outcome State Fault Refusal := act s (receiveCell port.val hdr (.reduce b) 0)

/-- REDUCE_X (R131, R132). -/
def execReduceX (port : Fin 8) (hdr : CellHdr) (b : RedBody) (s : State) :
    Host.Outcome State Fault Refusal := act s (receiveCell port.val hdr (.reduceX b) 0)

/-- BARRIER (R136-R139). -/
def execBarrier (port : Fin 8) (hdr : CellHdr) (b : BarBody) (s : State) :
    Host.Outcome State Fault Refusal := act s (receiveCell port.val hdr (.barrier b) 0)

/-- VOTE (R140-R142). -/
def execVote (port : Fin 8) (hdr : CellHdr) (b : VoteBody) (s : State) :
    Host.Outcome State Fault Refusal := act s (receiveCell port.val hdr (.vote b) 0)

/-- SEWN (R16, R143). -/
def execSewn (port : Fin 8) (hdr : CellHdr) (b : VoteBody) (s : State) :
    Host.Outcome State Fault Refusal := act s (receiveCell port.val hdr (.sewn b) 0)

/-- SYNC; the PHY stamps its arrival t2 (R163, R168). -/
def execSync (port : Fin 8) (hdr : CellHdr) (b : SyncBody) (t2 : Nat) (s : State) :
    Host.Outcome State Fault Refusal := act s (receiveCell port.val hdr (.sync b) t2)

/-- DELAY_REQ; the PHY stamps its arrival t4 (R163, R168). -/
def execDelayReq (port : Fin 8) (hdr : CellHdr) (t3 : Nat) (reqId : W16) (t4 : Nat) (s : State) :
    Host.Outcome State Fault Refusal := act s (receiveCell port.val hdr (.delayReq t3 reqId) t4)

/-- DELAY_RESP (R163). -/
def execDelayResp (port : Fin 8) (hdr : CellHdr) (t4 : Nat) (reqId : W16) (s : State) :
    Host.Outcome State Fault Refusal := act s (receiveCell port.val hdr (.delayResp t4 reqId) 0)

/-- TIMED; the PHY stamps its arrival (R168, R170). -/
def execTimed (port : Fin 8) (hdr : CellHdr) (launch : Nat) (id : W16) (payload : BitVec 96) (arrival : Nat) (s : State) :
    Host.Outcome State Fault Refusal := act s (receiveCell port.val hdr (.timed launch id payload) arrival)

/-- HOLD (R257-R260). -/
def execHold (port : Fin 8) (hdr : CellHdr) (b : HoldBody) (s : State) :
    Host.Outcome State Fault Refusal := act s (receiveCell port.val hdr (.hold b) 0)

/-- MARK (R261, R262). -/
def execMark (port : Fin 8) (hdr : CellHdr) (b : HoldBody) (s : State) :
    Host.Outcome State Fault Refusal := act s (receiveCell port.val hdr (.mark b) 0)

/-- RELEASE (R267). -/
def execRelease (port : Fin 8) (hdr : CellHdr) (b : HoldBody) (s : State) :
    Host.Outcome State Fault Refusal := act s (receiveCell port.val hdr (.release b) 0)

/-- CANCEL (R268). -/
def execCancel (port : Fin 8) (hdr : CellHdr) (b : HoldBody) (s : State) :
    Host.Outcome State Fault Refusal := act s (receiveCell port.val hdr (.cancel b) 0)

/-- REPORT (R286-R288). -/
def execReportCell (port : Fin 8) (hdr : CellHdr) (b : RepBody) (s : State) :
    Host.Outcome State Fault Refusal := act s (receiveCell port.val hdr (.report b) 0)

/-- SUMMARY (R287). -/
def execSummary (port : Fin 8) (hdr : CellHdr) (b : RepBody) (s : State) :
    Host.Outcome State Fault Refusal := act s (receiveCell port.val hdr (.summary b) 0)

/-- PROBE (R289). -/
def execProbe (port : Fin 8) (hdr : CellHdr) (b : ProbeBody) (s : State) :
    Host.Outcome State Fault Refusal := act s (receiveCell port.val hdr (.probe b) 0)

/-- PROBE_ACK (R289). -/
def execProbeAck (port : Fin 8) (hdr : CellHdr) (b : ProbeBody) (s : State) :
    Host.Outcome State Fault Refusal := act s (receiveCell port.val hdr (.probeAck b) 0)

/-- SUSPECT (R292, R294). -/
def execSuspect (port : Fin 8) (hdr : CellHdr) (b : SuspectBody) (s : State) :
    Host.Outcome State Fault Refusal := act s (receiveCell port.val hdr (.suspect b) 0)

/-- RESTORED (R295). -/
def execRestored (port : Fin 8) (hdr : CellHdr) (tenant : Fin 1024) (status : Byte) (participant : Place) (s : State) :
    Host.Outcome State Fault Refusal := act s (receiveCell port.val hdr (.restored tenant status participant) 0)

end Sys2Proof.Machine
end

