-- ==== Sys2Proof/Machine/Clocks.lean ====
section
/-!
DEFINITION. Machine/Clocks.lean: DDR5 binding memory and the clock tree (R323-R332).  PLLs are numbered as in Table 12.8.
-/

namespace Sys2Proof.Machine

/-! ## DDR5 (R323, R324) -/

/-- The temperatures of a channel's DIMMs among those read: one DIMM per channel, or two. -/
def chTemps (b : Block) (temps : List Int) (c : Nat) : List Int :=
  if b.ck.twoDimms then (temps.drop (2 * c)).take 2 else (temps.drop c).take 1

/-- The highest of some temperatures. -/
def hottest (old : Int) : List Int → Int
  | [] => old
  | x :: l => foldOver max x l

/-- DDR_TEMP_POLL: a DIMM that has moved by DDR_TEMP_DELTA makes its channel due. -/
def pollCh (temps : List Int) (c : Nat) (b : Block) : Block :=
  let l := chTemps b temps c
  modDdr b c fun x =>
    let moved := l.any fun t => decide ((b.ck.tempDelta : Int) ≤ (t - x.tempTrained).natAbs)
    { x with tempNow := hottest x.tempNow l, pending := x.pending || (moved && x.trained && b.ck.autoRetrain) }

def execDdrTempPoll (temps : List Int) (s : State) : Host.Outcome State Fault Refusal :=
  act s (each (upFrom 0 8) (pollCh temps))

/-- Training finds the rate and whether two DIMMs stand on a channel: what is fitted, which R323 leaves to the integrator. -/
def fitDdr (b : Block) : Block :=
  let f := Config.ddrFit % 5
  { b with ck := { b.ck with twoDimms := decide (3 ≤ f), ddrRate := BitVec.ofNat 3 (if 3 ≤ f then f - 2 else f + 1) } }

/-- DDR_CHANNEL_RETRAIN: one channel at a time, 10 ms apart; a failure leaves the settings and is tried again.  How long the
channel pauses, up to 1.5 ms, is open. -/
def effDdrRetrain (c : Nat) (ok : Bool) (b : Block) : Block :=
  let x := getDdr b c
  let early := x.trained && decide (b.ck.lastRetrain ≠ 0) && decide (nowNs b < b.ck.lastRetrain + 10000000)
  if !x.pending || early || (getDom b 18).inReset || (getPll b 3).stopped then b
  else
    let b1 := { b with ck := { b.ck with lastRetrain := nowNs b } }
    if !ok then
      raise (modDdr b1 c fun x => { x with pending := false, failedAt := some (nowNs b) }) .ck 8 (aboutDdr b1 c)
    else
      let b2 := fitDdr (modDdr b1 c fun x => { x with pending := false, failedAt := none, trained := true, tempTrained := x.tempNow })
      if x.trained then
        let b3 := count (count (takeFree b2) (ddrCounter c 4) 1) (ddrCounter c 5) (freeVal b2 % 1500001)
        raise b3 .ck 7 (aboutDdr b3 c)
      else b2

def execDdrChannelRetrain (ch : Fin 8) (ok : Bool) (s : State) : Host.Outcome State Fault Refusal :=
  act s (effDdrRetrain ch.val ok)

/-- DDR_RETRAIN_RETRY: 1 s after a failure. -/
def effDdrRetry (c : Nat) (b : Block) : Block :=
  match (getDdr b c).failedAt with
  | none => b
  | some t => if t + nsPerSec ≤ nowNs b then modDdr b c fun x => { x with failedAt := none, pending := true } else b

def execDdrRetrainRetry (ch : Fin 8) (s : State) : Host.Outcome State Fault Refusal := act s (effDdrRetry ch.val)

/-- RETRAIN_NOW: one pass over every channel. -/
def execRetrainNow (pf : Fin 4) (s : State) : Host.Outcome State Fault Refusal :=
  act s fun b => adminWrite b pf.val 0x31000 (each (upFrom 0 8) fun c b => modDdr b c fun x => { x with pending := true })

/-- The page of an extent that holds an address is lost (R203). -/
def losePage (addr : Nat) (e : Extent) : Extent :=
  if e.offset ≤ addr ∧ addr < e.offset + e.length then
    { e with badPages := withEntry e.badPages ((addr - e.offset) / 65536) } else e

/-- DDR_UE: counted; the data is lost, and the domain is reset while a failed retrain stands (R323, R324).  Which channel
holds an address is open. -/
def effDdrUe (addr : Nat) (b : Block) : Block :=
  let c := freeVal b % 8
  let b1 := takeFree b
  let b2 := { b1 with ck := { b1.ck with ue := b1.ck.ue + 1 }, bd := { b1.bd with extents := b1.bd.extents.map (losePage addr) } }
  let b3 := count b2 (ddrCounter c 3) 1
  let b4 := raise (raise b3 .ck 9 (aboutDdr b3 c)) .ddrUe 0 (aboutDdr b3 c)
  if (upFrom 0 8).any fun c => (getDdr b c).failedAt.isSome then assertDom b4 18 else b4

def execDdrUe (addr : Nat) (s : State) : Host.Outcome State Fault Refusal := act s (effDdrUe addr)

/-! ## PLLs (R325-R329) -/

/-- What stops with a PLL's clocks (Table 12.8, R327, R328); `busy` are the channels whose command bus was busy. -/
def stopClocks (b : Block) (p : Nat) (busy : BitVec 8) : Block :=
  let failed (l : Nat) (b : Block) : Block :=
    match (getLink b l).state with
    | .up | .retuning | .changing => linkFailure b l
    | .down | .training | .failed => b
  if p = 0 then voidAll b (fun _ => true) .clockCpll
  else if p = 2 then { b with time := { b.time with degraded := true } }
  else if p = 3 then
    let b1 := each (upFrom 0 8) (fun c b => modDdr b c fun x => { x with selfRefresh := !busy.getLsbD c }) b
    if busy = 0 then b1 else assertDom b1 18
  else if 4 ≤ p && p ≤ 9 then each (upFrom (4 * (p - 4)) 4) failed b
  else if p = 10 then each [0, 1, 2, 3] (hostLost 1) b
  else if p = 11 then each [0, 1, 2, 3] (fun d b => storageLost d true d b) b
  else b

/-- A PLL loses its lock, or leaves it for another reference: its clocks stop and it tries to lock (R327, R329). -/
def unlock (b : Block) (p : Nat) (busy : BitVec 8) : Block :=
  stopClocks (modPll b p fun x => { x with state := .relocking, stopped := true, lostAt := nowNs b }) p busy

def aboutPll (b : Block) (p : Nat) : About := { place := ownPlace b, domain := 0, source := p }

/-- A loss of lock (R327). -/
def loseLock (b : Block) (p : Nat) (busy : BitVec 8) : Block :=
  match (getPll b p).state with
  | .ready =>
    let b1 := modPll b p fun x => { x with losses := min 65535 (x.losses + 1) }
    unlock (raise b1 .ck 1 (aboutPll b1 p)) p busy
  | .off | .locking | .relocking | .failed => b

def execLockLoss (pll : Fin 12) (busyChannels : BitVec 8) (s : State) : Host.Outcome State Fault Refusal :=
  act s fun b => loseLock b pll.val busyChannels

/-- REF_ABSENT: every PLL on the reference loses lock. -/
def effRefAbsent (r : Nat) (b : Block) : Block :=
  let b1 := modRef b r fun x => { x with present := false, ready := false, cleanWindows := 0 }
  let b2 := raise b1 .ck 6 { aboutAon b1 with source := r }
  let on (p : Nat) : Bool := decide (r < 2) && (getPll b p).srcB == (r == 1)
  each ((upFrom 0 12).filter on) (fun p b => loseLock b p 0) b2

def execRefAbsent (ref : Fin 3) (s : State) : Host.Outcome State Fault Refusal := act s (effRefAbsent ref.val)

/-- REFERENCE_PRESENT: edges are back; READY follows after a clean window. -/
def execReferencePresent (ref : Fin 3) (s : State) : Host.Outcome State Fault Refusal :=
  act s fun b => modRef b ref.val fun x => if x.present then x else { x with present := true, fresh := true }

/-- A reference, 0 A or 1 B, is READY. -/
def refReady (b : Block) (srcB : Bool) : Bool := (getRef b (bit srcB)).ready

/-- PLL_READY: the clocks restart. -/
def effPllReady (p : Nat) (b : Block) : Block :=
  let x := getPll b p
  let start (b : Block) : Block :=
    let b1 := setPll b p { x with state := .ready, stopped := false }
    if p = 1 then runTasks b1
    else if p = 2 then { b1 with time := { b1.time with degraded := false } }
    else if p = 3 then each (upFrom 0 8) (fun c b => modDdr b c fun x => { x with selfRefresh := false }) b1
    else b1
  match x.state with
  | .off | .locking | .relocking => if (getRef b (bit x.srcB)).present then start b else b
  | .ready | .failed => b

def execPllReady (pll : Fin 12) (s : State) : Host.Outcome State Fault Refusal := act s (effPllReady pll.val)

/-- A PLL takes its other reference: TPLL hitlessly between two READY ones (R329). -/
def switchPll (b : Block) (p : Nat) : Block :=
  let x := getPll b p
  let b1 := setPll b p { x with srcB := !x.srcB }
  if p = 2 && decide (x.state = .ready) && refReady b x.srcB then b1
  else
    match x.state with
    | .off => b1
    | .locking | .ready | .relocking | .failed => unlock b1 p 0

/-- PLL_FAILED: not relocked within 100 µs; the AON domain moves MPLL itself. -/
def effPllFailed (p : Nat) (b : Block) : Block :=
  let x := getPll b p
  match x.state with
  | .relocking =>
    if nowNs b < x.lostAt + 100000 then b
    else
      let b1 := setPll b p { x with state := .failed }
      let b2 := raise b1 .ck 2 (aboutPll b1 p)
      if p = 1 && b.ck.mpllAuto && refReady b (!x.srcB) then switchPll b2 1 else b2
  | .off | .locking | .ready | .failed => b

def execPllFailed (pll : Fin 12) (s : State) : Host.Outcome State Fault Refusal := act s (effPllFailed pll.val)

/-- CK_PLLp (Table 12.14). -/
def effCkPll (p : Nat) (v : W32) (b : Block) : Block :=
  let move := v.getLsbD 0 != (getPll b p).srcB
  let b1 := if !move then b else if refReady b (v.getLsbD 0) then switchPll b p else refuse b .ck
  if v.getLsbD 4 && decide ((getPll b1 p).state = .failed) then
    modPll b1 p fun x => { x with state := .relocking, lostAt := nowNs b } else b1

def execCkPllWrite (pf : Fin 4) (pll : Fin 12) (val : W32) (s : State) : Host.Outcome State Fault Refusal :=
  act s fun b => adminWrite b pf.val (0x30100 + 4 * pll.val) (effCkPll pll.val val)

/-! ## Drift (R330, R331) -/

/-- A reference's flags after a window: `bad` is the verdict on it, `clean` that it is within D of both others. -/
def judgeRef (bad clean : Bool) (x : RefClk) : RefClk :=
  let n := if clean then x.cleanWindows + 1 else 0
  let drift := if bad then true else x.drift && decide (n < 16)
  { x with drift := drift, cleanWindows := if bad then 0 else n, ready := x.present && !x.fresh && !drift, fresh := false }

/-- DRIFT_WINDOW: Table 12.9. -/
def effDrift (dAB dAS dBS : Int) (b : Block) : Block :=
  let root := decide (b.time.state = .root)
  let b0 := modRef b 2 fun x => { x with third := root }
  if !b.ck.driftEn then each [0, 1, 2] (fun r b => modRef b r fun x => { x with ready := x.present && !x.fresh && !x.drift, fresh := false }) b0
  else
    let out (d : Int) : Bool := decide ((10 * b.ck.driftPpm : Int) < d.natAbs)
    let ab := out dAB
    let as := out dAS
    let bs := out dBS
    let aBad := ab && as && !bs
    let bBad := ab && bs && !as
    let third := as && bs && !ab
    let unclear := (ab || as || bs) && !aBad && !bBad && !third
    let b1 := { b0 with ck := { b0.ck with dAB := dAB, dAS := dAS, dBS := dBS } }
    let b2 := modRef (modRef b1 0 (judgeRef aBad (!ab && !as))) 1 (judgeRef bBad (!ab && !bs))
    let b3 := modRef b2 2 fun x => { x with ready := x.present && !x.fresh, fresh := false }
    let flag (c : Bool) (bitNo r : Nat) (b : Block) : Block := if c then raise b .ck bitNo { aboutAon b with source := r } else b
    let both := (getRef b3 0).drift && (getRef b3 1).drift
    flag third 5 2 (flag (unclear || both) 4 0 (flag bBad 3 1 (flag aBad 3 0 b3)))

def execDriftWindow (dAB dAS dBS : Int) (s : State) : Host.Outcome State Fault Refusal := act s (effDrift dAB dAS dBS)

/-- DRIFT_MOVE: firmware moves a PLL off a flagged reference to the other one, TPLL first (R331). -/
def effDriftMove (p : Nat) (b : Block) : Block :=
  let flagged (p : Nat) : Bool := (getRef b (bit (getPll b p).srcB)).drift
  let out (d : Int) : Bool := decide ((10 * b.ck.driftPpm : Int) < d.natAbs)
  let outs := bit (out b.ck.dAB) + bit (out b.ck.dAS) + bit (out b.ck.dBS)
  if fwRuns b && decide (outs = 0 ∨ outs = 2) && flagged p && refReady b (!(getPll b p).srcB) && (p == 2 || !flagged 2) then switchPll b p else b

def execDriftMove (pll : Fin 12) (s : State) : Host.Outcome State Fault Refusal := act s (effDriftMove pll.val)

/-! ## Spread and frequency (R332) -/

/-- CK_SSCi: DEPTH and FREQ are writable only while EN is 0. -/
def effCkSsc (i : Nat) (v : W32) (b : Block) : Block :=
  let put (f : Ssc → Ssc) (b : Block) : Block :=
    { b with ck := { b.ck with ssc := tabPut b.ck.ssc i (f (tabGet {} b.ck.ssc i)) } }
  let x := tabGet ({} : Ssc) b.ck.ssc i
  let depth := field v 1 5
  let freq := field v 6 6
  let b1 := fieldIf (decide (depth = x.depth) || (!x.en && decide (depth ≤ 20))) .ck (put fun x => { x with depth := depth }) b
  let b2 := fieldIf (decide (freq = x.freq) || (!x.en && within 30 63 freq)) .ck (put fun x => { x with freq := freq }) b1
  put (fun x => { x with en := v.getLsbD 0 }) b2

def execCkSscWrite (pf : Fin 4) (i : Fin 2) (val : W32) (s : State) : Host.Outcome State Fault Refusal :=
  act s fun b => adminWrite b pf.val (0x30200 + 4 * i.val) (effCkSsc i.val val)

/-- CK_CPLL_FREQ: a new frequency relocks CPLL. -/
def effCpllFreq (v : W32) (b : Block) : Block :=
  let f := field v 0 5
  if !within 20 30 f then refuse b .ck
  else if f = b.ck.cpllFreq then b
  else
    let b1 := { b with ck := { b.ck with cpllFreq := f } }
    match (getPll b 0).state with
    | .off | .failed => b1
    | .locking | .ready | .relocking => unlock b1 0 0

def execCkCpllFreqWrite (pf : Fin 4) (val : W32) (s : State) : Host.Outcome State Fault Refusal :=
  act s fun b => adminWrite b pf.val 0x30210 (effCpllFreq val)

end Sys2Proof.Machine
end

