-- ==== Sys2Proof/Machine/CoreIsa.lean ====
section
/-!
DEFINITION. Machine/CoreIsa.lean: the scalar, vector, DPU and XACC instructions of a Collator core (R56-R62, Tables 3.4-3.6).
-/

namespace Sys2Proof.Machine

/-! ## Scalar (Table 3.4) -/

/-- An immediate of 10 bits: a value whose highest bit is 1 is open. -/
def immOf (i : BitVec 10) : W64 := if i.getLsbD 9 then Config.immHigh i else i.setWidth 64

def aluCode : AluOp → Nat
  | .add => 0 | .sub => 1 | .and => 2 | .or => 3 | .xor => 4 | .shl => 5 | .shr => 6 | .sar => 7 | .mul => 8 | .slt => 9
  | .sltu => 10 | .seq => 11

/-- A shift of a 64-bit operand; one by 64 or more is open. -/
def shiftOr (op : AluOp) (x y : W64) (r : W64) : W64 :=
  if y.toNat < 64 then r else BitVec.ofNat 64 (Config.shiftOver (aluCode op) 64 x.toNat y.toNat)

def alu (op : AluOp) (x y : W64) : W64 :=
  match op with
  | .add => x + y
  | .sub => x - y
  | .and => x &&& y
  | .or => x ||| y
  | .xor => x ^^^ y
  | .shl => shiftOr .shl x y (x <<< y.toNat)
  | .shr => shiftOr .shr x y (x >>> y.toNat)
  | .sar => shiftOr .sar x y (x.sshiftRight y.toNat)
  | .mul => x * y
  | .slt => if x.slt y then 1 else 0
  | .sltu => if x.ult y then 1 else 0
  | .seq => if x = y then 1 else 0

def condHolds (c : BrCond) (x y : W64) : Bool :=
  match c with
  | .eq => x == y
  | .ne => x != y
  | .lt => x.slt y
  | .ge => !x.slt y
  | .ltu => x.ult y
  | .geu => !x.ult y

def setPc (b : Block) (c : Nat) (pc : W32) : Block := modCore b c fun k => { k with pc := pc, wait := .none }

/-- Bytes of an access: 1, 2, 4 or 8. -/
def accessBytes (n : Fin 4) : Nat := 2 ^ n.val

/-- A loaded value, sign-extended where the form says so. -/
def extendLoad (n : Nat) (signed : Bool) (v : Nat) : W64 :=
  if signed && v.testBit (8 * n - 1) then BitVec.ofInt 64 ((v : Int) - 2 ^ (8 * n)) else BitVec.ofNat 64 v

/-- A load of the core-local map. -/
def loadTo (b : Block) (c a n : Nat) (f : List Byte → Core → Core) : Block :=
  if touchesBusy (getCore b c) a n then stallIn b c .xacc
  else match mapRead b c a n with
    | none => faultAt b c
    | some l => stepCore b c (f l)

/-- A store to the core-local map. -/
def storeTo (b : Block) (c a : Nat) (l : List Byte) : Block :=
  if touchesBusy (getCore b c) a l.length then stallIn b c .xacc
  else if mayStore a l.length then stepCore b c fun k => mapStore k a l
  else faultAt b c

def effScalar (c : Nat) (op : ScalarOp) (b : Block) : Block :=
  let k := getCore b c
  match op with
  | .alu o d a e => stepCore b c fun k => gPut k d.val (alu o (reg b c a.val) (reg b c e.val))
  | .aluImm o d a i => stepCore b c fun k => gPut k d.val (alu o (reg b c a.val) (immOf i))
  | .loadImm d i => stepCore b c fun k => gPut k d.val (i.signExtend 64)
  | .load n sg d a i =>
    let len := accessBytes n
    loadTo b c (reg b c a.val + immOf i).toNat len fun l k => gPut k d.val (extendLoad len sg (leNat l))
  | .store n a e i =>
    storeTo b c (reg b c a.val + immOf i).toNat (leBytes (accessBytes n) (reg b c e.val).toNat)
  | .branch q a e i =>
    if condHolds q (reg b c a.val) (reg b c e.val) then setPc b c (Config.branchTarget k.pc i) else advance b c
  | .jump d i => setPc (modCore b c fun k => gPut k d.val ((k.pc + 4).setWidth 64)) c (Config.branchTarget k.pc i)
  | .jumpReg d a i =>
    setPc (modCore b c fun k => gPut k d.val ((k.pc + 4).setWidth 64)) c ((reg b c a.val + immOf i).setWidth 32)
  | .loop d i =>
    let left := reg b c d.val - 1
    let b1 := modCore b c fun k => gPut k d.val left
    if left = 0 then advance b1 c else setPc b1 c (Config.branchTarget k.pc i)
  | .illegal _ => faultAt b c

def xaccStalled (w : CoreWait) : Bool := decide (w = .xacc)

/-- SCALAR_INSTRUCTION. -/
def execScalarInstruction (core : Fin 512) (op : ScalarOp) (s : State) : Host.Outcome State Fault Refusal :=
  act s (issue core.val xaccStalled (effScalar core.val op))

/-! ## Vector (R57, R58) -/

def laneGet (v : BitVec 512) (bytes i : Nat) : Nat := v.toNat / 2 ^ (8 * bytes * i) % 2 ^ (8 * bytes)

/-- A vector from its lanes. -/
def lanesOf (bytes : Nat) (f : Nat → Nat) : BitVec 512 :=
  BitVec.ofNat 512 (listSum ((upFrom 0 (64 / bytes)).map fun i => f i % 2 ^ (8 * bytes) * 2 ^ (8 * bytes * i)))

def lanePut (v : BitVec 512) (bytes i x : Nat) : BitVec 512 := lanesOf bytes fun j => if j = i then x else laneGet v bytes j

/-- Takes `n` open values. -/
def takeFrees (b : Block) (n : Nat) : Block := { b with freeCtr := b.freeCtr + n }
def freeAt (b : Block) (i : Nat) : Nat := Config.freeNat (b.freeCtr + i)

def vintCode : VIntOp → Nat
  | .add => 0 | .sub => 1 | .and => 2 | .or => 3 | .xor => 4 | .shl => 5 | .shr => 6 | .min => 7 | .max => 8

def signedLane (w x : Nat) : Int := if x.testBit (w - 1) then (x : Int) - 2 ^ w else x

/-- One lane of an integer operation; `w` is the lane's width in bits. -/
def vintLane (op : VIntOp) (w x y : Nat) : Nat :=
  let less := if Config.laneSigned then decide (signedLane w x < signedLane w y) else decide (x < y)
  match op with
  | .add => x + y
  | .sub => x + 2 ^ w - y
  | .and => x &&& y
  | .or => x ||| y
  | .xor => x ^^^ y
  | .shl => if y < w then x <<< y else Config.shiftOver 12 w x y
  | .shr =>
    if y < w then
      (if Config.laneShrArith && x.testBit (w - 1) then x >>> y + (2 ^ w - 2 ^ (w - y)) else x >>> y)
    else Config.shiftOver 13 w x y
  | .min => if less then x else y
  | .max => if less then y else x

/-- What the g register of a floating-point form holds, in the layout that Table 3.6 gives for XRND (DEDUCED). -/
structure FpForm where
  fmt : Nat := 0
  rnd : Nat := 0
  ftz : Bool := false
  p : Nat := 24
  deriving DecidableEq, Repr

def fpForm (w : W64) : FpForm := { fmt := field w 0 4, rnd := field w 4 3, ftz := w.getLsbD 7, p := field w 8 6 }

/-- A form that the vector unit has: five formats, five roundings, FLOAT_P with 8 to 32 bits. -/
def formOk (f : FpForm) : Bool := f.fmt ≤ 4 && f.rnd ≤ 4 && (f.fmt != 4 || (8 ≤ f.p && f.p ≤ 32))

/-- Container of a lane; FLOAT_P has no stored encoding and stands in a binary64 container (DESIGN CHOICE). -/
def laneBytesOf (fmt : Nat) : Nat := if fmt = 4 then 8 else outBytes fmt

/-- A lane-wise floating-point operation with one result per lane; a NaN's payload is open. -/
def fpLanes (b : Block) (c d : Nat) (f : FpForm) (g : Nat → Fp) : Block :=
  let n := laneBytesOf f.fmt
  let v := lanesOf n fun i => encodeOut f.fmt (freeAt b i) (g i)
  stepCore (takeFrees b 32) c fun k => vPut k d v

/-- A floating-point form: illegal where its g register names none. -/
def withForm (b : Block) (c e : Nat) (f : FpForm → FFmt → Block) : Block :=
  let w := fpForm (reg b c e)
  match fmtOf w.fmt w.p with
  | none => faultAt b c
  | some x => if formOk w then f w x else faultAt b c

def fpLane (b : Block) (c r : Nat) (fmt i : Nat) : Fp := decodeOut fmt (laneGet (vGet (getCore b c) r) (laneBytesOf fmt) i)

def cmpHolds (op : VCmpOp) (o : FpOrd) : Bool :=
  match op with
  | .eq => o == .eq
  | .lt => o == .lt
  | .le => o == .lt || o == .eq
  | .unordered => o == .un

/-- An element of a packed vector: MXFP4 two per byte, MXFP6 four in three bytes, the lowest first. -/
def packedElem (bits : Nat) (v : BitVec 512) (i : Nat) : Nat := v.toNat / 2 ^ (bits * i) % 2 ^ bits

/-- The vector instructions (Tables 3.3, 3.4).  DESIGN CHOICES (log entry 152): VFMA's addend is the D register, the one field that
Table 3.3 leaves for a third source; a lane that moves to or from a g register has the 64 bits of that register. -/
def effVector (c : Nat) (op : VectorOp) (b : Block) : Block :=
  let k := getCore b c
  let v (r : Nat) : BitVec 512 := vGet k r
  match op with
  | .vld d a i => loadTo b c (reg b c a.val + immOf i).toNat 64 fun l k => vPut k d.val (BitVec.ofNat 512 (leNat l))
  | .vst s a i => storeTo b c (reg b c a.val + immOf i).toNat (leBytes 64 (v s.val).toNat)
  | .vint o n d a e =>
    let l := accessBytes n
    stepCore b c fun k => vPut k d.val (lanesOf l fun i =>
      vintLane o (8 * l) (laneGet (v a.val) l i) (laneGet (v e.val) l i))
  | .vadd d a e g => withForm b c g.val fun f x => fpLanes b c d.val f fun i =>
      fpAdd x f.rnd f.ftz (fpLane b c a.val f.fmt i) (fpLane b c e.val f.fmt i)
  | .vsub d a e g => withForm b c g.val fun f x => fpLanes b c d.val f fun i =>
      fpAdd x f.rnd f.ftz (fpLane b c a.val f.fmt i) (fpNeg (fpLane b c e.val f.fmt i))
  | .vmul d a e g => withForm b c g.val fun f x => fpLanes b c d.val f fun i =>
      fpMul x f.rnd f.ftz (fpLane b c a.val f.fmt i) (fpLane b c e.val f.fmt i)
  | .vfma d a e g => withForm b c g.val fun f x => fpLanes b c d.val f fun i =>
      fpFma x f.rnd f.ftz (fpLane b c a.val f.fmt i) (fpLane b c e.val f.fmt i) (fpLane b c d.val f.fmt i)
  | .vcvt d a g src => withForm b c g.val fun f x =>
      let sb := laneBytesOf src.toNat
      if src.toNat > 4 then faultAt b c
      else
        let n := laneBytesOf f.fmt
        let r := lanesOf n fun i =>
          if (i + 1) * sb ≤ 64 then
            encodeOut f.fmt (freeAt b i) (roundFp x f.rnd f.ftz false (fpLane b c a.val src.toNat i))
          else freeAt b i
        stepCore (takeFrees b 32) c fun k => vPut k d.val r
  | .vcmp o d a e g => withForm b c g.val fun f _ =>
      let n := laneBytesOf f.fmt
      stepCore b c fun k => vPut k d.val (lanesOf n fun i =>
        Config.cmpLane (cmpHolds o (fpCmp (fpLane b c a.val f.fmt i) (fpLane b c e.val f.fmt i))) (8 * n))
  | .vunpk fmt d a =>
    let bits := if fmt = 0xC then 4 else 6
    if fmt = 0xA || fmt = 0xB || fmt = 0xC then
      stepCore b c fun k => vPut k d.val (lanesOf 1 (packedElem bits (v a.val)))
    else faultAt b c
  | .laneToG d s l => stepCore b c fun k => gPut k d.val (BitVec.ofNat 64 (laneGet (v s.val) 8 l.val))
  | .gToLane d a l => stepCore b c fun k => vPut k d.val (lanePut (v d.val) 8 l.val (reg b c a.val).toNat)
  | .illegal _ => faultAt b c

/-- VECTOR_INSTRUCTION. -/
def execVectorInstruction (core : Fin 512) (op : VectorOp) (s : State) : Host.Outcome State Fault Refusal :=
  act s (issue core.val xaccStalled (effVector core.val op))

/-! ## DPU (Table 3.5) -/

def dpuOf (k : Core) (u : Nat) : Dpu := tabGet {} k.dpu u
def modDpu (b : Block) (c u : Nat) (f : Dpu → Dpu) : Block := stepCore b c fun k => { k with dpu := tabPut k.dpu u (f (dpuOf k u)) }

/-- DCFG sets the formats and keeps the slice pair and the mask chosen before, even where the new format has fewer slices
(DESIGN CHOICE, log entry 152). -/
def effDcfg (c u a : Nat) (b : Block) : Block :=
  let w := reg b c a
  let fa := field w 0 4
  let fb := field w 4 4
  if pairOk fa fb then
    modDpu b c u fun d => { d with aFmt := BitVec.ofNat 4 fa, bFmt := BitVec.ofNat 4 fb, daz := w.getLsbD 8 }
  else faultAt b c

/-- DCFG (R59). -/
def execDcfg (core : Fin 512) (unit : Fin 2) (a : Fin 32) (s : State) : Host.Outcome State Fault Refusal :=
  act s (issue core.val neverStalled (effDcfg core.val unit.val a.val))

def effDslice (c u sa sb : Nat) (b : Block) : Block :=
  let d := dpuOf (getCore b c) u
  if sa < inSlices d.aFmt.toNat && sb < inSlices d.bFmt.toNat then modDpu b c u fun d => { d with sliceA := sa, sliceB := sb }
  else faultAt b c

/-- DSLICE (R31, R59). -/
def execDslice (core : Fin 512) (unit : Fin 2) (sa sb : Fin 4) (s : State) : Host.Outcome State Fault Refusal :=
  act s (issue core.val neverStalled (effDslice core.val unit.val sa.val sb.val))

/-- DMASK (R33). -/
def execDmask (core : Fin 512) (unit : Fin 2) (a : Fin 32) (s : State) : Host.Outcome State Fault Refusal :=
  act s (issue core.val neverStalled fun b =>
    modDpu b core.val unit.val fun d => { d with mask := (reg b core.val a.val).setWidth 32 })

/-- Bytes of a container (R58). -/
def containerBytes (fmt : Nat) : Nat := if fmt = 5 then 4 else if fmt = 3 || fmt = 4 then 2 else 1

/-- Lane `i` of an operand of a pass: binary32 stands across an even and odd register pair. -/
def operandLane (k : Core) (r fmt i : Nat) : Nat :=
  if fmt = 5 then laneGet (vGet k (if i < 16 then r else r + 1)) 4 (i % 16) else laneGet (vGet k r) (containerBytes fmt) i

/-- The scale exponent of a pass, and whether a scale is NaN (R32). -/
def passScale (mx : Bool) (w : W64) : Int × Bool :=
  let sa := field w 0 8
  let sb := field w 8 8
  if mx then ((sa : Int) - 127 + (sb - 127), sa == 255 || sb == 255) else (0, false)

/-- The pass of R33-R35 and R39 on the operands of a unit.  Which slice pass raises COUNT by its element products, and whether
masked lanes count, are the choices of `dpuPass` (log entry 152). -/
def passOf (k : Core) (d : Dpu) (x va vb : Nat) (w : W64) : Pass :=
  let fa := d.aFmt.toNat
  let fb := d.bFmt.toNat
  let live := (upFrom 0 32).filter fun i => d.mask.getLsbD i
  let lanes := live.map fun i =>
    ({ a := decodeIn fa d.daz (operandLane k va fa i), b := decodeIn fb d.daz (operandLane k vb fb i) } : LaneIn)
  let sc := passScale (isMx fa) w
  let p := dpuPass d.sliceA d.sliceB sc.1 sc.2 (decide (d.sliceA = 0) && decide (d.sliceB = 0)) lanes
  { x := x, sum := p.sum, l := p.l, lost := p.lost, mag := p.mag, nan := p.nan, pinf := p.pinf, ninf := p.ninf, any := p.any,
    allNegZ := p.allNegZ, count := p.count }

/-- The cycle of a DPASS: next to one of the other unit it may share that one's cycle (Table 3.5: one per cycle and unit), which
the manual leaves open. -/
def spendPass (c u : Nat) (b : Block) : Block :=
  let k := getCore b c
  match k.passes.getLast? with
  | none => spend b c
  | some q => if q.unit ≠ u ∧ q.cycle = k.cycle ∧ freeVal b % 2 = 1 then takeFree b else spend (takeFree b) c

/-- A pass joins those issued before it; of two issued in one cycle, unit 0's stands first (R60). -/
def joinPass (l : List Pass) (p : Pass) : List Pass :=
  match l.getLast? with
  | none => [p]
  | some q => if q.cycle = p.cycle ∧ p.unit < q.unit then l.dropLast ++ [p, q] else l ++ [p]

def effDpass (c u x va vb d : Nat) (b : Block) : Block :=
  let k := getCore b c
  let q := dpuOf k u
  let odd (fmt r : Nat) : Bool := fmt == 5 && r % 2 == 1
  if odd q.aFmt.toNat va || odd q.bFmt.toNat vb then faultAt b c
  else
    let p := { passOf k q x va vb (gGet k d) with unit := u, cycle := k.cycle }
    count (stepCore b c fun k => { k with passes := joinPass k.passes p }) (coreCounter c 0) 1

/-- DPASS (R33-R35, R58, R60). -/
def execDpass (core : Fin 512) (unit : Fin 2) (x : Fin 128) (va vb : Fin 32) (d : Fin 32) (s : State) :
    Host.Outcome State Fault Refusal :=
  act s fun b =>
    if coreRuns b core.val && decide ((getCore b core.val).wait = .none) then
      effDpass core.val unit.val x.val va.val vb.val d.val (spendPass core.val unit.val b)
    else b

/-- XACC_PASS_ADD: the oldest pass is added (R37, R60); VALUE after an overflow is open. -/
def effPassAdd (c : Nat) (b : Block) : Block :=
  let k := getCore b c
  match k.passes with
  | [] => b
  | p :: r =>
    if !coreRuns b c then b
    else setCore (takeFree b) c (xPut { k with passes := r } p.x (xAddPass (xGet k p.x) p (freeVal b)))

def execXaccPassAdd (core : Fin 512) (s : State) : Host.Outcome State Fault Refusal := act s (effPassAdd core.val)

/-! ## XACC (Table 3.6, R61) -/

/-- An instruction on an XACC: it waits for the passes already issued into it. -/
def onXacc (c x : Nat) (f : Block → Block) : Block → Block :=
  issue c xaccStalled fun b => if xBusy (getCore b c) x then stallIn b c .xacc else f b

/-- XCLR. -/
def execXclr (core : Fin 512) (x : Fin 128) (a : Fin 32) (s : State) : Host.Outcome State Fault Refusal :=
  act s (onXacc core.val x.val fun b =>
    stepCore b core.val fun k => xPut k x.val { base := (reg b core.val a.val).setWidth 16 })

def effXadd (c x a : Nat) (b : Block) : Block :=
  let k := getCore b c
  let src := (gGet k a).toNat
  if src ≥ 128 then faultAt b c
  else if xBusy k src then stallIn b c .xacc
  else stepCore (takeFree b) c fun k => xPut k x (xAddX (xGet k x) (xGet k src) (freeVal b))

/-- XADD; a source number beyond 127 names no XACC and is an illegal instruction (DEDUCED). -/
def execXadd (core : Fin 512) (x : Fin 128) (a : Fin 32) (s : State) : Host.Outcome State Fault Refusal :=
  act s (onXacc core.val x.val (effXadd core.val x.val a.val))

/-- Whether an address holds a 64-byte image in SRAM. -/
def imageAt (a : Nat) : Bool := decide (a % 64 = 0) && decide (a + 64 ≤ 0x100000)

def effXld (c x a : Nat) (b : Block) : Block :=
  let addr := (reg b c a).toNat
  if imageAt addr then
    stepCore b c fun k => xPut k x (xOfImage (BitVec.ofNat 512 (leNat (memGetBytes k.sram addr 64))))
  else faultAt b c

/-- XLD. -/
def execXld (core : Fin 512) (x : Fin 128) (a : Fin 32) (s : State) : Host.Outcome State Fault Refusal :=
  act s (onXacc core.val x.val (effXld core.val x.val a.val))

def effXst (c x a : Nat) (b : Block) : Block :=
  let addr := (reg b c a).toNat
  if imageAt addr then
    stepCore b c fun k => { k with sram := memPutBytes k.sram addr (leBytes 64 (xImage (xGet k x)).toNat) }
  else faultAt b c

/-- XST. -/
def execXst (core : Fin 512) (x : Fin 128) (a : Fin 32) (s : State) : Host.Outcome State Fault Refusal :=
  act s (onXacc core.val x.val (effXst core.val x.val a.val))

def effXmv (c x a d : Nat) (b : Block) : Block :=
  let i := (reg b c a).toNat
  if i < 8 then stepCore b c fun k => gPut k d (BitVec.ofNat 64 (laneGet (xImage (xGet k x)) 8 i)) else faultAt b c

/-- XMV; a word index beyond 7 is an illegal instruction (DEDUCED). -/
def execXmv (core : Fin 512) (x : Fin 128) (a d : Fin 32) (s : State) : Host.Outcome State Fault Refusal :=
  act s (onXacc core.val x.val (effXmv core.val x.val a.val d.val))

/-- The exact class and value of an XACC as one number (R39, R40). -/
def xExact (a : Xacc) (rnd : Nat) : Fp :=
  let j : JudgeIn := { v := a.value.toInt, base := a.base.toInt, nan := a.nan, pinf := a.pinf, ninf := a.ninf, allNegZ := a.allNegZ }
  match exactClass {} j with
  | .fin _ _ _ => zOf j rnd
  | .nan => .nan
  | .inf n => .inf n

/-- Whether two values round apart, and with them some values between: a wrapping integer tells apart any two integers, and two
zeros of unlike sign differ (R49). -/
def roundsApart (fmt p rnd : Nat) (ftz : Bool) (lo hi : Dy) : Bool :=
  if fmt = 5 then decide (toInteger rnd lo ≠ toInteger rnd hi)
  else
    let bits (x : Dy) : Nat := encodeOut fmt 0 (roundTo fmt p rnd ftz false (dyFp x (decide (rnd = 4))))
    bits lo != bits hi

/-- Whether R50 finds the rounding ambiguous: INX is set and the ends of [x − TAIL, x + TAIL] round apart, or TAIL has no end. -/
def ambiguous (a : Xacc) (fmt p rnd : Nat) (ftz : Bool) : Bool :=
  match xExact a rnd, fromB64 a.tail with
  | .fin n s e, .fin m t f =>
    let v := fpDy (.fin n s e)
    let t := fpDy (.fin m t f)
    a.inx && roundsApart fmt p rnd ftz (dySub v t) (dyAdd v t)
  | .fin _ _ _, .inf _ | .fin _ _ _, .nan => a.inx
  | .nan, _ | .inf _, _ => false

/-- XRND's g register (Table 3.6): the lane, and formats and roundings that Table 2.4 and Table 2.5 name. -/
def effXrnd (c x a d : Nat) (b : Block) : Block :=
  let w := reg b c a
  let f := fpForm w
  let lane := field w 16 4
  let n := laneBytesOf f.fmt
  if f.fmt > 8 || f.rnd > 4 || (lane + 1) * n > 64 then faultAt b c
  else
    let r := xGet (getCore b c) x
    let y := encodeOut f.fmt (freeVal b) (roundTo f.fmt f.p f.rnd f.ftz false (xExact r f.rnd))
    stepCore (takeFree b) c fun k =>
      { vPut k d (lanePut (vGet k d) n lane y) with undec := k.undec || ambiguous r f.fmt f.p f.rnd f.ftz }

/-- XRND (R48, R50). -/
def execXrnd (core : Fin 512) (x : Fin 128) (a d : Fin 32) (s : State) : Host.Outcome State Fault Refusal :=
  act s (onXacc core.val x.val (effXrnd core.val x.val a.val d.val))

/-! ## Judgement (R43-R51, R62, R73, R74) -/

/-- What an element is judged on: y from a g register, C, and the rest from the XACC and the tile window. -/
def judgeIn (h : TileHdr) (a : Xacc) (y : W64) (c : Fp) : JudgeIn :=
  { v := a.value.toInt, base := a.base.toInt, inx := a.inx, nan := a.nan, pinf := a.pinf, ninf := a.ninf,
    allNegZ := a.allNegZ, mag := a.mag, tail := a.tail, k := h.tap.k, c := c,
    y := y.toNat % 2 ^ (8 * outBytes (readAcc h.tap.accDesc).outFmt) }

/-- Adds one outcome to the tally; `inB` is the within-bound indicator of a MISMATCH or UNDECIDED. -/
def tallyOne (t : Tally) (i : Nat) (o : Judged) (inB : Bool) : Tally :=
  let t1 := { t with last := some i, firstBad := if o = Judged.matched then t.firstBad else some (t.firstBad.getD i) }
  let doubt (t : Tally) : Tally := { t with firstDoubt := some (t.firstDoubt.getD (i, inB)) }
  match o with
  | .matched => { t1 with matched := t1.matched + 1 }
  | .bounded => { t1 with bounded := t1.bounded + 1 }
  | .outside => { t1 with outside := t1.outside + 1 }
  | .mismatch => doubt { t1 with mismatch := t1.mismatch + 1, firstMiss := some (t1.firstMiss.getD (i, inB)) }
  | .undecIn => doubt { t1 with undecIn := t1.undecIn + 1 }
  | .undecOut => doubt { t1 with undecOut := t1.undecOut + 1 }

/-- Whether an element index does not rise (R74). -/
def outOfOrder (t : Tally) (i : Nat) : Bool :=
  match t.last with
  | none => false
  | some j => decide (i ≤ j)

/-- C of an element: packed row by row in the record at C_OFF, in the format that the tap descriptor names (Tables 4.1, 4.2). -/
def recordC (t : Tile) (i : Nat) : Fp :=
  let n := outBytes t.hdr.tap.cFmt.toNat
  decodeOut t.hdr.tap.cFmt.toNat (leNat (recBytes t (t.hdr.cOff + i * n) n))

/-- Bounded judgement (R43-R47). -/
def boundedOf (t : Tile) (k : Core) (x : Nat) (y : W64) (c : Fp) : Judged × Bool :=
  (judgeBounded (readAcc t.hdr.tap.accDesc) (judgeIn t.hdr (xGet k x) y c), false)

/-- Strict judgement (R49-R51) against expected bits; C, which no operand holds, is the record's. -/
def strictOf (t : Tile) (k : Core) (x : Nat) (y : W64) (i : Nat) (want : W64) : Judged × Bool :=
  let acc := readAcc t.hdr.tap.accDesc
  judgeStrict acc (judgeIn t.hdr (xGet k x) y (recordC t i)) (some (want.toNat % 2 ^ (8 * outBytes acc.outFmt))) k.undec

/-- What both judge instructions do: an XACC with OVF increments task input 25 and tallies nothing (R38, R62), an index that does
not rise is a judge-order fault (R74), and without a tile there is no tally to write. -/
def judgeWith (c x e : Nat) (f : Tile → Core → Nat → Judged × Bool) (g : Core → Core) (b : Block) : Block :=
  let k := getCore b c
  let i := (gGet k e).toNat
  if (xGet k x).ovf then
    addEvent (coreMargin (advance b c) c 0x07 25 k.tileSeq.toNat (coreTenant b c)) c 25 1
  else
    match coreTile b c with
    | none => advance b c
    | some t =>
      if outOfOrder k.tally i then faultAt b c
      else stepCore b c fun k =>
        let o := f t k i
        g { k with tally := tallyOne k.tally i o.1 o.2 }

/-- XJUDGE.  The mode is the tile window's (R62): on a strict tile it judges strictly, with D's bits as those expected (DESIGN
CHOICE, log entry 154). -/
def execXjudge (core : Fin 512) (x : Fin 128) (a b d : Fin 32) (s : State) : Host.Outcome State Fault Refusal :=
  act s (onXacc core.val x.val (judgeWith core.val x.val b.val
    (fun t k i =>
      if t.hdr.strict then strictOf t k x.val (gGet k a.val) i (gGet k d.val)
      else boundedOf t k x.val (gGet k a.val) (fromB64 (gGet k d.val)))
    id))

/-- XJUDGES: D holds the expected bits.  The mode is the tile window's (R62): on a bounded tile it judges under R43 to R47 with
the record's C (DESIGN CHOICE, log entry 154).  It clears UNDEC after it judges. -/
def execXjudges (core : Fin 512) (x : Fin 128) (a b d : Fin 32) (s : State) : Host.Outcome State Fault Refusal :=
  act s (onXacc core.val x.val (judgeWith core.val x.val b.val
    (fun t k i =>
      if t.hdr.strict then strictOf t k x.val (gGet k a.val) i (gGet k d.val)
      else boundedOf t k x.val (gGet k a.val) (recordC t i))
    fun k => { k with undec := false }))

end Sys2Proof.Machine
end

