-- ==== Sys2Proof/Machine/CoreMesh.lean ====
section
/-!
DEFINITION. Machine/CoreMesh.lean: messages and credits, task inputs, DMA queues and the end of a tile (R63-R74, Tables 3.9,
3.10).
-/

namespace Sys2Proof.Machine

/-! ## Messages (R65-R69) -/

def sendStalled (w : CoreWait) : Bool := decide (w = .send)

/-- A core's margin-ring event of its current tile. -/
def coreNote (b : Block) (c event arg : Nat) : Block :=
  coreMargin b c event arg (getCore b c).tileSeq.toNat (coreTenant b c)

/-- SEND with its credit at hand: the message enters the mesh. -/
def sendNow (b : Block) (c t m flits src : Nat) : Block :=
  let k := getCore b c
  let b1 := if k.wait = .send then coreNote b c 0x04 m else b
  let msg : MeshMsg := { src := c, dst := t, mbox := m, bytes := memGetBytes k.sram src (64 * flits) }
  let b2 := { b1 with col := { b1.col with mesh := b1.col.mesh ++ [msg] } }
  stepCore b2 c fun k => { k with credits := useCredit k.credits t m flits }

def effSend (c m flits a e : Nat) (b : Block) : Block :=
  let k := getCore b c
  let src := (gGet k e).toNat
  match relCore b c (gGet k a).toNat with
  | none => faultAt b c
  | some t =>
    if k.lostCredit.contains (t, m) then
      faultAt (modCore b c fun k => { k with lostCredit := without k.lostCredit (t, m) }) c
    else if src % 64 ≠ 0 || src + 64 * flits > 0x100000 then faultAt b c
    else if creditOf k t m ≥ flits then sendNow b c t m flits src
    else if k.wait = .send then b
    else coreNote (stallIn b c .send) c 0x03 m

/-- SEND. -/
def execSend (core : Fin 512) (mbox : Fin 16) (flits1 : Fin 64) (a b : Fin 32) (s : State) :
    Host.Outcome State Fault Refusal :=
  act s (issue core.val sendStalled (effSend core.val mbox.val (flits1.val + 1) a.val b.val))

/-- A credit for a sender enters the mesh. -/
def meshCreditTo (b : Block) (x : MeshCredit) : Block := { b with col := { b.col with meshCredit := b.col.meshCredit ++ [x] } }

def effCrgrant (c m a e : Nat) (b : Block) : Block :=
  let k := getCore b c
  let f := (gGet k e).toNat
  let x := boxOf b c m
  match relCore b c (gGet k a).toNat with
  | none => faultAt b c
  | some t =>
    if boxGranted x + boxHeld x + f > x.size then faultAt b c
    else
      let b1 := modBox b c m fun x => { x with granted := tabPut x.granted t (tabGet 0 x.granted t + f) }
      advance (meshCreditTo b1 { sender := t, receiver := c, mbox := m, flits := f }) c

/-- CRGRANT. -/
def execCrgrant (core : Fin 512) (mbox : Fin 16) (a b : Fin 32) (s : State) : Host.Outcome State Fault Refusal :=
  act s (issue core.val neverStalled (effCrgrant core.val mbox.val a.val b.val))

/-- MBPOP: the address and flit count of the oldest message, or 0. -/
def execMbpop (core : Fin 512) (mbox : Fin 16) (d : Fin 32) (s : State) : Host.Outcome State Fault Refusal :=
  act s (issue core.val neverStalled fun b =>
    stepCore b core.val fun k =>
      gPut k d.val (match (tabGet {} k.mbox mbox.val).msgs with
        | [] => 0
        | x :: _ => BitVec.ofNat 64 (x.addr + x.flits * 2 ^ 32)))

def effMbfree (c m : Nat) (b : Block) : Block :=
  match (boxOf b c m).msgs with
  | [] => advance b c
  | x :: r =>
    let b1 := modBox b c m fun q =>
      { q with msgs := r, granted := tabPut q.granted x.sender (tabGet 0 q.granted x.sender + x.flits) }
    advance (meshCreditTo b1 { sender := x.sender, receiver := c, mbox := m, flits := x.flits }) c

/-- MBFREE. -/
def execMbfree (core : Fin 512) (mbox : Fin 16) (s : State) : Host.Outcome State Fault Refusal :=
  act s (issue core.val neverStalled (effMbfree core.val mbox.val))

def effMbcfg (c m a e : Nat) (b : Block) : Block :=
  let k := getCore b c
  let base := (gGet k a).toNat
  let size := (gGet k e).toNat
  let x := boxOf b c m
  if !x.msgs.isEmpty || boxGranted x ≠ 0 then faultAt b c
  else if base % 64 ≠ 0 || base + 64 * size > 0x100000 then faultAt b c
  else advance (modBox b c m fun _ => { base := base, size := size }) c

/-- MBCFG. -/
def execMbcfg (core : Fin 512) (mbox : Fin 16) (a b : Fin 32) (s : State) : Host.Outcome State Fault Refusal :=
  act s (issue core.val neverStalled (effMbcfg core.val mbox.val a.val b.val))

def effEvsig (c input a e : Nat) (b : Block) : Block :=
  let k := getCore b c
  let n := (gGet k e).toNat
  match relCore b c (gGet k a).toNat with
  | none => faultAt b c
  | some t =>
    if input < 32 || n = 0 || n > 255 then faultAt b c
    else
      let x : MeshEv := { src := c, dst := t, input := input, count := n }
      advance { b with col := { b.col with meshEv := b.col.meshEv ++ [x] } } c

/-- EVSIG; a count outside 1-255 is an illegal instruction (DEDUCED). -/
def execEvsig (core : Fin 512) (input : Fin 64) (a b : Fin 32) (s : State) : Host.Outcome State Fault Refusal :=
  act s (issue core.val neverStalled (effEvsig core.val input.val a.val b.val))

/-- Removes the first entry for which a test holds. -/
def takeFirst {α : Type} (p : α → Bool) : List α → Option (α × List α)
  | [] => none
  | x :: r => if p x then some (x, r) else (takeFirst p r).map fun y => (y.1, x :: y.2)

/-- Whether a core's router discards what arrives for it: its cluster is in reset, or it is trimmed. -/
def coreGone (b : Block) (c : Nat) : Bool := (getDom b (clusterDom c)).inReset || coreTrimmed b c

/-- Writes a message into the mailbox ring of its target. -/
def deliver (b : Block) (m : MeshMsg) : Block :=
  let x := boxOf b m.dst m.mbox
  let f := m.bytes.length / 64
  let b1 := modCore b m.dst fun k => { k with sram := ringPutFlits k.sram x.base x.size x.tail m.bytes f }
  let b2 := modBox b1 m.dst m.mbox fun x =>
    { x with tail := (x.tail + f) % Nat.max 1 x.size,
             msgs := x.msgs ++ [{ addr := x.base + 64 * x.tail, flits := f, sender := m.src }],
             granted := tabPut x.granted m.src (tabGet 0 x.granted m.src - f) }
  addEvent b2 m.dst m.mbox 1

/-- MESSAGE_ARRIVAL: the oldest message from a core to a mailbox arrives, or is discarded and counted (R69, R82). -/
def effMsgArrival (s d m : Nat) (b : Block) : Block :=
  match takeFirst (fun x : MeshMsg => x.src == s && x.dst == d && x.mbox == m) b.col.mesh with
  | none => b
  | some (x, r) =>
    let b1 := { b with col := { b.col with mesh := r } }
    if coreGone b d then { b1 with col := { b1.col with meshDrops := b1.col.meshDrops + 1 } } else deliver b1 x

def execMessageArrival (src dst : Fin 512) (mbox : Fin 16) (s : State) : Host.Outcome State Fault Refusal :=
  act s (effMsgArrival src.val dst.val mbox.val)

/-- EVSIG_ARRIVAL (R63). -/
def effEvArrival (s d i : Nat) (b : Block) : Block :=
  match takeFirst (fun x : MeshEv => x.src == s && x.dst == d && x.input == i) b.col.meshEv with
  | none => b
  | some (x, r) =>
    let b1 := { b with col := { b.col with meshEv := r } }
    if coreGone b d then b1 else addEvent b1 d i x.count

def execEvsigArrival (src dst : Fin 512) (input : Fin 64) (s : State) : Host.Outcome State Fault Refusal :=
  act s (effEvArrival src.val dst.val input.val)

/-- CREDIT_RETURN: the sender's router adds the credit, or discards a grant that would need a 33rd entry (R68). -/
def effMeshCredit (snd rcv m : Nat) (b : Block) : Block :=
  match takeFirst (fun x : MeshCredit => x.sender == snd && x.receiver == rcv && x.mbox == m) b.col.meshCredit with
  | none => b
  | some (x, r) =>
    let b1 := { b with col := { b.col with meshCredit := r } }
    let k := getCore b snd
    if coreGone b snd || x.flits = 0 then b1
    else if creditOf k rcv m = 0 && k.credits.length ≥ 32 then
      modCore b1 snd fun k => { k with discardedGrants := k.discardedGrants + 1, lostCredit := withEntry k.lostCredit (rcv, m) }
    else modCore b1 snd fun k => { k with credits := addCredit k.credits rcv m x.flits }

def execCreditReturn (sender receiver : Fin 512) (mbox : Fin 16) (s : State) : Host.Outcome State Fault Refusal :=
  act s (effMeshCredit sender.val receiver.val mbox.val)

/-! ## Task inputs (R63, Table 3.10) -/

def waiteStalled : CoreWait → Bool
  | .waite _ _ => true
  | .none | .send | .dma _ | .xacc | .fence => false

def effWaite (c a d : Nat) (b : Block) : Block :=
  let k := getCore b c
  let mask := gGet k a
  match firstInput k mask with
  | some i =>
    let b1 := stepCore b c fun k => gPut k d (BitVec.ofNat 64 i)
    if waiteStalled k.wait then coreNote b1 c 0x06 i else b1
  | none =>
    let b1 := stallIn b c (.waite mask d)
    if k.tile.isSome && !waiteStalled k.wait then coreNote b1 c 0x05 0 else b1

/-- WAITE. -/
def execWaite (core : Fin 512) (a d : Fin 32) (s : State) : Host.Outcome State Fault Refusal :=
  act s (issue core.val waiteStalled (effWaite core.val a.val d.val))

/-- TAKE. -/
def execTake (core : Fin 512) (input : Fin 64) (d : Fin 32) (s : State) : Host.Outcome State Fault Refusal :=
  act s (issue core.val neverStalled fun b =>
    stepCore b core.val fun k =>
      let x := tabGet {} k.tin input.val
      gPut { k with tin := tabPut k.tin input.val { x with count := x.count - 1 } } d.val (BitVec.ofNat 64 x.count))

/-- EVRD: count and OVF as in Table 3.2. -/
def execEvrd (core : Fin 512) (input : Fin 64) (d : Fin 32) (s : State) : Host.Outcome State Fault Refusal :=
  act s (issue core.val neverStalled fun b =>
    stepCore b core.val fun k =>
      let x := tabGet {} k.tin input.val
      gPut k d.val (BitVec.ofNat 64 (x.count + 65536 * bit x.ovf)))

/-- EVCLR (R64). -/
def execEvclr (core : Fin 512) (input : Fin 64) (s : State) : Host.Outcome State Fault Refusal :=
  act s (issue core.val neverStalled fun b =>
    stepCore b core.val fun k =>
      { k with tin := tabPut k.tin input.val { tabGet {} k.tin input.val with ovf := false } })

/-- TIMER: 0 cancels. -/
def execTimer (core : Fin 512) (a : Fin 32) (s : State) : Host.Outcome State Fault Refusal :=
  act s (issue core.val neverStalled fun b =>
    stepCore b core.val fun k =>
      let n := (gGet k a.val).toNat
      { k with timerAt := if n = 0 then none else some (k.cycle.toNat + n) })

/-- CORE_TIMER_EXPIRY: the core's cycles have reached the armed count. -/
def effCoreTimer (c : Nat) (b : Block) : Block :=
  let k := getCore b c
  match k.timerAt with
  | none => b
  | some n =>
    if !coreRuns b c then b
    else addEvent (setCore b c { k with timerAt := none, cycle := BitVec.ofNat 64 (Nat.max k.cycle.toNat n) }) c 26 1

def execCoreTimerExpiry (core : Fin 512) (s : State) : Host.Outcome State Fault Refusal := act s (effCoreTimer core.val)

/-! ## DMA (R72) -/

def dmaStalled (q : Nat) (w : CoreWait) : Bool := decide (w = .dma q)

/-- Whether a request lies in the record and its target in SRAM. -/
def dmaOk (t : Tile) (dst off len : Nat) : Bool :=
  decide (len % 64 = 0) && decide (len ≤ 65536) && decide (off + len ≤ t.hdr.recLen) && decide (dst + len ≤ 0x100000)

def effDmard (c q a e d : Nat) (b : Block) : Block :=
  let k := getCore b c
  if (tabGet {} k.dma q).busy then stallIn b c (.dma q)
  else
    let dst := (gGet k a).toNat
    let off := (gGet k e).toNat
    let len := (gGet k d).toNat
    match coreTile b c with
    | none => faultAt b c
    | some t =>
      if dmaOk t dst off len then
        stepCore b c fun k => { k with dma := tabPut k.dma q { busy := true, dst := dst, off := off, len := len, data := recBytes t off len } }
      else faultAt b c

/-- DMARD; without a current tile there is no record, and the request is an address fault (DEDUCED). -/
def execDmard (core : Fin 512) (queue : Fin 8) (a b d : Fin 32) (s : State) : Host.Outcome State Fault Refusal :=
  act s (issue core.val (dmaStalled queue.val) (effDmard core.val queue.val a.val b.val d.val))

/-- A core in FENCE goes on once no request is outstanding. -/
def wakeFence (b : Block) (c : Nat) : Block :=
  let k := getCore b c
  if k.wait = .fence && !(k.dma.any fun x => x.2.busy) then advance b c else b

/-- DMARD_COMPLETE: every byte of the record that the request named is in SRAM; a DMARD that stalled on this queue goes on. -/
def effDmaDone (c q : Nat) (b : Block) : Block :=
  let k := getCore b c
  let r := tabGet {} k.dma q
  if !r.busy then b
  else
    let k1 := { k with sram := memPutBytes k.sram r.dst r.data, dma := tabPut k.dma q {},
                       wait := if k.wait = CoreWait.dma q then CoreWait.none else k.wait }
    wakeFence (addEvent (setCore b c k1) c (16 + q) 1) c

def execDmardComplete (core : Fin 512) (queue : Fin 8) (s : State) : Host.Outcome State Fault Refusal :=
  act s (effDmaDone core.val queue.val)

def fenceStalled (w : CoreWait) : Bool := decide (w = .fence)

/-- FENCE: SENDs leave as they are issued, so that only DMARDs are waited for. -/
def execFence (core : Fin 512) (s : State) : Host.Outcome State Fault Refusal :=
  act s (issue core.val fenceStalled fun b =>
    if (getCore b core.val).dma.any fun x => x.2.busy then stallIn b core.val .fence else advance b core.val)

/-! ## READY and TDONE (R74, R77) -/

/-- A slot whose every core has executed READY is ACTIVE, and its load completes with the number of instances. -/
def slotReady (b : Block) (s : Nat) : Block :=
  let sl := getPslot b s
  let all := sl.origins.all fun o => (rectCores o sl.image.shapeH sl.image.shapeW).all fun c => (getCore b c).readyDone
  if sl.state = .loading && all then
    let b1 := setPslot b s { sl with state := .active, loadIss := none }
    match sl.loadIss with
    | none => b1
    | some iss => completeAt b1 iss 0x0302 stOk sl.origins.length 0 (nowNs b)
  else b

/-- READY. -/
def execReady (core : Fin 512) (s : State) : Host.Outcome State Fault Refusal :=
  act s (issue core.val neverStalled fun b =>
    slotReady (stepCore b core.val fun k => { k with readyDone := true }) (getCore b core.val).progSlot)

/-- Takes the tile off an instance whose every core has issued TDONE. -/
def clearTile (b : Block) (c : Nat) : Block :=
  each (instCores b c) (fun i b => modCore b i fun k => { k with tile := none, tdone := false, tally := {}, sent := {}, evOvf := false })
    (chargeTile b c)

/-- How a collation ends: VOID for an overflow (R64) or a wrong number of judgements, or Table 2.8. -/
def endOf (evOvf : Bool) (h : TileHdr) (t : Tally) : Ended :=
  if evOvf then .void .eventOverflow
  else if tallySum t ≠ h.subM * h.subN then .void .program
  else .judged (tallyVerdict t)

/-- The instance has finished its tile: the verdict is formed from the tallies that its cores' TDONEs submitted. -/
def tileDone (b : Block) (c id : Nat) : Block :=
  let cores := instCores b c
  let tally := foldOver (fun t i => tallyAdd t (getCore b i).sent) ({} : Tally) cores
  let ovf := cores.any fun i => (getCore b i).evOvf
  let b1 := clearTile b c
  match findTile b.ver.tiles id with
  | none => lateTrims cores b1
  | some t =>
    let e := endOf ovf t.hdr tally
    let b2 := match e with
      | .judged _ => modTile b1 id fun x =>
          { x with note := { x.note with firstBad := tally.firstBad.map (wholeIndex t.hdr), notMatch := tallyBad tally,
                                         within := tally.firstDoubt.elim false Prod.snd } }
      | .void _ => b1
    lateTrims cores (endCollation b2 id c e)

/-- TDONE submits the core's tally and clears it; the verdict is formed at the instance's last one.  A trim that waited for this
core acts now: the tile is withdrawn from the cores that still run it (R83, R84). -/
def effTdone (c : Nat) (b : Block) : Block :=
  let k := getCore b c
  match k.tile with
  | none => advance b c
  | some id =>
    if k.tdone then advance b c
    else
      let b0 := stepCore b c fun k => { k with tdone := true, sent := k.tally, tally := {} }
      let b1 := count (coreNote b0 c 0x02 0) (coreCounter c 1) 1
      if (instCores b1 c).all fun i => (getCore b1 i).tdone then tileDone b1 c id
      else if k.trimAtTdone then withdrawForTrim b1 c
      else b1

/-- TDONE. -/
def execTdone (core : Fin 512) (s : State) : Host.Outcome State Fault Refusal :=
  act s (issue core.val neverStalled (effTdone core.val))

end Sys2Proof.Machine
end

