-- ==== Sys2Proof/Machine/Frames.lean ====
section
/-!
DEFINITION. Machine/Frames.lean: how a data frame is received: the DSEQ of its hop (R126), turned frames at a gap (R120), the
way on to its DEST (R119), its trailer (R112), and what its transfer brings (R145, R194, R211, R212).
-/

namespace Sys2Proof.Machine

/-- A binding transfer is whole at its DEST; one with a reserved KIND or STATUS is dropped (R113). -/
def wholeXfer (port : Nat) (f : DataFrame) (l : List Byte) (use : Xfer → Block → Block) (b : Block) : Block :=
  match xferOf l f.tenant f.src (ownPlace b) f.stream with
  | none => dropCell b port
  | some x => use x b

/-- A transfer is whole at its DEST.  A BIND_READ and a DIGEST are one frame each (R212, R213). -/
def wholeTransfer (port : Nat) (ty : FrameType) (f : DataFrame) (l : List Byte) (b : Block) : Block :=
  match ty with
  | .bindWrite => wholeXfer port f l effBindWrite b
  | .bindRead => effBindRead (readOf l f.tenant f.src) b
  | .bindData => wholeXfer port f l effBindData b
  | .digest => effDigest f.tenant.val (digestOf l) b
  | .bcast info => bcastTake info f l b
  | .bcastAck => effBcastAck f.src f.stream (nthD 0 l 0 == 0) b

/-- A unicast frame at its DEST: a trailer that fails drops it (R112). -/
def frameHere (port : Nat) (ty : FrameType) (f : DataFrame) (b : Block) : Block :=
  if f.crc ≠ frameCrc ty f then dropCell b port
  else
    match takeChunk b ty f with
    | (b1, some l) => wholeTransfer port ty f l b1
    | (b1, none) => b1

/-- A frame that has reached this member: a broadcast is taken and passed on, a unicast frame is taken at its DEST and elsewhere
goes on toward it (R119, R145). -/
def takeFrameAt (port : Nat) (ty : FrameType) (f : DataFrame) (b : Block) : Block :=
  match ty with
  | .bcast info => onBcast port info f b
  | .bindWrite | .bindRead | .bindData | .digest | .bcastAck =>
    if trayOf f.dest = ownPlace b then frameHere port ty f b else routeFrame b ty f

/-- A turned frame passes on without processing; the member beside the gap clears TURNED and takes it as though it had crossed
the gap (R120). -/
def takeTurnedFrame (port : Nat) (ty : FrameType) (f : DataFrame) (b : Block) : Block :=
  let far := turnHop (portHop port)
  if !f.turned then takeFrameAt port ty f b
  else if turnEnds b port then takeFrameAt (hopPort b far) ty { f with turned := false } b
  else sendFrameOn b far ty f

/-- How far a DSEQ lies beyond the last one accepted, modulo 65,536. -/
def dseqAhead (hop : Hop) (dseq : W16) : Nat := (dseq - hop.dseqRx).toNat

/-- A data frame is received: a later copy of a DSEQ, from a replay on the other rail, is dropped and counted (R126). -/
def receiveFrame (port : Nat) (ty : FrameType) (f : DataFrame) (b : Block) : Block :=
  let h := portHop port
  let hop := getHop b h
  let d := dseqAhead hop f.dseq
  if hop.drxAny && (d == 0 || decide (32768 ≤ d)) then dupCell b port
  else takeTurnedFrame port ty f (setHop b h { hop with dseqRx := f.dseq, drxAny := true })

/-- BIND_WRITE (R210, R211, R214). -/
def execBindWrite (port : Fin 8) (f : DataFrame) (s : State) : Host.Outcome State Fault Refusal :=
  act s (receiveFrame port.val .bindWrite f)

/-- BIND_READ (R205, R212). -/
def execBindRead (port : Fin 8) (f : DataFrame) (s : State) : Host.Outcome State Fault Refusal :=
  act s (receiveFrame port.val .bindRead f)

/-- BIND_DATA (R211, R212). -/
def execBindData (port : Fin 8) (f : DataFrame) (s : State) : Host.Outcome State Fault Refusal :=
  act s (receiveFrame port.val .bindData f)

/-- DIGEST (R194-R196, R213). -/
def execDigest (port : Fin 8) (hdr : FrameHdr) (payload : List Byte) (crc : W32) (s : State) : Host.Outcome State Fault Refusal :=
  act s (receiveFrame port.val .digest { toFrameHdr := hdr, payload := payload, crc := crc })

/-- BCAST (R145, R146). -/
def execBcast (port : Fin 8) (info : BcastInfo) (f : DataFrame) (s : State) : Host.Outcome State Fault Refusal :=
  act s (receiveFrame port.val (.bcast info) f)

/-- BCAST_ACK (R146). -/
def execBcastAck (port : Fin 8) (hdr : FrameHdr) (body : FrameBody) (s : State) : Host.Outcome State Fault Refusal :=
  act s (receiveFrame port.val .bcastAck { toFrameHdr := hdr, toFrameBody := body })

end Sys2Proof.Machine
end

