-- ==== Sys2Proof/Machine/Host.lean ====
section
/-!
DEFINITION. Machine/Host.lean: the commands of chapter 13 at the host interface: host and storage link events, command
rings, tenants, IDENTIFY and the interrupt registers.
-/

namespace Sys2Proof.Machine

/-! ## Link events (R335, R337-R339, R400) -/

/-- HOST_LINK_DOWN: a link-down, a hot reset or HOST_PERST_N low resets HOSTn of every PF on the link (R337, R400). -/
def effHostLink (link : Nat) (b : Block) : Block := each (linkPfs b.ident.hostSplit link) (hostLost 1) b

def execHostLinkDown (link : Fin 4) (ev : HostLinkEvent) (s : State) : Host.Outcome State Fault Refusal :=
  act s (effHostLink link.val)

/-- FLR: HOSTn alone (R337). -/
def execFlr (pf : Fin 4) (s : State) : Host.Outcome State Fault Refusal := act s (hostLost 2 pf.val)

/-- A virtual function that its PF offers at present. -/
def vfThere (b : Block) (pf vf : Nat) : Bool := (getPf b pf).sriov && decide (1 ≤ vf) && decide (vf ≤ (getPf b pf).numVfs)

/-- VF_FLR: the VF's rings are disabled, the statuses of its commands are discarded and its interrupt state is cleared;
its commands run on (R337). -/
def effVfFlr (pf : Fin 4) (vf : Fin 257) (b : Block) : Block :=
  if !vfThere b pf.val vf.val then b
  else
    let mine (i : Issuer) : Bool := i.pf == pf && i.vf == vf
    let h := { b.host with outstanding := b.host.outstanding.filter fun c => !mine c.iss,
                           done := b.host.done.filter fun r => !mine r.iss,
                           rings := b.host.rings.map fun x =>
                             if x.1 = .vf pf vf then (x.1, x.2.1, { x.2.2 with en := false }) else x }
    let b1 := modVf { b with host := h } pf.val vf.val fun r => { r with intPend := 0, intEn := 0 }
    raise b1 (.hl pf.val) 3 (aboutPf b1 pf.val)

def execVfFlr (pf : Fin 4) (vf : Fin 257) (s : State) : Host.Outcome State Fault Refusal := act s (effVfFlr pf vf)

/-- Unbinds a VF from its tenant, which is not affected (R338). -/
def unbindVf (b : Block) (pf vf : Nat) : Block :=
  match (getVf b pf vf).tenant with
  | none => b
  | some t => modTen (modVf b pf vf fun r => { r with tenant := none }) t fun r => { r with vf := 0 }

/-- Binds a VF to a tenant. -/
def bindVf (b : Block) (pf vf t : Nat) : Block :=
  modTen (modVf b pf vf fun r => { r with tenant := some t }) t fun r => { r with vf := vf }

/-- SRIOV_CHANGE: SR-IOV disabled, or NumVFs lowered, unbinds the VFs that are no longer there (R338). -/
def effSriov (pf : Nat) (on : Bool) (n : Nat) (b : Block) : Block :=
  let b1 := modPf b pf fun r => { r with sriov := on, numVfs := n }
  let gone := ((getPf b1 pf).vfs.map Prod.fst).filter fun v => !vfThere b1 pf v
  each gone (fun v b => unbindVf b pf v) b1

def execSriovChange (pf : Fin 4) (enabled : Bool) (numVfs : Fin 257) (s : State) : Host.Outcome State Fault Refusal :=
  act s (effSriov pf.val enabled numVfs.val)

/-- The GLT's internal bus range, with the drives' queues and its data buffers (R340). -/
def internalBus : Nat := 0xF00000000000

/-- A memory write of a drive: to the GLT's own range it ends here, anywhere else it goes upstream as the administrating PF's
(R340). -/
def driveWrite (addr : Nat) (bytes : List Byte) (b : Block) : Block :=
  if internalBus ≤ addr then b else emit b (.hostWrite b.ident.adminPf addr bytes)

/-- A memory read of a drive, routed alike. -/
def driveRead (addr len : Nat) (b : Block) : Block :=
  if internalBus ≤ addr then b else emit b (.upstreamRead b.ident.adminPf addr len)

/-- STORAGE_LINK_EVENT: RP_ERR and the end of a cold copy on the drive; a link that trains is enumerated (R339); a drive's memory
requests are routed by address (R340). -/
def effStorage (d : Nat) (ev : StorEvent) (b : Block) : Block :=
  match ev with
  | .linkDown => storageLost d true d b
  | .timeout => storageLost 4 false d b
  | .surprise => storageLost 5 true d b
  | .trained => if (getDom b 19).inReset then b else modDrive b d fun x => { x with trained := true, ready := x.en }
  | .memWrite addr bytes => onlyIf (getDrive b d).trained (driveWrite addr bytes) b
  | .memRead addr len => onlyIf (getDrive b d).trained (driveRead addr len) b

def execStorageLinkEvent (drive : Fin 4) (ev : StorEvent) (s : State) : Host.Outcome State Fault Refusal :=
  act s (effStorage drive.val ev)

/-- HOST_AER_ERROR: HL_ERR of the link's PFs; a correctable error counts (Tables 13.13, 14.1). -/
def effAer (uncorrectable : Bool) (pf : Nat) (b : Block) : Block :=
  if uncorrectable then raise b (.hl pf) 5 (aboutPf b pf) else raise (count b (pfCounter pf 7) 1) (.hl pf) 6 (aboutPf b pf)

def execHostAerError (link : Fin 4) (uncorrectable : Bool) (s : State) : Host.Outcome State Fault Refusal :=
  act s fun b => each (linkPfs b.ident.hostSplit link.val) (effAer uncorrectable) b

/-! ## Command rings (R341-R345) -/

/-- A ring register that exists: 16 rings of a PF, 4 of a VF that is there. -/
def ringThere (b : Block) (s : Src) (ring : Nat) : Bool :=
  match s with
  | .pf _ => true
  | .vf p v => vfThere b p.val v.val && decide (ring < 4)

/-- The error flags of a ring's function are those of its PF (R337, R342). -/
def hlErr (b : Block) (s : Src) (i : Nat) : Block := raise b (.hl (srcPf s)) i (aboutPf b (srcPf s))

/-- CR_SQ_TAIL: a doorbell; beyond the queue the ring fetches nothing more (R342). -/
def effSqTail (s : Src) (ring : Nat) (v : Nat) (b : Block) : Block :=
  if !ringThere b s ring then b
  else
    let x := v % 4096
    if 2 ^ (getCr b s ring).sqLog ≤ x then hlErr (modCr b s ring fun c => { c with sqTail := x, error := true }) s 4
    else modCr b s ring fun c => { c with sqTail := x }

def execCrSqTail (src : Src) (ring : Fin 16) (val : W32) (s : State) : Host.Outcome State Fault Refusal :=
  act s (effSqTail src ring.val val.toNat)

/-- A ring that is set: it starts at the head of both queues, and its error is gone (R342). -/
def startRing (c : CRing) : CRing :=
  { c with en := true, error := false, stalled := false, fenceWait := false, sqTail := 0, sqHead := 0, cqHead := 0, cqTail := 0,
           phase := true, coalPending := 0 }

/-- CR_CTRL: a set that has no queues, or a status queue smaller than the submission queue, is refused, as the ring `c` stood before
the write (R341, R10); EN that is set already stays set. -/
def effCrCtrlOn (c : CRing) (s : Src) (ring : Nat) (v : W32) (b : Block) : Block :=
  let en := v.getLsbD 0
  if !ringThere b s ring then b
  else if en && !c.en && (c.sqBase == 0 || c.cqBase == 0 || decide (c.cqLog < c.sqLog)) then hlErr b s 0
  else
    let vec := field v 8 5
    let okVec := vec == 0 || (srcIsPf s && decide (16 ≤ vec))
    let b1 := modCr b s ring fun c => if !en then { c with en := false } else if c.en then c else startRing c
    let b2 := if okVec then modCr b1 s ring fun c => { c with vector := vec } else hlErr b1 s 0
    if field v 16 8 = 0 then hlErr b2 s 0 else modCr b2 s ring fun c => { c with maxOut := field v 16 8 }

/-- CR_CTRL. -/
def effCrCtrl (s : Src) (ring : Nat) (v : W32) (b : Block) : Block := effCrCtrlOn (getCr b s ring) s ring v b

def execCrCtrlWrite (src : Src) (ring : Fin 16) (val : W32) (s : State) : Host.Outcome State Fault Refusal :=
  act s (effCrCtrl src ring.val val)

/-- A status queue is full when one more reply would meet the head (DESIGN CHOICE: the phase bit alone would allow all of
its entries). -/
def cqFull (c : CRing) : Bool := (c.cqTail + 1) % 2 ^ c.cqLog == c.cqHead

/-- A ring's stall ends once there is room: its time is counted (R345, Table 14.1). -/
def endStall (b : Block) (s : Src) (ring : Nat) : Block :=
  let c := getCr b s ring
  if c.stalled && !cqFull c then
    count (setCr b s ring { c with stalled := false }) (pfCounter (srcPf s) 6) (nowNs b - c.stalledAt)
  else b

/-- CR_CQ_HEAD: replies consumed (R345); an index beyond the queue is refused (R10). -/
def effCqHead (s : Src) (ring : Nat) (v : Nat) (b : Block) : Block :=
  if !ringThere b s ring then b
  else if 2 ^ (getCr b s ring).cqLog ≤ v % 4096 then hlErr b s 0
  else endStall (modCr b s ring fun c => { c with cqHead := v % 4096 }) s ring

def execCrCqHead (src : Src) (ring : Fin 16) (val : W32) (s : State) : Host.Outcome State Fault Refusal :=
  act s (effCqHead src ring.val val.toNat)

/-! ### Fetching (R342, R343) -/

/-- A command issued on a ring. -/
def ofRing (s : Src) (ring : Nat) (i : Issuer) : Bool := issSrc i == s && i.ring.val == ring

/-- Commands outstanding on a ring. -/
def ringOut (b : Block) (s : Src) (ring : Nat) : List CmdOut := b.host.outstanding.filter fun c => ofRing s ring c.iss

/-- The number of a function in the round-robin order. -/
def fnNo : Src → Nat
  | .pf p => 257 * p.val
  | .vf p v => 257 * p.val + v.val

/-- A ring from which the GLT may fetch. -/
def ringReady (b : Block) (x : Src × Nat × CRing) : Bool :=
  let c := x.2.2
  let out := (ringOut b x.1 x.2.1).length
  c.en && !c.error && !c.stalled && decide (c.sqHead ≠ c.sqTail) && decide (out < c.maxOut) && !(c.fenceWait && out != 0) &&
    !(getDom b (20 + srcPf x.1)).inReset

/-- The next number from a position on, round again from the least. -/
def roundFrom (l : List Nat) (pos : Nat) : Option Nat :=
  (listMin? (l.filter fun x => decide (pos ≤ x))).orElse fun _ => listMin? l

/-- The ring that is fetched from next: round-robin across functions and across the rings of a function (R342); none while
firmware does not run or 2,048 commands are outstanding. -/
def nextFetch (b : Block) : Option (Nat × Nat) :=
  if !fwRuns b || b.host.outstanding.length ≥ 2048 then none
  else
    let l := b.host.rings.filter (ringReady b)
    (roundFrom (l.map fun x => fnNo x.1) b.host.nextFn).bind fun f =>
      (roundFrom ((l.filter fun x => fnNo x.1 == f).map fun x => x.2.1) (tabGet 0 b.host.nextRing f)).map fun r => (f, r)

/-- The assigned opcodes (Table 13.6). -/
def opcodes : List Nat :=
  [0x0101, 0x0201, 0x0202, 0x0203, 0x0301, 0x0302, 0x0303, 0x0401, 0x0402, 0x0403, 0x0404, 0x0501, 0x0502, 0x0503, 0x0504, 0x0505,
   0x0601, 0x0602, 0x0603, 0x0604, 0x0605, 0x0701, 0x0702, 0x0801, 0x0802, 0x0803, 0x0804, 0x0805, 0x0901, 0x0902]

/-- The commands whose packet names a tenant; COUNTERS_READ and MARGIN_READ name one in some of their forms. -/
def namesTenant (op : Nat) : Bool :=
  decide (op / 256 = 2) || decide (op / 256 = 3) || decide (op / 256 = 4) || decide (op / 256 = 5) ||
    [0x0601, 0x0602, 0x0604].contains op
def mayNameTenant (op : Nat) : Bool := namesTenant op || op == 0x0801 || op == 0x0802

/-- The header checks of R343, in order: the first status that applies, and whether it is for a repeated TAG. -/
def headerFault (b : Block) (s : Src) (ring : Nat) (p : PacketHdr) : Option (Byte × Bool) :=
  let op := p.opcode.toNat
  let own : Option (Option Nat) := match s with
    | .pf _ => none
    | .vf q v => some (getVf b q.val v.val).tenant
  if !opcodes.contains op then some (stBadOpcode, false)
  else if (ringOut b s ring).any fun c => c.iss.tag == p.tag then some (stBadParam, true)
  else if p.rsv then some (stBadParam, false)
  else if own = some none then some (stNotAuthorised, false)
  else if own.isSome && mayNameTenant op && own != some (some p.tenant.toNat) then some (stTenantMismatch, false)
  else if namesTenant op && op != 0x0201 && !(getTen b p.tenant.toNat).exists' then some (stBadParam, false)
  else none

/-- The issuer that a packet of a ring names, under the PF's present edition (R274). -/
def issuerOf (b : Block) (s : Src) (ring : Fin 16) (p : PacketHdr) : Issuer :=
  let pf : Fin 4 := match s with
    | .pf n => n
    | .vf n _ => n
  let vf : Fin 257 := match s with
    | .pf _ => 0
    | .vf _ v => v
  { pf := pf, vf := vf, ring := ring, tag := p.tag, tenant := Fin.ofNat 1024 p.tenant.toNat,
    edition := (getDom b (20 + pf.val)).edition }

/-- The packet is taken: it is outstanding, or is answered at once. -/
def takePacket (s : Src) (ring : Fin 16) (p : PacketHdr) (b : Block) : Block :=
  let iss := issuerOf b s ring p
  let b1 := modCr b s ring.val fun c => { c with sqHead := (c.sqHead + 1) % 2 ^ c.sqLog, fenceWait := false }
  let b2 := count (count b1 (pfCounter (srcPf s) 0) 1) (pfCounter (srcPf s) 3) 64
  let b3 := fwLog 0 b2
  let add (b : Block) : Block :=
    let c : CmdOut := { iss := iss, opcode := p.opcode, fence := p.fence, quiet := p.quiet, early := p.early }
    { b with host := { b.host with outstanding := b.host.outstanding ++ [c] } }
  match headerFault b s ring.val p with
  | none => add b3
  | some (st, false) => complete (add b3) iss p.opcode.toNat st
  | some (st, true) =>
    let r : Reply := { iss := iss, opcode := p.opcode, status := st, dup := true, quiet := p.quiet, time := nowNs b }
    { b3 with host := { b3.host with done := b3.host.done ++ [r] } }

/-- COMMAND_FETCH: the packet `p` at the head of the ring whose turn it is.  A packet with FENCE waits until every earlier
command of its ring has completed (R344). -/
def effFetch (s : Src) (ring : Fin 16) (p : PacketHdr) (b : Block) : Block :=
  if nextFetch b ≠ some (fnNo s, ring.val) then b
  else
    let h := { b.host with nextFn := fnNo s + 1, nextRing := tabPut b.host.nextRing (fnNo s) (ring.val + 1) }
    let b1 := { b with host := h }
    if p.fence && !(ringOut b s ring.val).isEmpty then modCr b1 s ring.val fun c => { c with fenceWait := true }
    else takePacket s ring p b1

def execCommandFetch (src : Src) (ring : Fin 16) (p : PacketHdr) (s : State) : Host.Outcome State Fault Refusal :=
  act s (effFetch src ring p)

/-! ### Replies (R344, R345, R353, R354) -/

/-- The interrupt of a ring's replies: vector as CR_CTRL names, while group 0 is enabled. -/
def sendCoal (b : Block) (s : Src) (ring : Nat) : Block :=
  let c := getCr b s ring
  let b1 := setCr b s ring { c with coalPending := 0 }
  match s with
  | .pf p => if (getPf b p.val).intEn.getLsbD 0 then msix b1 p.val 0 c.vector else b1
  | .vf p v => if (getVf b p.val v.val).intEn.getLsbD 0 then msix b1 p.val v.val c.vector else b1

/-- A reply without QUIET: group 0 of its function, and CR_COAL (R353, R354). -/
def replyInterrupt (b : Block) (s : Src) (ring : Nat) : Block :=
  let c := getCr b s ring
  let b1 := match s with
    | .pf p => modPf b p.val fun r => { r with intPend := putBit r.intPend 0 true, lastVec := c.vector }
    | .vf p v => modVf b p.val v.val fun r => { r with intPend := putBit r.intPend 0 true }
  let b2 := setCr b1 s ring { c with coalPending := c.coalPending + 1, coalSince := if c.coalPending = 0 then nowNs b else c.coalSince }
  if c.coalN ≤ c.coalPending + 1 then sendCoal b2 s ring else b2

/-- A status entry is written (Table 13.4): the phase bit inverts at each wrap. -/
def writeStatus (b : Block) (s : Src) (ring : Nat) (r : Reply) (quiet : Bool) : Block :=
  let c := getCr b s ring
  let tail := (c.cqTail + 1) % 2 ^ c.cqLog
  let b1 := setCr (emit b (.status r c.phase)) s ring { c with cqTail := tail, phase := if tail = 0 then !c.phase else c.phase }
  let pf := srcPf s
  let b2 := count b1 (pfCounter pf 4) 32
  let b3 := if r.interim then b2 else count b2 (pfCounter pf 1) 1
  let b4 := if r.interim || r.status = stOk then b3 else count b3 (pfCounter pf 2) 1
  if quiet then b4 else replyInterrupt b4 s ring

/-- The command of a reply. -/
def cmdOf (b : Block) (r : Reply) : Option CmdOut := b.host.outstanding.find? fun c => c.iss == r.iss && c.opcode == r.opcode

/-- A reply whose turn it is: it is written when its ring has room, and STALLED shows when it has none; the reply of a command
that is no longer outstanding is dropped (R274, R337). -/
def sendReply (b : Block) (s : Src) (ring : Nat) (r : Reply) : Block :=
  let h := { b.host with done := b.host.done.erase r }
  let c := getCr b s ring
  let full := setCr b s ring { c with stalled := true, stalledAt := if c.stalled then c.stalledAt else nowNs b }
  match cmdOf b r with
  | none =>
    if !r.dup then { b with host := h }
    else if !c.en then b
    else if cqFull c then full
    else writeStatus { b with host := h } s ring r r.quiet
  | some k =>
    if !c.en then b
    else if cqFull c then full
    else writeStatus { b with host := { h with outstanding := h.outstanding.erase k } } s ring r k.quiet

/-- The interim reply of a command with EARLY that waits (R344). -/
def sendInterim (b : Block) (s : Src) (ring : Nat) (k : CmdOut) : Block :=
  let c := getCr b s ring
  if !c.en || cqFull c then b
  else
    let r : Reply := { iss := k.iss, opcode := k.opcode, status := stPending, interim := true, time := nowNs b }
    let l := b.host.outstanding.map fun x => if x = k then { x with early := false } else x
    writeStatus { b with host := { b.host with outstanding := l } } s ring r k.quiet

/-- COMMAND_REPLY: the first completed command of the ring is answered; with none, the first waiting command with EARLY gets
its interim reply. -/
def effReply (s : Src) (ring : Nat) (b : Block) : Block :=
  match b.host.done.find? fun r => ofRing s ring r.iss with
  | some r => sendReply b s ring r
  | none =>
    match (ringOut b s ring).find? fun c => c.early with
    | some k => sendInterim b s ring k
    | none => b

def execCommandReply (src : Src) (ring : Fin 16) (s : State) : Host.Outcome State Fault Refusal := act s (effReply src ring.val)

/-- CR_COAL_EXPIRY: the time of CR_COAL has passed since the first reply that has had no interrupt (R354). -/
def effCoalExpiry (s : Src) (ring : Nat) (b : Block) : Block :=
  let c := getCr b s ring
  if c.coalPending ≠ 0 && decide (c.coalSince + c.coalUs * 1000 ≤ nowNs b) then sendCoal b s ring else b

def execCrCoalExpiry (src : Src) (ring : Fin 16) (s : State) : Host.Outcome State Fault Refusal :=
  act s (effCoalExpiry src ring.val)

/-! ## IDENTIFY (R352) -/

/-- CAP (Table 13.11). -/
def capReg (b : Block) : W32 :=
  let drives := foldOver (fun v d => v + bit (getDrive b d).trained * 2 ^ d) 0 (upFrom 0 4)
  BitVec.ofNat 32 (b.ident.fittedGib % 4096 + b.ident.hostSplit.toNat * 4096 + drives * 16384)

/-- VERSION and SVN of an image that may be absent. -/
def versionBytes (i : Option FwImage) : List Byte :=
  leBytes 4 ((i.map fun i => i.version.toNat).getD 0) ++ leBytes 4 ((i.map fun i => i.svn).getD 0)

/-- SN_STATE of a slot as the mirror shows it (R256). -/
def snState (b : Block) (n : Nat) : W32 := snReg b n 8

/-- The identity block (Table 13.10). -/
def identityBlock (b : Block) : List Byte :=
  leBytes 4 0x7216 ++ leBytes 4 0xB1 ++ leBytes 8 b.ident.serial.toNat ++ leBytes 4 (capReg b).toNat ++ zeroBytes 4 ++
    leBytes 8 (ownPlace b).toNat ++ leBytes 4 b.fw.version.toNat ++ leBytes 4 b.fw.svn ++
    versionBytes (some (tabGet {} b.col.microcode 0)) ++ versionBytes (bankImage b 2 b.fw.sntBank) ++
    leBytes 4 (bit b.fw.bank + 2 * bit b.fw.pair) ++ zeroBytes 4 ++
    (upFrom 0 16).flatMap (fun n => leBytes 4 (snState b n).toNat) ++ zeroBytes 128 ++
    (Config.deviceCert ++ zeroBytes 256).take 256

/-- IDENTIFY is accepted from every PF and every bound VF. -/
def effIdentify (iss : Issuer) (dest : Nat) (rsv : Bool) (b : Block) : Block :=
  if !isPf iss && (getVf b iss.pf.val iss.vf.val).tenant.isNone then complete b iss 0x0101 stNotAuthorised
  else if rsv || dest % 64 != 0 then complete b iss 0x0101 stBadParam
  else complete (hostWrite b iss dest (identityBlock b)) iss 0x0101 stOk

def execIdentify (iss : Issuer) (dest : Nat) (rsv : Bool) (s : State) : Host.Outcome State Fault Refusal :=
  act s (effIdentify iss dest rsv)

/-! ## Tenants (R348-R351) -/

/-- TENANT_CREATE. -/
def effTenantCreate (iss : Issuer) (p : TenantCreateP) (b : Block) : Block :=
  let t := iss.tenant.val
  let done := complete b iss 0x0201
  if !isPf iss then done stNotAuthorised
  else if p.rsv || decide (p.vf > 256) || !(decide (1 ≤ p.ranks) && decide (p.ranks ≤ 262144)) || decide (p.s > 64) then
    done stBadParam
  else if (getTen b t).exists' || (p.vf != 0 && (getVf b iss.pf.val p.vf).tenant.isSome) then done stRefused
  else if p.vf != 0 && !vfThere b iss.pf.val p.vf then done stBadParam
  else
    let r : TenantRec := { exists' := true, creatingPf := iss.pf.val, ranks := p.ranks, s := if p.s = 0 then 2 else p.s }
    let b1 := { setTen b t r with spine := { b.spine with chans := tabDel b.spine.chans t } }
    let b2 := if p.vf = 0 then b1 else bindVf b1 iss.pf.val p.vf t
    complete (fwLog 1 b2) iss 0x0201 stOk

def execTenantCreate (iss : Issuer) (p : TenantCreateP) (s : State) : Host.Outcome State Fault Refusal :=
  act s (effTenantCreate iss p)

/-- A hold of the tenant goes with it: one not yet taken is withdrawn at the sentinels (R268), and the slots of one that has
been taken are released (DESIGN CHOICE). -/
def endHold (b : Block) (t : Nat) : Block :=
  if (getTen b t).hold.phase = .scheduled then dropHold b t
  else if holdActive (getTen b t).hold then
    each (lowerable b (getTen b t)) (fun n b => tellSn b n (.releaseAt (nowNs b))) b
  else b

/-- The slots that a tenant leaves serve nobody. -/
def leaveSlot (n : Nat) (b : Block) : Block :=
  modSlot b n fun r => if r.role = roleActive then { r with role := roleIdle, tenant := 0, regions := [] } else r

/-- What the binding engine and the Spine engine hold for a tenant is freed (R217, R351). -/
def freeEngines (b : Block) (t : Nat) : Block :=
  let d := { b.bd with xfersOut := b.bd.xfersOut.filter fun x => x.x.tenant.val != t,
                       readsOut := b.bd.readsOut.filter fun x => x.req.tenant.val != t,
                       rebuilds := b.bd.rebuilds.filter fun x => x.tenant != t,
                       jobs := b.bd.jobs.filter fun x => x.tenant != t,
                       cold := b.bd.cold.filter fun x => x.tenant != t,
                       groupPushes := b.bd.groupPushes.filter fun x => field x.1 54 10 != t,
                       pushed := b.bd.pushed.filter fun h => field h 54 10 != t }
  let s := { b.spine with chans := tabDel b.spine.chans t, bcasts := b.spine.bcasts.filter fun x => x.tenant != t }
  dropExtents { b with bd := d, spine := s } fun e => e.tenant == t

/-- Everything of a tenant is freed: its gatherings, bindings, load area, records, verdicts, channels and hold; tiles that
run go on to TDONE and their verdicts are discarded (R103, R197, R217, R351). -/
def freeTenant (b : Block) (t : Nat) : Block :=
  let r := getTen b t
  let slots := tenantSlots b r
  let b1 := each slots (fun n b => abandonSlot b n false true) (endHold b t)
  let b2 := each slots leaveSlot (freeEngines b1 t)
  let b3 := if r.vf = 0 then b2 else unbindVf b2 r.creatingPf r.vf
  let v := { b3.ver with tiles := b3.ver.tiles.filter fun x => x.hdr.tenant.val != t }
  let c := { b3.col with slots := b3.col.slots.map fun x => if x.2.tenant = t then (x.1, { x.2 with loadIss := none }) else x }
  { b3 with ver := v, col := c, tenants := tabDel b3.tenants t }

/-- TENANT_DESTROY: the tenant's other commands complete with WITHDRAWN first. -/
def effTenantDestroy (iss : Issuer) (rsv : Bool) (b : Block) : Block :=
  let t := iss.tenant.val
  let done := complete b iss 0x0202
  if !fromOwnerPf b iss then done stNotAuthorised
  else if rsv || !(getTen b t).exists' then done stBadParam
  else
    let mine (c : CmdOut) : Bool := c.iss.tenant.val == t && namesTenant c.opcode.toNat && c.iss != iss
    complete (freeTenant (finishOutstanding (fwLog 1 b) mine stWithdrawn) t) iss 0x0202 stOk

def execTenantDestroy (iss : Issuer) (rsv : Bool) (s : State) : Host.Outcome State Fault Refusal :=
  act s (effTenantDestroy iss rsv)

/-- The signed bytes of a certificate (Table 13.9). -/
def certBody (c : Cert) : List Byte :=
  leBytes 4 c.magic.toNat ++ leBytes 2 c.formatVer.toNat ++ zeroBytes 2 ++ leBytes 8 c.serial.toNat ++ c.key ++ zeroBytes 48

/-- A certificate that the security block accepts (R350). -/
def certOk (c : Cert) : Bool := c.magic == 0x54524543 && c.formatVer == 1 && Config.certificateOk (certBody c) c.sig

/-- No two entries of a list are the same. -/
def noRepeats {α : Type} [DecidableEq α] : List α → Bool
  | [] => true
  | x :: r => !r.contains x && noRepeats r

/-- Every certificate entry names a tray with a well-formed place (R19, Table 13.8), and every tray named has exactly one entry
(R350). -/
def certsCover (p : SetPlacesP) : Bool :=
  (p.certs.all fun c => placeOk c.1 && placeLevel c.1 == 2) &&
    p.places.all fun x => (p.certs.filter fun c => c.1 == trayOf x).length == 1

/-- The place list takes effect: slots that start to serve become ACTIVE with the tenant's sampling policy, slots that stop
are idle, and rounds that waited for the list go on (R136, R350, R374). -/
def putPlaces (b : Block) (t : Nat) (p : SetPlacesP) : Block :=
  let old := tenantSlots b (getTen b t)
  let parts := foldOver (fun l x => withEntry l (trayOf x)) [] p.places
  let b1 := modTen b t fun r => { r with places := p.places, certs := p.certs.filter fun c => parts.contains c.1 }
  let new := tenantSlots b1 (getTen b1 t)
  let b2 := each (old.filter fun n => !new.contains n) leaveSlot b1
  let b3 := each (new.filter fun n => !old.contains n) (fun n b => sendPolicy (activateSlot b n t) t n) b2
  let b4 := kickRed t (pumpChan t b3)
  pumpVotes t (each [0, 1, 2, 3] (fun g b => pumpBar t g b) b4)

/-- ACTION 0 of TENANT_SET_PLACES (R350). -/
def setPlaces (iss : Issuer) (p : SetPlacesP) (b : Block) : Block :=
  let t := iss.tenant.val
  let r := getTen b t
  let done := complete b iss 0x0203
  if p.count ≠ r.ranks || p.places.length ≠ p.count || !(decide (1 ≤ p.certs.length) && decide (p.certs.length ≤ 16384)) then
    done stBadParam
  else if !(tenantHeld b t || !r.released0) then done stRefused
  else if !(p.places.all fun x => placeOk x && placeLevel x == 1) then done stBadParam
  else if !certsCover p then done stBadParam
  else if !(p.certs.all fun c => certOk c.2) || !noRepeats (p.certs.map fun c => c.2.serial) then
    complete (raise b (.sec 0) 3 (aboutTen b t)) iss 0x0203 stNotAuthorised
  else complete (putPlaces (fwLog 1 b) t p) iss 0x0203 stOk

/-- ACTION 1 of TENANT_SET_PLACES: BIND_VF binds as TENANT_CREATE does (R350). -/
def bindPlaces (iss : Issuer) (p : SetPlacesP) (b : Block) : Block :=
  let t := iss.tenant.val
  let r := getTen b t
  let done := complete b iss 0x0203
  if !(decide (1 ≤ p.vf) && decide (p.vf ≤ 256)) then done stBadParam
  else if r.vf ≠ 0 || (getVf b r.creatingPf p.vf).tenant.isSome then done stRefused
  else if !vfThere b r.creatingPf p.vf then done stBadParam
  else complete (bindVf (fwLog 1 b) r.creatingPf p.vf t) iss 0x0203 stOk

/-- TENANT_SET_PLACES. -/
def effSetPlaces (iss : Issuer) (p : SetPlacesP) (b : Block) : Block :=
  if !fromOwnerPf b iss then complete b iss 0x0203 stNotAuthorised
  else if p.rsv || p.action.toNat > 1 || !(getTen b iss.tenant.val).exists' then complete b iss 0x0203 stBadParam
  else if p.action = 0 then setPlaces iss p b
  else bindPlaces iss p b

def execTenantSetPlaces (iss : Issuer) (p : SetPlacesP) (s : State) : Host.Outcome State Fault Refusal :=
  act s (effSetPlaces iss p)

/-! ## Interrupt registers (R353, R354, Table 13.14) -/

/-- INT_PEND: writing 1 clears; the leaf bits stay (R353). -/
def effIntPend (pf : Nat) (v : W32) (b : Block) : Block :=
  modPf b pf fun r => { r with intPend := r.intPend &&& ~~~(v.setWidth 16) }

def execIntPendWrite (pf : Fin 4) (val : W32) (s : State) : Host.Outcome State Fault Refusal := act s (effIntPend pf.val val)

/-- Sends the vectors of groups that are enabled while they are pending; group 0 goes to the vector of the ring that replied
last. -/
def sendPending (pf : Nat) (b : Block) : Block :=
  let r := getPf b pf
  each ((setBits 16 r.intEn.toNat).filter fun g => r.intPend.getLsbD g)
    (fun g b => msix b pf 0 (if g = 0 then r.lastVec else g)) b

/-- INT_EN: groups that are pending when they are enabled send their vectors (R354). -/
def effIntEn (pf : Nat) (v : W32) (b : Block) : Block := sendPending pf (modPf b pf fun r => { r with intEn := v.setWidth 16 })

def execIntEnWrite (pf : Fin 4) (val : W32) (s : State) : Host.Outcome State Fault Refusal := act s (effIntEn pf.val val)

/-- VF_INT_PEND: writing 1 clears. -/
def execVfIntPendWrite (pf : Fin 4) (vf : Fin 257) (val : W32) (s : State) : Host.Outcome State Fault Refusal :=
  act s fun b =>
    if vfThere b pf.val vf.val then modVf b pf.val vf.val fun r => { r with intPend := r.intPend &&& ~~~(val.setWidth 4) }
    else b

/-- VF_INT_EN: as INT_EN, for the four groups of the VF. -/
def effVfIntEn (pf vf : Nat) (v : W32) (b : Block) : Block :=
  let b1 := modVf b pf vf fun r => { r with intEn := v.setWidth 4 }
  let r := getVf b1 pf vf
  each ((setBits 4 r.intEn.toNat).filter fun i => r.intPend.getLsbD i) (fun i b => msix b pf vf i) b1

end Sys2Proof.Machine
end

