-- ==== Sys2Proof/Machine/Resets.lean ====
section
/-!
DEFINITION. Machine/Resets.lean: the reset domains of a GLT (R270-R274): their registers' writes, and a reset's assertion and
completion.
-/

namespace Sys2Proof.Machine

/-- The offset of RS_DOMd in BAR0. -/
def rsDomOff (d : Nat) : Nat := 0xA0100 + 4 * d

/-- A reset is asserted and kept. -/
def holdDom (b : Block) (d : Nat) : Block := assertDom (modDom b d fun r => { r with holdReset := true }) d

/-- A kept reset is released: the reset completes; a withdrawn domain stays in reset (R271). -/
def releaseDom (b : Block) (d : Nat) : Block :=
  finishDom (modDom b d fun r => { r with holdReset := false, pulseEnd := none }) d

/-- A reset is asserted for 1 µs. -/
def pulseDom (b : Block) (d : Nat) : Block :=
  if (getDom b d).inReset then b else modDom (assertDom b d) d fun r => { r with pulseEnd := some (nowNs b + 1000) }

/-- HOLD_RESET; refused for the AON domain. -/
def effHoldReset (d : Nat) (on : Bool) (b : Block) : Block :=
  if d = 0 then refuse b .rs
  else if on then holdDom b d
  else if (getDom b d).holdReset then releaseDom b d
  else b

def execHoldReset (pf : Fin 4) (dom : Fin 49) (on : Bool) (s : State) : Host.Outcome State Fault Refusal :=
  act s fun b => adminWrite b pf.val (rsDomOff dom.val) (effHoldReset dom.val on)

/-- PULSE; the AON domain resets only at power-on (R270). -/
def effPulse (d : Nat) (b : Block) : Block := if d = 0 then refuse b .rs else pulseDom b d

def execPulse (pf : Fin 4) (dom : Fin 49) (s : State) : Host.Outcome State Fault Refusal :=
  act s fun b => adminWrite b pf.val (rsDomOff dom.val) (effPulse dom.val)

/-- READMIT. -/
def execReadmit (pf : Fin 4) (dom : Fin 49) (s : State) : Host.Outcome State Fault Refusal :=
  act s fun b => adminWrite b pf.val (rsDomOff dom.val) fun b => readmitDom b dom.val

/-- The reset of a route's own domain that is due (R276): its route and action. -/
def selfResetDue (b : Block) (d : Nat) : Option (Route × Nat) :=
  if 20 ≤ d ∧ d ≤ 23 then
    let r : Route := .window (Fin.ofNat 4 (d - 20))
    ((getRoute b r).selfResets.find? fun x => decide (x.2 ≤ nowNs b)).map fun x => (r, x.1)
  else none

/-- An action on a domain's reset: 0 asserts and keeps, 1 releases, 2 pulses (Table 10.7). -/
def domAction (b : Block) (d action : Nat) : Block :=
  if action = 0 then holdDom b d
  else if action = 1 then (if (getDom b d).withdrawn then readmitDom b d else releaseDom b d)
  else pulseDom b d

/-- DOMAIN_RESET_ASSERT: a hardware trigger's reset, or the reset of a Kettle route's own domain when its 10 µs are over;
the AON domain has no such trigger. -/
def effResetAssert (d : Nat) (b : Block) : Block :=
  match selfResetDue b d with
  | some (r, a) =>
    domAction (modRoute b r fun k => { k with selfResets := k.selfResets.eraseP fun x => decide (x.2 ≤ nowNs b) }) d a
  | none => assertDom b d

def execDomainResetAssert (dom : Fin 49) (s : State) : Host.Outcome State Fault Refusal := act s (effResetAssert dom.val)

/-- What keeps every domain but AON in reset: PORST_N low, a rail order that broke R399, a latched thermal trip (R413), and
manufacturing test (R403). -/
def allHeld (b : Block) : Bool := !b.pw.porstN || b.pw.sequenceHeld || !b.pw.thermTripN || b.ident.testMode

/-- DOMAIN_RESET_COMPLETE: not while the reset is kept, its pulse runs or every domain is kept.  At the limit of MGMT's resets
control moves to the standby pair (R271). -/
def effResetComplete (d : Nat) (b : Block) : Block :=
  let r := getDom b d
  let pulsing := (r.pulseEnd.map fun t => decide (nowNs b < t)).getD false
  if r.holdReset || pulsing || allHeld b then b
  else finishDom (modDom b d fun r => { r with pulseEnd := none }) d

def execDomainResetComplete (dom : Fin 49) (s : State) : Host.Outcome State Fault Refusal :=
  act s (effResetComplete dom.val)

end Sys2Proof.Machine
end

