-- ==== Sys2Proof/Machine/Kettle.lean ====
section
/-!
DEFINITION. Machine/Kettle.lean: the Kettle operations and the management port (R275-R280, R386, Table 10.7).
-/

namespace Sys2Proof.Machine

/-- An argument of a route's operation in progress. -/
def ktArg (b : Block) (r : Route) (i : Nat) : W32 := nthD 0 (getRoute b r).args i

/-- An operation waits for a slot whose Tether is down (R275). -/
def waitDown (b : Block) (r : Route) (n : Nat) : Block :=
  modRoute b r fun k => { k with waitSlot := some (n, nowNs b), unreached := true }

/-- An operation written at a route's own registers: on the management port it has no frame to answer. -/
def routeOp (r : Route) (op : Nat) (a : KtAuth) (args : List W32) (tok : Option Token) (f : Block → Block) (b : Block) :
    Block :=
  let direct := decide (r = .mgmtPort) && decide ((getRoute b r).phase ≠ .busy)
  kettleOp r op a args tok f (if direct then { b with hr := { b.hr with mgmtLastSeq := none } } else b)

/-! ## Open operations -/

/-- IDENTITY: DEV_ID, STEPPING, SERIAL and the place address. -/
def ktIdentity (r : Route) (b : Block) : Block :=
  endKettleData b r (wordsOf 6 (leBytes 4 0x7216 ++ leBytes 4 0xB1 ++ leBytes 8 b.ident.serial.toNat ++
    leBytes 8 (ownPlace b).toNat))

def execIdentity (r : Route) (args : List W32) (tok : Option Token) (s : State) : Host.Outcome State Fault Refusal :=
  act s (routeOp r 0x01 .open' args tok (ktIdentity r))

/-- A bit per domain. -/
def domMask (b : Block) (f : Domain → Bool) : Nat :=
  foldOver (fun v d => v + bit (f (getDom b d)) * 2 ^ d) 0 (upFrom 0 49)

/-- A PLL is locked. -/
def pllLocked (b : Block) (n : Nat) : Bool := decide ((getPll b n).state = .ready)

/-- HEALTH: domains, locks, pair, die temperature, AON inputs and the heartbeat; the measurements are the parts' own. -/
def ktHealth (r : Route) (b : Block) : Block :=
  let locks := foldOver (fun v n => v + bit (pllLocked b n) * 2 ^ n) 0 (upFrom 0 12)
  let temp := measTemp b (.sensor 0 6)
  let b1 := takeFree b
  let va := measVolt b1
  let b2 := keepMeas (takeFree b1) (.sensor 0 6) temp va
  let vb := measVolt b2
  let b3 := keepMeas (takeFree b2) (.sensor 0 7) temp vb
  endKettleData b3 r (wordsOf 8 (leBytes 8 (domMask b fun d => d.inReset) ++ leBytes 8 (domMask b fun d => d.withdrawn) ++
    leBytes 4 locks ++ leBytes 2 (bit b.fw.pair) ++ leBytes 2 temp.toNat ++ leBytes 2 va.toNat ++ leBytes 2 vb.toNat ++
    leBytes 4 b.fw.heartbeat.toNat))

def execHealth (r : Route) (args : List W32) (tok : Option Token) (s : State) : Host.Outcome State Fault Refusal :=
  act s (routeOp r 0x02 .open' args tok (ktHealth r))

/-- TIME: latched under R156 in the route's own shadow. -/
def ktTime (r : Route) (b : Block) : Block :=
  let b1 := latchTime b (.route r)
  let x := getShadow b1 (.route r)
  endKettleData b1 r (wordsOf 5 (leBytes 4 b.time.nsec ++ leBytes 4 x.sub.toNat ++ leBytes 8 x.sec.toNat ++
    leBytes 4 (stStatus b).toNat))

def execTime (r : Route) (args : List W32) (tok : Option Token) (s : State) : Host.Outcome State Fault Refusal :=
  act s (routeOp r 0x03 .open' args tok (ktTime r))

/-! ## Flyleaf and margin rings -/

/-- FLYLEAF_READ: the on-chip record of SEQ[31:0]. -/
def ktFlyRead (r : Route) (b : Block) : Block :=
  match flyFind b fun s => s % 2 ^ 32 == (ktArg b r 0).toNat with
  | none => endKettle b r stBadParam
  | some x => endKettleData b r (wordsOf 16 (flyBytes x))

def execFlyleafReadKettle (r : Route) (args : List W32) (tok : Option Token) (s : State) :
    Host.Outcome State Fault Refusal :=
  act s (routeOp r 0x10 (.admin 0) args tok (ktFlyRead r))

/-- FLYLEAF_CLEAR: always by a token (R386). -/
def execFlyleafClearKettle (r : Route) (args : List W32) (tok : Option Token) (s : State) :
    Host.Outcome State Fault Refusal :=
  act s (routeOp r 0x11 (.token 1) args tok fun b =>
    endKettle (clearFly b ((tok.map fun t => t.keySlot).getD 0) (routeNo r) true) r stOk)

/-- MARGIN_READ: four records from a core's, a port's or a sentinel engine's ring; what lies beyond the ring reads 0. -/
def ktMargin (r : Route) (b : Block) : Block :=
  let kind := field (ktArg b r 0) 0 2
  let a := (ktArg b r 1).toNat
  let (slot, index) := if kind = 2 then (a / 256, a % 256) else (0, a)
  let units := ((getSlot b slot).decl.map fun d => d.nEngines).getD 0
  let okArg := if kind = 0 then decide (a < 512) else if kind = 1 then decide (a < 24)
    else kind == 2 && decide (a < 4096) && decide (index < units)
  if !okArg then endKettle b r stBadParam
  else if kind = 2 && !(getSn b slot).tetherUp then waitDown b r slot
  else
    let recs := ((marginRing b kind slot index).drop (ktArg b r 2).toNat).take 4
    endKettleData b r (wordsOf 16 (recs.flatMap id ++ zeroBytes (64 - 16 * recs.length)))

def execMarginReadKettle (r : Route) (args : List W32) (tok : Option Token) (s : State) : Host.Outcome State Fault Refusal :=
  act s (routeOp r 0x12 (.admin 2) args tok (ktMargin r))

/-! ## TRIM, SLOT_POWER, RESET, HOLD -/

/-- TRIM: a unit's waits for its TRIM_ACK; a core's writes COL_TRIMn (R83, R250, R276). -/
def ktTrim (r : Route) (b : Block) : Block :=
  let a := ktArg b r 0
  let u := (ktArg b r 1).toNat
  if a.getLsbD 0 then
    if u < 512 then endKettle (trimBit u (a.getLsbD 1) b) r stOk else endKettle b r stBadParam
  else
    let n := u / 4096
    if 16 ≤ n || decide (((getSlot b n).decl.map fun d => d.nUnits).getD 0 ≤ u % 4096) then endKettle b r stBadParam
    else
      let b1 := trimSlot b n (u % 4096) (a.getLsbD 1)
      if (getSn b n).tetherUp then modRoute b1 r fun k => { k with waitSlot := some (n, nowNs b) } else waitDown b1 r n

def execTrim (r : Route) (args : List W32) (tok : Option Token) (s : State) : Host.Outcome State Fault Refusal :=
  act s (routeOp r 0x20 (.admin 3) args tok (ktTrim r))

/-- SLOT_POWER (R277, R408). -/
def ktSlotPower (r : Route) (b : Block) : Block :=
  let a := ktArg b r 0
  let n := field a 0 4
  endKettle (if a.getLsbD 4 then slotOn b n else slotOff b n) r stOk

def execSlotPower (r : Route) (args : List W32) (tok : Option Token) (s : State) : Host.Outcome State Fault Refusal :=
  act s (routeOp r 0x21 (.admin 4) args tok (ktSlotPower r))

/-- The domain that a route itself lies in: HOSTn for PF n's window. -/
def routeDom : Route → Option Nat
  | .window pf => some (20 + pf.val)
  | .mgmtPort => none
  | .i3c => none

/-- RESET of a GLT domain or of an accelerator domain (R276). -/
def ktReset (r : Route) (b : Block) : Block :=
  let a := ktArg b r 0
  let action := field a 1 2
  let d := (ktArg b r 1).toNat
  if action = 3 then endKettle b r stBadParam
  else if a.getLsbD 0 then
    let n := d / 256
    let dom := d % 64
    let say (b : Block) (on : Bool) : Block := tellSn b n (.domain (Fin.ofNat 64 dom) on)
    if 4096 ≤ d || decide (((getSlot b n).decl.map fun x => x.nDomains).getD 0 ≤ dom) then endKettle b r stBadParam
    else
      let b1 := if action = 0 then say b true else if action = 1 then say b false else say (say b true) false
      if (getSn b n).tetherUp then endKettle b1 r stOk else waitDown b1 r n
  else if d = 0 then endKettle b r stRefused
  else if 48 < d then endKettle b r stBadParam
  else if routeDom r = some d && action ≠ 1 then
    modRoute (endKettle b r stOk) r fun k => { k with selfResets := k.selfResets ++ [(action, nowNs b + 10000)] }
  else endKettle (domAction b d action) r stOk

def execReset (r : Route) (args : List W32) (tok : Option Token) (s : State) : Host.Outcome State Fault Refusal :=
  act s (routeOp r 0x22 (.admin 5) args tok (ktReset r))

/-- The slots that a mask names. -/
def maskSlots (m : Nat) : List Nat := (upFrom 0 16).filter fun n => m.testBit n

/-- When a slot's line may fall once a Kettle hold is released at `t`: not while a hold of its tenant that has come, or comes
by then, has no release of its own (Table 10.4). -/
def kettleLower (b : Block) (n : Nat) (t : Ns) : Option Ns :=
  match (slotTenant? b n).map fun k => (getTen b k).hold with
  | none => some t
  | some h =>
    match h.releaseAt with
    | some tr => some (Nat.max t tr)
    | none => if holdActive h || (decide (h.phase = .scheduled) && decide (h.time ≤ t)) then none else some t

/-- A Kettle hold or release reaches one slot; a tenant's hold and a withdrawal keep the line (Table 10.4). -/
def ktHoldSlot (t : Ns) (release : Bool) (n : Nat) (b : Block) : Block :=
  if !release then tellSn (modSlot b n fun r => { r with heldByKettle := true }) n (.holdAt t)
  else
    let b1 := modSlot { b with hr := { b.hr with kettleEnds := tabPut b.hr.kettleEnds n t } } n fun r =>
      { r with heldByKettle := false }
    match (if (getSlot b n).heldByHold then none else kettleLower b n t) with
    | none => b1
    | some tl => tellSn b1 n (.releaseAt tl)

/-- HOLD: only the named slots, no cell and no cut (R276). -/
def ktHold (r : Route) (b : Block) : Block :=
  let w : W64 := BitVec.ofNat 64 ((ktArg b r 2).toNat + 2 ^ 32 * (ktArg b r 3).toNat)
  let slots := maskSlots (field (ktArg b r 1) 0 16)
  if nsPerSec ≤ w.toNat % 2 ^ 30 then endKettle b r stBadParam
  else
    let b1 := each slots (ktHoldSlot (r111Ns w) ((ktArg b r 0).getLsbD 0)) b
    match slots.find? fun n => !(getSn b n).tetherUp with
    | none => endKettle b1 r stOk
    | some n => waitDown b1 r n

def execKettleHold (r : Route) (args : List W32) (tok : Option Token) (s : State) : Host.Outcome State Fault Refusal :=
  act s (routeOp r 0x23 (.admin 6) args tok (ktHold r))

/-! ## Times and the management port -/

/-- KETTLE_SENTINEL_TIMEOUT: 200 µs without the port's domain, or the bound of R280. -/
def effKettleTimeout (r : Route) (b : Block) : Block :=
  let k := getRoute b r
  match k.waitSlot with
  | none => b
  | some (n, t) =>
    if (k.unreached || !(getSn b n).tetherUp) && decide (t + 200000 ≤ nowNs b) then endKettle b r stTimeout
    else if t + 500000 ≤ nowNs b then endKettle b r stTimeout
    else b

def execKettleSentinelTimeout (r : Route) (s : State) : Host.Outcome State Fault Refusal := act s (effKettleTimeout r)

/-- An operation by its code: codes that Table 10.7 does not give are reserved. -/
def ktByCode (r : Route) (op : Nat) (args : List W32) (tok : Option Token) (b : Block) : Block :=
  let go (a : KtAuth) (f : Block → Block) : Block := kettleOp r op a args tok f b
  if op = 0x01 then go .open' (ktIdentity r)
  else if op = 0x02 then go .open' (ktHealth r)
  else if op = 0x03 then go .open' (ktTime r)
  else if op = 0x10 then go (.admin 0) (ktFlyRead r)
  else if op = 0x11 then
    go (.token 1) fun b => endKettle (clearFly b ((tok.map fun t => t.keySlot).getD 0) (routeNo r) true) r stOk
  else if op = 0x12 then go (.admin 2) (ktMargin r)
  else if op = 0x20 then go (.admin 3) (ktTrim r)
  else if op = 0x21 then go (.admin 4) (ktSlotPower r)
  else if op = 0x22 then go (.admin 5) (ktReset r)
  else if op = 0x23 then go (.admin 6) (ktHold r)
  else go .open' fun b => endKettle b r stBadOpcode

/-- MGMT_PORT_FRAME (R278): a repeated sequence number is answered with the last reply. -/
def effMgmtFrame (f : MgmtFrame) (b : Block) : Block :=
  let busy := decide ((getRoute b .mgmtPort).phase = .busy)
  if b.hr.mgmtLastSeq = some f.seq then
    if busy then b else emit b (.kettleReply true f.seq b.hr.mgmtLastReply.1 b.hr.mgmtLastReply.2)
  else if busy then modRoute b .mgmtPort fun k => { k with overrun := true }
  else ktByCode .mgmtPort f.op.toNat f.args f.token { b with hr := { b.hr with mgmtLastSeq := some f.seq } }

def execMgmtPortFrame (f : MgmtFrame) (s : State) : Host.Outcome State Fault Refusal := act s (effMgmtFrame f)

/-- SLOT_POWER_OFF_STEP: SLOT_PWREN falls 1 ms after SLOT_PERST_N, and the sequence has ended (R277). -/
def effPowerOffStep (n : Nat) (b : Block) : Block :=
  let r := getSlot b n
  match r.seqStart with
  | none => b
  | some t =>
    if r.on || decide (nowNs b < t + 1000000) then b else modSlot b n fun r => { r with pwren := false, seqStart := none }

def execSlotPowerOffStep (slot : Fin 16) (s : State) : Host.Outcome State Fault Refusal := act s (effPowerOffStep slot.val)

end Sys2Proof.Machine
end

