-- ==== Sys2Proof/Machine/Observe.lean ====
section
/-!
DEFINITION. Machine/Observe.lean: the commands of chapter 14: counters, margin rings, and the Flyleaf with its mirror.
-/

namespace Sys2Proof.Machine

/-! ## COUNTERS_READ (R373, R374, R388) -/

/-- Whether a core runs a user instance of a tenant. -/
def runsFor (b : Block) (t c : Nat) : Bool :=
  let s := (getCore b c).progSlot
  decide (8 ≤ s) && (getPslot b s).tenant == t && (userInstances b t).contains (getCore b c).origin

/-- A counter of the tenant view (Table 14.3). -/
def tenantView (b : Block) (t i : Nat) : W64 :=
  if i < 256 then
    let s := getSlot b (i / 16)
    if s.role = roleActive ∧ s.tenant = t then tabGet 0 b.obs.counters (slotCounter (i / 16) (i % 16)) else 0
  else if i < 260 then
    foldOver (fun v c => v + tabGet 0 b.obs.counters (coreCounter c (i - 256))) 0 ((upFrom 0 512).filter (runsFor b t))
  else 0

/-- The value of a counter in a view. -/
def viewCounter (b : Block) (view : Byte) (t i : Nat) : W64 := if view = 0 then tabGet 0 b.obs.counters i else tenantView b t i

/-- COUNTERS_READ: every counter named is latched in one tick, T_L. -/
def effCountersRead (iss : Issuer) (p : CountersReadP) (b : Block) : Block :=
  let t := iss.tenant.val
  let done := complete b iss 0x0801
  let size := if p.view = 0 then 4096 else 2048
  if p.view.toNat > 1 then done stBadParam
  else if p.view = 0 && !isAdmin b iss then done stNotAuthorised
  else if p.view = 1 && !fromTenant b iss then done stNotAuthorised
  else if p.rsv || p.dest % 64 != 0 || !within 1 4096 p.count || decide (size < p.first + p.count) ||
      (p.view == 1 && !(getTen b t).exists') then done stBadParam
  else
    let l := (upFrom p.first p.count).flatMap fun i => leBytes 8 (viewCounter b p.view t i).toNat
    let b1 := { b with obs := { b.obs with latchTime := nowNs b } }
    completeAt (hostWrite b1 iss p.dest l) iss 0x0801 stOk p.count 0 (nowNs b)

def execCountersRead (iss : Issuer) (p : CountersReadP) (s : State) : Host.Outcome State Fault Refusal :=
  act s (effCountersRead iss p)

/-! ## MARGIN_READ (R376, R389) -/

/-- Whether the source may read a ring. -/
def mayMargin (b : Block) (iss : Issuer) (p : MarginReadP) : Bool :=
  let s := getSlot b p.slot
  isAdmin b iss || (fromTenant b iss && (getTen b iss.tenant.val).exists' &&
    ((p.kind == 0 && runsFor b iss.tenant.val p.index) ||
     (p.kind == 2 && s.role == roleActive && s.tenant == iss.tenant.val)))

/-- Whether the ring named exists. -/
def marginOk (b : Block) (p : MarginReadP) : Bool :=
  if p.kind = 0 then decide (p.index < 512) && within 1 1024 p.count
  else if p.kind = 1 then decide (p.index < 24) && within 1 1024 p.count
  else p.kind == 2 && decide (p.slot < 16) && decide (p.index < ((getSlot b p.slot).decl.map fun d => d.nEngines).getD 0) &&
    within 1 256 p.count

/-- MARGIN_READ: records from the newest backwards; none is overwritten in the step. -/
def effMarginRead (iss : Issuer) (p : MarginReadP) (b : Block) : Block :=
  let done := complete b iss 0x0802
  if !mayMargin b iss p then done stNotAuthorised
  else if p.rsv || p.dest % 16 != 0 || !marginOk b p then done stBadParam
  else if p.kind = 2 && !(getSn b p.slot).tetherUp then done stTimeout
  else
    let l := ((marginRing b p.kind.toNat p.slot p.index).drop p.first).take p.count
    completeAt (hostWrite b iss p.dest (l.flatMap id)) iss 0x0802 stOk l.length 0 (nowNs b)

def execMarginRead (iss : Issuer) (p : MarginReadP) (s : State) : Host.Outcome State Fault Refusal :=
  act s (effMarginRead iss p)

/-! ## Reading and clearing the Flyleaf (R386, R390, R391) -/

/-- The SEQ of the newest CLEARED record, 0 when there is none: records below it count as cleared. -/
def clearedSeq (b : Block) : Nat :=
  listMax (((b.fly.ring ++ b.fly.mirror.map fun m => m.rec').filter isCleared).map fun r => r.seq)

/-- The records that a source holds for a reader, with the bytes as stored. -/
def flySource (b : Block) (mirror : Bool) : List (FlyRec × List Byte) :=
  let l := if mirror then b.fly.mirror.map fun m => (m.rec', flyBody m.rec' ++ leBytes 4 m.crc.toNat)
           else b.fly.ring.map fun r => (r, flyBytes r)
  l.filter fun x => decide (clearedSeq b ≤ x.1.seq) || isCleared x.1

/-- FLYLEAF_READ. -/
def effFlyRead (iss : Issuer) (p : FlyleafReadP) (b : Block) : Block :=
  let done := complete b iss 0x0803
  if !isAdmin b iss then done stNotAuthorised
  else if p.rsv || decide (p.source.toNat > 1) || !(decide (p.group.toNat ≤ 16) || p.group == 0xFF) || p.dest % 64 != 0 ||
      !within 1 131072 p.count then done stBadParam
  else
    let held := flySource b (p.source == 1)
    let hit (x : FlyRec × List Byte) : Bool :=
      decide (p.firstSeq ≤ x.1.seq) && (p.group == 0xFF || x.1.type'.toNat / 256 == p.group.toNat)
    let l := (held.filter hit).take p.count
    completeAt (hostWrite b iss p.dest (l.flatMap Prod.snd)) iss 0x0803 stOk l.length
      ((listMin? (held.map fun x => x.1.seq)).getD 0) (nowNs b)

def execFlyleafRead (iss : Issuer) (p : FlyleafReadP) (s : State) : Host.Outcome State Fault Refusal :=
  act s (effFlyRead iss p)

/-- FLYLEAF_CLEAR: the token is checked against FL_NONCE, which changes with every check. -/
def effFlyClear (iss : Issuer) (tok : Token) (rsv : Bool) (b : Block) : Block :=
  let done := complete b iss 0x0804
  if !isAdmin b iss then done stNotAuthorised
  else if rsv then done stBadParam
  else
    let ok := tokenOk b b.fly.nonce 1 tok
    let b1 := noteToken b ok iss.pf.val 0x0804 false
    let b2 := takeFree { b1 with fly := { b1.fly with nonce := BitVec.ofNat 64 (freeVal b1) } }
    if !ok then complete b2 iss 0x0804 stNotAuthorised
    else
      let seq := b2.fly.next
      completeAt (clearFly b2 tok.keySlot iss.pf.val false) iss 0x0804 stOk seq 0 (nowNs b)

def execFlyleafClear (iss : Issuer) (tok : Token) (rsv : Bool) (s : State) : Host.Outcome State Fault Refusal :=
  act s (effFlyClear iss tok rsv)

/-! ## Summary records (R380) -/

/-- The part that a leaf register's bit concerns. -/
def aboutLeaf (b : Block) (l : Leaf) (source : W32) : About :=
  let a := match l with
    | .lkS p => aboutPort b p
    | .lkT n => aboutPort b (8 + n)
    | .sn n => aboutSlot b n
    | .hl p => aboutPf b p
    | .ddrUe => aboutDdr b (source.toNat % 8)
    | .col => aboutCore b (source.toNat % 512)
    | .id | .colv | .gt | .bd | .sp | .st | .ck | .rs | .sr | .fl | .pt | .fw | .rp _ | .sec _ => aboutGlt b
  { a with source := source.toNat }

/-- The bit of a summary is still 1, in some copy of its register. -/
def dueLive (b : Block) (d : SummaryDue) : Bool := (leafCopies d.leaf).any fun x => leafBit b x d.bit

/-- The summary of one bit and source: written when something occurred and a millisecond has passed. -/
def summarise (d : SummaryDue) (b : Block) : Block :=
  if !dueLive b d || decide (d.count = 0) || decide (nowNs b < d.last + 1000000) then b
  else
    let fresh (x : SummaryDue) : SummaryDue := if x = d then { x with count := 0, last := nowNs b } else x
    let b1 := { b with fly := { b.fly with dues := b.fly.dues.map fresh } }
    match leafType d.leaf d.bit with
    | none => b1
    | some ty => lapCheck (flyWrite b1 ty { aboutLeaf b d.leaf d.source with arg := d.count } true)

/-- SUMMARY_RECORD_TIMER: bits that were cleared have no summary any more. -/
def effSummaryTimer (b : Block) : Block :=
  let b1 := { b with fly := { b.fly with dues := b.fly.dues.filter (dueLive b) } }
  each b1.fly.dues summarise b1

def execSummaryRecordTimer (s : State) : Host.Outcome State Fault Refusal := act s effSummaryTimer

/-! ## The mirror (R382-R386) -/

/-- Record slots of the mirror, and of the blocks that stay written while the next is erased. -/
def mirrorSlots : Nat := 131072
def mirrorKept : Nat := 130048

/-- A record as the mirror stores it. -/
def stored (gasp : Bool) (r : FlyRec) : MirrorRec := { rec' := r, crc := crc32c (flyBody r), lastGasp := gasp }

/-- Records on chip that are not copied. -/
def uncopiedRecs (b : Block) : List FlyRec := b.fly.ring.filter fun r => decide (b.fly.mirrored < r.seq)

/-- A NOR operation failed, or the NOR is absent: MIRROR_FAIL and FL_ERR.MIRROR (Tables 14.8, 14.13). -/
def mirrorFail (b : Block) : Block := raise (flyEvent b 0x1004 (aboutAon b)) .fl 2 (aboutAon b)

/-- LAPPED names the SEQ range that was never copied (R383). -/
def writeLapped (b : Block) : Block :=
  match b.fly.lapFirst with
  | none => b
  | some f =>
    let arg := f + 2 ^ 48 * b.fly.mirrored
    flyEvent { b with fly := { b.fly with lapFirst := none } } 0x1002 { aboutAon b with arg := arg }

/-- MIRROR_PAGE_PROGRAM: a page holds four records; the mirror takes them in ascending SEQ. -/
def effMirrorPage (res : OpEnd) (b : Block) : Block :=
  let page := (uncopiedRecs b).take 4
  if !b.fly.mirrorEn || b.fly.stopped || page.isEmpty || decide (mirrorSlots < b.fly.mirror.length + page.length) then b
  else
    match res with
    | .error _ => mirrorFail b
    | .ok =>
      let last := listMax (page.map fun r => r.seq)
      writeLapped { b with fly := { b.fly with mirror := b.fly.mirror ++ page.map (stored false), mirrored := last } }

def execMirrorPageProgram (res : OpEnd) (s : State) : Host.Outcome State Fault Refusal := act s (effMirrorPage res)

/-- MIRROR_BLOCK_ERASE: after a clear the oldest block goes, until every block of cleared records is erased; otherwise the
block after the one being written. -/
def effMirrorErase (res : OpEnd) (b : Block) : Block :=
  let f := b.fly
  if !f.clearing && decide (f.mirror.length ≤ mirrorKept) then b
  else
    match res with
    | .error _ => mirrorFail b
    | .ok =>
      if f.clearing then
        let gone := (f.mirror.filter fun m => decide (m.rec'.seq < clearedSeq b)).length
        let left := f.eraseBlocks - 1
        { b with fly := { f with mirror := f.mirror.drop (min 1024 gone), eraseBlocks := left, clearing := left != 0 } }
      else { b with fly := { f with mirror := f.mirror.drop 1024 } }

def execMirrorBlockErase (res : OpEnd) (s : State) : Host.Outcome State Fault Refusal := act s (effMirrorErase res)

/-- Records that wait for the scan follow POWER_ON with the next numbers. -/
def appendAll : List FlyRec → Flyleaf → Flyleaf
  | [], f => f
  | r :: l, f => appendAll l (flyAppend f r)

/-- FLYLEAF_SCAN: at AON power-on the mirror is scanned; numbering goes on after its highest valid SEQ, and POWER_ON is
written before the records that waited (R384). -/
def effScan (b : Block) : Block :=
  let f := b.fly
  if f.scanned || !b.pw.aonUp then b
  else
    let good := f.mirror.filter fun m => m.crc == crc32c (flyBody m.rec')
    let top := listMax (good.map fun m => m.rec'.seq)
    let cut := listMax ((good.filter fun m => isCleared m.rec').map fun m => m.rec'.seq)
    let below := (good.filter fun m => decide (m.rec'.seq < cut) && !isCleared m.rec').length
    let gasp := (good.filter fun m => m.lastGasp).length
    let g := { f with scanned := true, ring := [], next := top + 1, mirrored := top,
                      mirror := f.mirror.map fun m => { m with lastGasp := false },
                      clearing := below != 0, eraseBlocks := (below + 1023) / 1024 }
    let b1 := flyWrite { b with fly := g } 0x1000 { aboutAon b with arg := top + 2 ^ 48 * gasp }
    let b2 := { b1 with fly := appendAll f.ring b1.fly }
    let b3 := onlyIf (good.length != f.mirror.length) (fun b => raise b .fl 5 (aboutAon b)) b2
    onlyIf (gasp != 0) (fun b => raise b .fl 6 (aboutAon b)) b3

def execFlyleafScan (s : State) : Host.Outcome State Fault Refusal := act s effScan

/-- FL_SEL_HI: the selected record is copied into FL_DATA, or GONE shows (Tables 14.11, 14.12). -/
def effFlSelHi (v : W32) (b : Block) : Block :=
  let seq := field v 0 16 * 2 ^ 32 + b.fly.selLo.toNat
  let r := flyFind b fun s => s == seq
  { b with fly := { b.fly with selHi := BitVec.ofNat 32 (field v 0 16), data := r, gone := r.isNone } }

def execFlSelHiWrite (pf : Fin 4) (val : W32) (s : State) : Host.Outcome State Fault Refusal :=
  act s fun b => adminWrite b pf.val 0xD0044 (effFlSelHi val)

end Sys2Proof.Machine
end

