-- ==== Sys2Proof/Machine/Power.lean ====
section
/-!
DEFINITION. Machine/Power.lean: the commands of chapter 15 on the always-on supply, the rails, thermal and power protection,
the slots' power and the optical modules.
-/

namespace Sys2Proof.Machine

/-! ## The always-on supply (R395-R398) -/

def modPw (b : Block) (f : Power → Power) : Block := { b with pw := f b.pw }

/-- Whether an AON input, 0 A or 1 B, is valid. -/
def inputValid (b : Block) (src : Nat) : Bool := if src = 0 then b.pw.aValid else if src = 1 then b.pw.bValid else false

/-- The domain moves to an input: PT_ERR.AON_SWITCH and its record (R395). -/
def moveAon (b : Block) (src : Nat) : Block :=
  if b.pw.aonSrc.toNat = src then b
  else
    let b1 := modPw b fun p => { p with aonSrc := BitVec.ofNat 2 src }
    raise b1 .pt 1 (aboutAon b1)

/-- An AON input stops being valid: PT_ERR.AON_INPUT_LOW. -/
def dropInput (src : Nat) (b : Block) : Block :=
  if !inputValid b src then b
  else
    let b1 := modPw b fun p => if src = 0 then { p with aValid := false } else { p with bValid := false }
    raise b1 .pt 2 { aboutAon b1 with source := src }

def execAonInputLow (b : Bool) (s : State) : Host.Outcome State Fault Refusal := act s (dropInput (bit b))

/-- AON_SWITCH: the selected input has fallen below 1.66 V; with the other not valid the domain stays on it. -/
def effAonSwitch (b : Block) : Block :=
  let src := b.pw.aonSrc.toNat
  if src ≥ 2 then b
  else
    let b1 := dropInput src b
    if inputValid b1 (1 - src) then moveAon b1 (1 - src) else b1

def execAonSwitch (s : State) : Host.Outcome State Fault Refusal := act s effAonSwitch

/-- PREFER_A_RETURN: A has been valid for 10 ms. -/
def effPreferA (b : Block) : Block :=
  let p := b.pw
  if p.preferA && p.aonSrc == 1 && p.aValid && decide (p.aValidSince + 10000000 ≤ nowNs b) then moveAon b 0 else b

def execPreferAReturn (s : State) : Host.Outcome State Fault Refusal := act s effPreferA

/-- The last gasp: POWER_LOSS and the 31 newest uncopied records go into the erased block, and the Flyleaf stops (R385). -/
def lastGasp (b : Block) : Block :=
  let b1 := flyEvent b 0x1003 (aboutAon b)
  let l := uncopiedRecs b1
  let gasp := (l.drop (l.length - 32)).map (stored true)
  { b1 with fly := { b1.fly with mirror := b1.fly.mirror ++ gasp, stopped := true } }

/-- POWER_LOSS: both inputs are below 1.62 V and the domain runs from AON_HOLD (R396). -/
def effPowerLoss (b : Block) : Block :=
  if b.fly.stopped || !b.pw.aonUp then b
  else lastGasp (modPw (dropInput 1 (dropInput 0 b)) fun p => { p with aonSrc := 2 })

def execPowerLoss (s : State) : Host.Outcome State Fault Refusal := act s effPowerLoss

/-- AON_INPUT_RETURN: an input is valid again.  A domain that runs from AON_HOLD moves to it and the Flyleaf goes on; a
domain that has stopped starts from it (R395, R399). -/
def effInputReturn (src : Nat) (b : Block) : Block :=
  if inputValid b src then b
  else
    let b1 := modPw b fun p => if src = 0 then { p with aValid := true, aValidSince := nowNs b } else { p with bValid := true }
    if !b1.pw.aonUp then modPw b1 fun p => { p with aonUp := true, aonSrc := BitVec.ofNat 2 src }
    else if b1.pw.aonSrc = 2 then moveAon { b1 with fly := { b1.fly with stopped := false } } src
    else b1

def execAonInputReturn (b : Bool) (s : State) : Host.Outcome State Fault Refusal := act s (effInputReturn (bit b))

/-- A sentinel keeps its state while its GLT has no power: only the GLT's end of the Tether is gone, and the sentinel's local
time goes on although the GLT's restarts. -/
def cutTether (now : Ns) (s : Sentinel) : Sentinel :=
  { s with tetherUp := false, tetherDownAt := 0, openGlt := [], brokenGlt := [], sentG := [], nextStreamGlt := 0,
           timeSkew := s.timeSkew + now }

/-- The AON domain without power: everything is at its power-on value but what the NOR, the drives, the fuses and the
device's own identity hold, what has left the block, and the sentinels. -/
def powerOff (b : Block) : Block :=
  { freeCtr := b.freeCtr, out := b.out,
    ident := { serial := b.ident.serial, fittedGib := b.ident.fittedGib, geoPins := b.ident.geoPins },
    fly := { mirror := b.fly.mirror },
    fw := { bootBank := b.fw.bootBank, banks := b.fw.banks, minSvn := b.fw.minSvn, specStore := b.fw.specStore },
    bd := { coldStore := b.bd.coldStore },
    slots := b.slots.map fun x => (x.1, { alertN := x.2.alertN, prsntN := x.2.prsntN }),
    sn := b.sn.map fun x => (x.1, cutTether (nowNs b) x.2),
    pw := { aonUp := false } }

/-- AON_HOLD_DEPLETED: AON_HOLD has reached 1.20 V. -/
def effDepleted (b : Block) : Block := if b.pw.aonUp && b.pw.aonSrc = 2 then powerOff b else b

def execAonHoldDepleted (s : State) : Host.Outcome State Fault Refusal := act s effDepleted

/-- HOLD_TEST: a droop above 15 mV means that the capacitor is too small (R398). -/
def effHoldTest (mv : Nat) (b : Block) : Block :=
  if !b.pw.holdTestDue then b
  else
    let b1 := modPw b fun p => { p with droop := BitVec.ofNat 8 (min mv 255), holdOk := decide (mv ≤ 15), holdTestDue := false }
    if mv ≤ 15 then b1 else raise b1 .pt 3 (aboutAon b1)

def execHoldTest (droopMv : Nat) (s : State) : Host.Outcome State Fault Refusal := act s (effHoldTest droopMv)

/-- PT_CTRL (Table 15.13): SELECT_A and SELECT_B move the domain to an input that is valid; HOLD_TEST asks for a test. -/
def effPtCtrl (v : W32) (b : Block) : Block :=
  let b1 := modPw b fun p => { p with throttleEn := v.getLsbD 0, capEn := v.getLsbD 1, preferA := v.getLsbD 2,
                                      holdTestDue := p.holdTestDue || v.getLsbD 5 }
  let b2 := if v.getLsbD 3 && b1.pw.bValid then moveAon b1 1 else b1
  if v.getLsbD 4 && b2.pw.aValid then moveAon b2 0 else b2

def execSelectAonInput (pf : Fin 4) (val : W32) (s : State) : Host.Outcome State Fault Refusal :=
  act s fun b => adminWrite b pf.val 0xE0000 (effPtCtrl val)

/-! ## Rails and temperature (R402, R412, R413) -/

/-- RAIL_EXCURSION: a core rail out of tolerance is recorded, and nothing else happens (R402). -/
def execRailExcursion (rail : Fin 10) (above : Bool) (s : State) : Host.Outcome State Fault Refusal :=
  act s fun b => if rail.val < 6 then raise b .pt (5 + bit above) { aboutGlt b with source := rail.val } else b

/-- THERMAL_ALARM: the hottest sensor reaches PT_ALARM_TEMP, or has fallen 5 °C below it while the alarm stands. -/
def effThermalAlarm (b : Block) : Block :=
  if b.pw.thermAlert then modPw b fun p => { p with thermAlert := false }
  else raise (modPw b fun p => { p with thermAlert := true }) .pt 7 (aboutGlt b)

def execThermalAlarm (s : State) : Host.Outcome State Fault Refusal := act s effThermalAlarm

/-- THROTTLE_STEP: one more cluster is withheld, at most every 1 ms; C0 never is.  Which of two enabled limits is exceeded the
row does not say, so it is open. -/
def effThrottle (b : Block) : Block :=
  let p := b.pw
  if !(p.throttleEn || p.capEn) || b.col.withheld ≥ 15 || (b.col.withheld != 0 && decide (nowNs b < p.lastWithhold + 1000000)) then b
  else
    let cap := p.capEn && (!p.throttleEn || freeVal b % 2 == 1)
    let b1 := modPw (takeFree b) fun p => { p with lastWithhold := nowNs b }
    raise { b1 with col := { b1.col with withheld := b1.col.withheld + 1 } } .pt (8 + bit cap) (aboutGlt b)

def execThrottleStep (s : State) : Host.Outcome State Fault Refusal := act s effThrottle

/-- UNTHROTTLE_STEP: one cluster returns, at most every 10 ms. -/
def effUnthrottle (b : Block) : Block :=
  let p := b.pw
  if b.col.withheld = 0 || decide (nowNs b < Nat.max p.lastReturn p.lastWithhold + 10000000) then b
  else
    { modPw b fun p => { p with lastReturn := nowNs b } with col := { b.col with withheld := b.col.withheld - 1 } }

def execUnthrottleStep (s : State) : Host.Outcome State Fault Refusal := act s effUnthrottle

/-- Every domain but AON. -/
def coreDoms : List Nat := upFrom 1 48

/-- THERMAL_TRIP: every domain but AON is reset, THERM_TRIP_N is latched low (R413). -/
def effThermalTrip (b : Block) : Block :=
  let b1 := each coreDoms (fun d b => assertDom b d) b
  raise (modPw b1 fun p => { p with thermTripN := false, tripped := true }) .pt 10 (aboutAon b1)

def execThermalTrip (s : State) : Host.Outcome State Fault Refusal := act s effThermalTrip

/-! ## Slots (R408, R305) -/

/-- A write of PS_SLOT_CTRL.ON that may not change this slot: it would turn on an absent one, or turn off an ACTIVE one whose tenant
is not held. -/
def slotKept (b : Block) (v : W32) (n : Nat) : Bool :=
  let s := getSlot b n
  v.getLsbD n != s.on && (if v.getLsbD n then s.prsntN else decide (s.role = roleActive) && !tenantHeld b s.tenant)

/-- One bit of PS_SLOT_CTRL.ON starts its slot's sequence. -/
def slotBit (v : W32) (n : Nat) (b : Block) : Block :=
  let on := v.getLsbD n
  if on = (getSlot b n).on then b else if on then slotOn b n else slotOff b n

/-- PS_SLOT_CTRL: the slots' sequences start; the write is refused as a whole, under R10, where it may not change some slot (R408). -/
def effSlotCtrl (v : W32) (b : Block) : Block :=
  if (upFrom 0 16).any (slotKept b v) then refuse b .pt else each (upFrom 0 16) (slotBit v) b

def execPsSlotCtrlWrite (pf : Fin 4) (val : W32) (s : State) : Host.Outcome State Fault Refusal :=
  act s fun b => adminWrite b pf.val 0xE0300 (effSlotCtrl val)

/-- A readmission whose sentinel is not RUNNING within 10 s (R305). -/
def readmitLate (n : Nat) (b : Block) : Block :=
  let s := getSlot b n
  if !s.readmitting || (s.specs.any fun x => x.1.isNone) || decide (nowNs b < s.readmitAt) then b
  else completeOpt (modSlot b n fun r => { r with readmitting := false, readmitIss := none }) s.readmitIss 0x0605 stTimeout

/-- SLOT_SEQUENCE_TIMEOUT: the pins are not as requested within 100 ms (R408); a readmission has waited 10 s (R305). -/
def effSeqTimeout (n : Nat) (b : Block) : Block :=
  let s := getSlot b n
  let late := match s.seqStart with
    | none => false
    | some t => decide (t + 100000000 ≤ nowNs b)
  let wrong := if s.on then !s.pwren else s.pwren || s.perstN
  let b1 := if !late then b
    else onlyIf wrong (fun b => raise b .pt 0 (aboutSlot b n)) (modSlot b n fun r => { r with seqStart := none })
  readmitLate n b1

def execSlotSequenceTimeout (slot : Fin 16) (s : State) : Host.Outcome State Fault Refusal := act s (effSeqTimeout slot.val)

/-! ## Optical modules (R308, R409) -/

/-- MODULE_POWER_CLASS: LPMODE is released for a class within PS_MOD_CLASSp; otherwise LK_ERR.MODULE is set. -/
def effModClass (p cls : Nat) (b : Block) : Block :=
  if decide (1 ≤ cls) && decide (cls ≤ (getPort b p).modClass) then modPort b p fun r => { r with lpMode := false }
  else raise (modPort b p fun r => { r with lpMode := true }) (.lkS p) 7 (aboutPort b p)

def execModulePowerClass (port : Fin 8) (cls : Fin 9) (s : State) : Host.Outcome State Fault Refusal :=
  act s (effModClass port.val cls.val)

end Sys2Proof.Machine
end

