-- ==== Sys2Proof/Machine/Registers.lean ====
section
/-!
DEFINITION. Machine/Registers.lean: writes of BAR0 registers by offset (R7-R11, R27, R28) and reads that clear (R12).
A register that has a row of its own is written through the same effect here.
-/

namespace Sys2Proof.Machine

/-! ## Identity (Tables 1.5-1.8) -/

/-- ADMIN_PF. -/
def effAdminPf (v : W32) (b : Block) : Block := { b with ident := { b.ident with adminPf := field v 0 2 } }

/-- Every Spine port counts as disabled (Tables 1.7, 5.13). -/
def spineDisabled (b : Block) : Bool :=
  !b.spine.enable && (upFrom 0 8).all fun p => decide ((getPort b p).state = .down)

/-- PLACE_CFG (Table 1.7): the fields only while VALID is 0; VALID clears only while every Spine port is disabled. -/
def effPlaceCfg (v : W32) (b : Block) : Block :=
  let i := b.ident
  let rack : BitVec 6 := v.extractLsb' 0 6
  let blk : BitVec 6 := v.extractLsb' 6 6
  let hall : BitVec 3 := v.extractLsb' 12 3
  let same := rack == i.rack && blk == i.block && hall == i.hall
  let b1 := if i.valid then onlyIf (!same) (fun b => refuse b .id) b
    else { b with ident := { i with rack := rack, block := blk, hall := hall } }
  let commit (b : Block) (x : Bool) : Block := { b with ident := { b.ident with valid := x } }
  match i.valid, v.getLsbD 31 with
  | false, false => b1
  | true, true => b1
  | false, true => each (upFrom 0 8) (fun p b => trainIfMay b p) (commit b1 true)
  | true, false => if spineDisabled b then commit b1 false else refuse b1 .id

def regIdent (off : Nat) (v : W32) (b : Block) : Block :=
  if off = 0x20 then effAdminPf v b
  else if off = 0x40 then effPlaceCfg v b
  else if off = 0x50 then clearLeaf b .id v
  else b

/-! ## Interrupts and command rings (Tables 13.2, 13.13, 13.14) -/

def regInt (pf off : Nat) (v : W32) (b : Block) : Block :=
  if off = 0 then effIntPend pf v b
  else if off = 4 then effIntEn pf v b
  else if off = 0xC then modPf b pf fun r => { r with irqPinEn := v.setWidth 16 }
  else if off = 0x10 then clearLeaf b (.hl pf) v
  else if off = 0x14 then clearLeaf b (.rp pf) v
  else if off = 0x18 then clearLeaf b (.sec pf) v
  else b

/-- A ring's register: a refused field sets HL_ERR.ERR of its PF (R10, Table 13.13). -/
def regRing (s : Src) (ring off : Nat) (v : W32) (b : Block) : Block :=
  let c := getCr b s ring
  let put (ok : Bool) (f : CRing → CRing) : Block := if ok then modCr b s ring f else hlErr b s 0
  if !ringThere b s ring then b
  else if off = 0 then put (v.toNat % 64 == 0) fun c => { c with sqBase := (c.sqBase >>> 32) <<< 32 ||| v.setWidth 64 }
  else if off = 4 then put true fun c => { c with sqBase := v ++ c.sqBase.setWidth 32 }
  else if off = 8 then put (v.toNat % 32 == 0) fun c => { c with cqBase := (c.cqBase >>> 32) <<< 32 ||| v.setWidth 64 }
  else if off = 0xC then put true fun c => { c with cqBase := v ++ c.cqBase.setWidth 32 }
  else if off = 0x10 then
    let sq := field v 0 4
    let cq := field v 4 4
    let b1 := put (sq == c.sqLog || (!c.en && within 4 12 sq)) fun c => { c with sqLog := sq }
    if cq == c.cqLog || (!c.en && within 4 12 cq) then modCr b1 s ring fun c => { c with cqLog := cq } else hlErr b1 s 0
  else if off = 0x14 then effCrCtrl s ring v b
  else if off = 0x18 then effSqTail s ring v.toNat b
  else if off = 0x20 then effCqHead s ring v.toNat b
  else if off = 0x2C then
    let b1 := modCr b s ring fun c => { c with coalUs := field v 8 16 }
    if field v 0 8 = 0 then hlErr b1 s 0 else modCr b1 s ring fun c => { c with coalN := field v 0 8 }
  else b

/-- A VF's window (Table 1.13). -/
def regVf (pf vf off : Nat) (s : Src) (v : W32) (b : Block) : Block :=
  if !vfThere b pf vf then b
  else if off = 4 then modVf b pf vf fun r => { r with intPend := r.intPend &&& ~~~(v.setWidth 4) }
  else if off = 8 then effVfIntEn pf vf v b
  else if 0x1000 ≤ off ∧ off < 0x1100 then regRing s ((off - 0x1000) / 0x40) (off % 0x40) v b
  else b

/-! ## Spine time (Tables 6.5-6.8) -/

/-- A staging register: refused while a boundary load is pending, if it would change (R157, R10). -/
def stage (f : SpineTime → SpineTime) (b : Block) : Block :=
  fieldIf (!b.time.loadPending || decide (f b.time = b.time)) .st (fun b => { b with time := f b.time }) b

/-- ST_PPS_CTRL: the first edge after IN_EN is set is always accepted (R173); OUT_MODE 0 holds the pin low, 3 is reserved (R174). -/
def effPpsCtrl (v : W32) (b : Block) : Block :=
  let t := b.time
  let b1 := { b with time := { t with ppsInEn := v.getLsbD 0, ppsDiscipline := v.getLsbD 1,
                                      ppsAny := t.ppsAny && t.ppsInEn && v.getLsbD 0,
                                      ppsSince := if v.getLsbD 0 && !t.ppsInEn then nowSub b else t.ppsSince } }
  let b2 := fieldIf (decide (field v 2 2 < 3)) .st
    (fun b => { b with time := { b.time with ppsOutMode := v.extractLsb' 2 2,
                                             syncOut := b.time.syncOut && decide (field v 2 2 ≠ 0) } }) b1
  fieldIf (within 1 255 (field v 8 8)) .st (fun b => { b with time := { b.time with ppsOutWidth := field v 8 8 } }) b2

def regTime (off : Nat) (v : W32) (b : Block) : Block :=
  let put (ok : Bool) (f : SpineTime → SpineTime) : Block := fieldIf ok .st (fun b => { b with time := f b.time }) b
  if off = 0 then effStCtrl v b
  else if off = 8 then clearLeaf b .st v
  else if off = 0x20 then stage (fun t => { t with setNsec := v.setWidth 30 }) b
  else if off = 0x24 then stage (fun t => { t with setSub := v.setWidth 16 }) b
  else if off = 0x28 then stage (fun t => { t with setSec := (t.setSec >>> 32) <<< 32 ||| v.setWidth 48 }) b
  else if off = 0x2C then
    stage (fun t => { t with setSec := BitVec.ofNat 48 (field v 0 16 * 2 ^ 32 + t.setSec.toNat % 2 ^ 32) }) b
  else if off = 0x30 then { b with time := { b.time with incrLoHeld := v } }
  else if off = 0x34 then effStIncr 4 (v.setWidth 64) b
  else if off = 0x38 then effStAdj v b
  else if off = 0x3C then put (decide (1000 ≤ v.toNat)) fun t => { t with adjSpan := v.toNat }
  else if off = 0x50 then put (within 125 16000 (field v 0 14)) fun t => { t with syncIntervalUs := field v 0 14 }
  else if off = 0x54 then put (within 1 3600 (field v 0 12)) fun t => { t with holdoverLimitS := field v 0 12 }
  else if off = 0x58 then put (within 100 1000000 (field v 0 20)) fun t => { t with stepLimitNs := field v 0 20 }
  else if 0x80 ≤ off ∧ off < 0xA0 then put true fun t => { t with asym := tabPut t.asym ((off - 0x80) / 4) v.toInt }
  else if off = 0xD0 then { b with time := { b.time with tsq := b.time.tsq.drop 1 } }
  else if off = 0xE0 then effPpsCtrl v b
  else if off = 0xE4 then put (decide (v.toInt.natAbs ≤ 499999999)) fun t => { t with ppsOffset := v.toInt }
  else if off = 0x120 then { b with time := { b.time with rxq := b.time.rxq.drop 1 } }
  else b

/-! ## Clocks and DDR (Tables 12.13-12.15) -/

/-- DDR_CTRL: RETRAIN_NOW makes one pass over every channel (R324). -/
def effDdrCtrl (v : W32) (b : Block) : Block :=
  let b1 := { b with ck := { b.ck with autoRetrain := v.getLsbD 0 } }
  if v.getLsbD 1 then each (upFrom 0 8) (fun c b => modDdr b c fun x => { x with pending := true }) b1 else b1

def regClock (off : Nat) (v : W32) (b : Block) : Block :=
  let put (ok : Bool) (f : Clocks → Clocks) : Block := fieldIf ok .ck (fun b => { b with ck := f b.ck }) b
  if off = 0 then put true fun k => { k with mpllAuto := v.getLsbD 0, driftEn := v.getLsbD 1 }
  else if off = 8 then clearLeaf b .ck v
  else if off = 0x10 then put (within 10 1000 (field v 0 10)) fun k => { k with driftPpm := field v 0 10 }
  else if 0x100 ≤ off ∧ off < 0x130 then effCkPll ((off - 0x100) / 4) v b
  else if off = 0x200 then effCkSsc 0 v b
  else if off = 0x204 then effCkSsc 1 v b
  else if off = 0x210 then effCpllFreq v b
  else if off = 0x1000 then effDdrCtrl v b
  else if off = 0x1008 then put (within 2 30 (field v 0 5)) fun k => { k with tempDelta := field v 0 5 }
  else b

/-! ## Link register blocks (Tables 12.10-12.12) -/

/-- LK_CTRL: a link that is wider than MAX_WIDTH asks for the narrower width, one that may be wider for the wider (R317,
R318). -/
def effLkCtrl (l : Nat) (v : W32) (b : Block) : Block :=
  let w := field v 0 3
  let b1 := fieldIf (w == 1 || w == 2 || w == 4) (lkLeaf l)
    (fun b => modLink b l fun k => { k with maxWidth := w }) b
  let b2 := modLink b1 l fun k => { k with adaptEn := v.getLsbD 3, marginEn := v.getLsbD 4 }
  let k := getLink b2 l
  let b3 := if decide (k.state = .up) && decide (k.maxWidth < k.width) then askWidth b2 l
    else if (getLink b l).maxWidth < k.maxWidth then seekWider b2 l else b2
  let b4 := onlyIf (v.getLsbD 5) (fun b => wantRetune b l) b3
  let b5 := onlyIf (v.getLsbD 6) (fun b => fullTrain (modLink b l fun k => { k with trainFails := 0, fastFails := 0 }) l) b4
  effLaneReadmit l (v.extractLsb' 8 4) b5

def regLink (l off : Nat) (v : W32) (b : Block) : Block :=
  let put (ok : Bool) (f : Link → Link) : Block := fieldIf ok (lkLeaf l) (fun b => modLink b l f) b
  if off = 0 then effLkCtrl l v b
  else if off = 8 then clearLeaf b (lkLeaf l) v
  else if off = 0x30 then put (within 1000 100000000 v.toNat) fun k => { k with marginBer := v.toNat }
  else if off = 0x34 then put (within (getLink b l).marginBer 1000000000 v.toNat) fun k => { k with urgentBer := v.toNat }
  else if off = 0x38 then put (within 1 600 (field v 0 10)) fun k => { k with slotMaxS := field v 0 10 }
  else b

/-! ## Spine ports (Tables 5.12-5.18) -/

/-- SP_PCTRLp: a port that may no longer train goes DOWN; FORCE_OTHER moves its hop (R125). -/
def effPctrl (p : Nat) (v : W32) (b : Block) : Block :=
  let was := (getPort b p).en
  let on := v.getLsbD 0
  let b1 := modPort b p fun r => { r with en := on, selftest := v.getLsbD 1, holdFold := v.getLsbD 3 }
  let b2 := if on && !was then trainIfMay b1 p
    else if !on && was then railLost (linkDown b1 p) p .down
    else b1
  checkUnfolds (onlyIf (v.getLsbD 2) (fun b => startFailover b (portHop p)) (selftestOut b2 p))

/-- SP_XCHANc: any write is refused while a round is in flight (Table 5.17); a new assignment starts the channel afresh. -/
def effXchan (c : Nat) (v : W32) (b : Block) : Block :=
  let x : Xchan := { tenant := field v 0 10, valid := v.getLsbD 31 }
  if !(getChan b (1024 + c)).rounds.isEmpty then refuse b .sp
  else if x = tabGet {} b.spine.xchan c then b
  else setChan { b with spine := { b.spine with xchan := tabPut b.spine.xchan c x } } (1024 + c) {}

def regSpine (off : Nat) (v : W32) (b : Block) : Block :=
  let put (ok : Bool) (f : Spine → Spine) : Block := fieldIf ok .sp (fun b => { b with spine := f b.spine }) b
  if off = 0 then effSpCtrl v b
  else if off = 8 then clearLeaf b .sp v
  else if off = 0x10 then put (within 1 10000 (field v 0 14)) fun s => { s with redTimeoutMs := field v 0 14 }
  else if off = 0x14 then put (within 1 600 (field v 0 10)) fun s => { s with bcastTimeoutS := field v 0 10 }
  else if 0x20 ≤ off ∧ off < 0x30 then
    put (within 1000 1000000 (field v 0 20)) fun s => { s with relLead := s.relLead.set ((off - 0x20) / 4) (field v 0 20) }
  else if 0x40 ≤ off ∧ off < 0x60 then effPctrl ((off - 0x40) / 4) v b
  else if 0x100 ≤ off ∧ off < 0x120 then effXchan ((off - 0x100) / 4) v b
  else if 0x1000 ≤ off ∧ off < 0x1800 then regLink ((off - 0x1000) / 0x100) (off % 0x100) v b
  else b

/-! ## Tether ports (Tables 9.8-9.11, 12.10) -/

/-- A sentinel's window: refused while the mirror is stale, else the write goes to the sentinel (R256). -/
def regSn (n off : Nat) (v : W32) (b : Block) : Block :=
  let writable := off == 4 || off == 0xC || off == 0x24 || off == 0x28 || off == 0x60
  if !writable then b
  else if snStale b n then refuse b (.sn n)
  else tellSn b n (.regWr off v)

def regTether (off : Nat) (v : W32) (b : Block) : Block :=
  if off < 0x1000 then regLink (8 + off / 0x100) (off % 0x100) v b
  else if 0x8000 ≤ off then regSn ((off - 0x8000) / 0x800) (off % 0x800) v b
  else b

/-! ## Collator and verdicts (Tables 3.15-3.17, 4.11-4.13) -/

def regCol (off : Nat) (v : W32) (b : Block) : Block :=
  if off = 0 then { b with col := { b.col with dispatchEn := v.getLsbD 0 } }
  else if off = 8 then clearLeaf b .col v
  else if 0x100 ≤ off ∧ off < 0x140 then
    each (rowCores ((off - 0x100) / 4)) (fun c b => trimBit c (v.getLsbD (c % 32)) b) b
  else if 0x180 ≤ off ∧ off < 0x1C0 then
    each ((rowCores ((off - 0x180) / 4)).filter fun c => v.getLsbD (c % 32)) untrimAuto b
  else if off = 0x2000 then { b with col := { b.col with obsSel := v.extractLsb' 0 9 } }
  else b

def regVer (off : Nat) (v : W32) (b : Block) : Block :=
  let put (ok : Bool) (f : Verdicts → Verdicts) : Block := fieldIf ok .colv (fun b => { b with ver := f b.ver }) b
  if off = 0 then put true fun x => { x with force := v.getLsbD 0 }
  else if off = 4 then put (within 10 60000 (field v 0 16)) fun x => { x with waitMs := field v 0 16 }
  else if off = 8 then
    let q := field v 0 7
    put (q == b.ver.queueGib || ((liveTenants b).isEmpty && within 1 64 q)) fun x => { x with queueGib := q }
  else if off = 0x10 then clearLeaf b .colv v
  else b

/-! ## Gathering and binding (Tables 7.7-7.10, 8.9, 8.10) -/

/-- GT_WM: each watermark within its range as the registers stood before the write (R10); a level follows the fill (R192, Table
7.10). -/
def effGtWm (v : W32) (b : Block) : Block :=
  let put (ok : Bool) (f : GatherEng → GatherEng) (b : Block) : Block := fieldIf ok .gt (fun b => { b with gt := f b.gt }) b
  let b1 := put (within 50 95 (field v 0 7)) (fun g => { g with throttlePct := field v 0 7 }) b
  let b2 := put (within (b.gt.throttlePct + 1) 98 (field v 8 7)) (fun g => { g with backpressurePct := field v 8 7 }) b1
  stageLevel (put (within 1 20 (field v 16 5)) (fun g => { g with hystPct := field v 16 5 }) b2)

def regGt (off : Nat) (v : W32) (b : Block) : Block :=
  let put (ok : Bool) (f : GatherEng → GatherEng) : Block := fieldIf ok .gt (fun b => { b with gt := f b.gt }) b
  if off = 0 then sendPace (put true fun g => { g with pregatherEn := v.getLsbD 0 })
  else if off = 8 then clearLeaf b .gt v
  else if off = 0x10 then
    let q := field v 0 11
    put (q == b.gt.stageGib || ((liveTenants b).isEmpty && within 8 (b.ident.fittedGib / 2) q))
      fun g => { g with stageGib := q }
  else if off = 0x18 then effGtWm v b
  else if off = 0x1C then sendPace (put (within 1 400 (field v 0 9)) fun g => { g with pace := field v 0 9 })
  else if off = 0x20 then put (within 100 60000 (field v 0 16)) fun g => { g with digestTimeoutMs := field v 0 16 }
  else if 0x100 ≤ off ∧ off < 0x300 ∧ off % 32 = 4 then
    sendPace (fieldIf (decide (field v 0 6 ≤ 50)) .gt
      (fun b => modSlot b ((off - 0x100) / 32) fun s => { s with paceCap := field v 0 6 }) b)
  else b

/-- The LBAs of a drive's range: at least 2 × 2²⁰ (Table 8.9). -/
def putNvmeCnt (d : Nat) (w : W64) (b : Block) : Block :=
  fieldIf (decide (2 ^ 21 ≤ w.toNat) || w == (getDrive b d).cnt) .bd (fun b => modDrive b d fun x => { x with cnt := w }) b

/-- The register of a drive (R224): setting EN makes the drive READY while its link is trained. -/
def regNvme (d off : Nat) (v : W32) (b : Block) : Block :=
  let lo (w : W64) : W64 := (w >>> 32) <<< 32 ||| v.setWidth 64
  let hi (w : W64) : W64 := v ++ w.setWidth 32
  let put (f : Nvme → Nvme) : Block := modDrive b d f
  let cnt (w : W64) : Block := putNvmeCnt d w b
  if off = 0 then put fun x => { x with en := v.getLsbD 0, stride := v.extractLsb' 1 4, qid := v.extractLsb' 16 16,
                                        ready := v.getLsbD 0 && x.trained }
  else if off = 4 then put fun x => { x with nsid := v }
  else if off = 8 then put fun x => { x with bar := lo x.bar }
  else if off = 0xC then put fun x => { x with bar := hi x.bar }
  else if off = 0x10 then put fun x => { x with lba := lo x.lba }
  else if off = 0x14 then put fun x => { x with lba := hi x.lba }
  else if off = 0x18 then cnt (lo (getDrive b d).cnt)
  else if off = 0x1C then cnt (hi (getDrive b d).cnt)
  else if off = 0x30 then
    fieldIf (within 2 1024 (field v 0 11)) .bd (fun b => modDrive b d fun x => { x with qdepth := field v 0 11 }) b
  else b

def regBd (off : Nat) (v : W32) (b : Block) : Block :=
  let put (ok : Bool) (f : BindEng → BindEng) : Block := fieldIf ok .bd (fun b => { b with bd := f b.bd }) b
  if off = 0 then put true fun x => { x with coldEn := v.getLsbD 0 }
  else if off = 8 then clearLeaf b .bd v
  else if off = 0x10 then put (within 100 60000 (field v 0 16)) fun x => { x with colophonTimeoutMs := field v 0 16 }
  else if off = 0x14 then put (within 5 5000 (field v 0 13)) fun x => { x with readTimeoutMs := field v 0 13 }
  else if off = 0x18 then put (within 10 5000 (field v 0 13)) fun x => { x with xferTimeoutMs := field v 0 13 }
  else if 0x100 ≤ off ∧ off < 0x200 then regNvme ((off - 0x100) / 64) (off % 64) v b
  else b

/-! ## Holds, reset domains and recovery (Tables 10.9-10.11, 11.7-11.11) -/

/-- RS_DOMd: HOLD_RESET where it changes, then PULSE, then READMIT. -/
def effRsDom (d : Nat) (v : W32) (b : Block) : Block :=
  let b1 := if v.getLsbD 16 = (getDom b d).holdReset then b else effHoldReset d (v.getLsbD 16) b
  let b2 := onlyIf (v.getLsbD 17) (effPulse d) b1
  onlyIf (v.getLsbD 18) (fun b => readmitDom b d) b2

/-- SR_SLOT_ROLEs: ROLE only between IDLE and SPARE of an unclaimed slot, GROUP while ROLE is one of these. -/
def effSlotRole (n : Nat) (v : W32) (b : Block) : Block :=
  let s := getSlot b n
  let r : BitVec 2 := v.extractLsb' 0 2
  let g : BitVec 12 := v.extractLsb' 2 12
  let free (x : BitVec 2) : Bool := x == roleIdle || x == roleSpare
  let b1 := fieldIf (r == s.role || (free s.role && free r && !s.claimed)) .sr (fun b => modSlot b n fun s => { s with role := r }) b
  fieldIf (g == s.group || free s.role) .sr (fun b => modSlot b n fun s => { s with group := g }) b1

def regSr (off : Nat) (v : W32) (b : Block) : Block :=
  let put (ok : Bool) (f : Suspects → Suspects) : Block := fieldIf ok .sr (fun b => { b with sus := f b.sus }) b
  if off = 0 then put true fun x => { x with auto := v.getLsbD 0, autoTipin := v.getLsbD 1, isolateEn := v.getLsbD 2 }
  else if off = 4 then clearLeaf b .sr v
  else if off = 8 then put (within 100 100000 (field v 0 17)) fun x => { x with mergeWindowUs := field v 0 17 }
  else if off = 0xC then put (within 1 100 (field v 0 7)) fun x => { x with probeTimeoutMs := field v 0 7 }
  else if off = 0x10 then put (within 1 3600 (field v 0 12)) fun x => { x with ageS := field v 0 12 }
  else if off = 0x14 then put (decide (field v 0 13 ≤ 4096)) fun x => { x with trimMax := field v 0 13 }
  else if off = 0x18 then put (within 5 1000 (field v 0 10)) fun x => { x with linkGraceMs := field v 0 10 }
  else if off = 0x1C then put (within 1 3600 (field v 0 12)) fun x => { x with restoreTimeoutS := field v 0 12 }
  else if off = 0x20 then put (within 1 4 (field v 0 3)) fun x => { x with isolateMax := field v 0 3 }
  else if off = 0x40 then put true fun x => { x with sel := v.extractLsb' 0 12 }
  else if off = 0x44 then effSrClear v b
  else if 0x100 ≤ off ∧ off < 0x140 then effSlotRole ((off - 0x100) / 4) v b
  else b

def regRs (off : Nat) (v : W32) (b : Block) : Block :=
  let put (ok : Bool) (f : HoldRegs → HoldRegs) : Block := fieldIf ok .rs (fun b => { b with hr := f b.hr }) b
  if off = 0 then clearLeaf b .rs v
  else if off = 4 then put (within 50 100000 (field v 0 17)) fun x => { x with minLeadUs := field v 0 17 }
  else if off = 8 then put (within 1 10000 (field v 0 14)) fun x => { x with cutTimeoutMs := field v 0 14 }
  else if off = 0x10 then put (within 2 15 (field v 0 4)) fun x => { x with escCount := field v 0 4 }
  else if off = 0x14 then put (within 60 86400 (field v 0 17)) fun x => { x with escWindowS := field v 0 17 }
  else if 0x100 ≤ off ∧ off < 0x1C4 then effRsDom ((off - 0x100) / 4) v b
  else if 0x5000 ≤ off then regSr (off - 0x5000) v b
  else b

/-! ## Kettle window (Table 10.13) -/

/-- The token that 40 words spell (Table 10.8). -/
def tokenOf (l : List W32) : Token :=
  let bytes := l.flatMap fun w => leBytes 4 w.toNat
  let num (at' n : Nat) : Nat := leNat ((bytes.drop at').take n)
  { magic := BitVec.ofNat 32 (num 0 4), ops := BitVec.ofNat 32 (num 4 4), serial := BitVec.ofNat 64 (num 8 8),
    nonce := BitVec.ofNat 64 (num 16 8), notAfter := r111Ns (BitVec.ofNat 64 (num 24 8)), keySlot := num 32 1,
    rsv := BitVec.ofNat 64 (num 33 31), sig := (bytes.drop 64).take 96 }

def regKt (pf : Nat) (off : Nat) (v : W32) (b : Block) : Block :=
  let r : Route := .window (Fin.ofNat 4 pf)
  let k := getRoute b r
  let words (l : List W32) (n : Nat) : List W32 := l ++ List.replicate (n - l.length) 0
  if off = 0 then ktByCode r (field v 0 8) k.args (if v.getLsbD 8 then some (tokenOf (words k.token 40)) else none) b
  else if 0x10 ≤ off ∧ off < 0x20 then setRoute b r { k with args := k.args.set ((off - 0x10) / 4) v }
  else if 0x100 ≤ off ∧ off < 0x1A0 then setRoute b r { k with token := (words k.token 40).set ((off - 0x100) / 4) v }
  else b

/-! ## Flyleaf, power and firmware (Tables 14.11, 15.12, 13.24) -/

def regFl (off : Nat) (v : W32) (b : Block) : Block :=
  if off = 0 then { b with fly := { b.fly with mirrorEn := v.getLsbD 0 } }
  else if off = 8 then clearLeaf b .fl v
  else if off = 0x40 then { b with fly := { b.fly with selLo := v } }
  else if off = 0x44 then effFlSelHi v b
  else b

/-- PS_IOCFG (Table 15.16): slew 3 is reserved. -/
def effIoCfg (v : W32) (b : Block) : Block :=
  let slew (lo : Nat) (f : Power → Power) (b : Block) : Block := fieldIf (decide (field v lo 2 < 3)) .pt (fun b => modPw b f) b
  let b1 := slew 0 (fun p => { p with slewAon := v.extractLsb' 0 2 }) b
  let b2 := slew 4 (fun p => { p with slewIo := v.extractLsb' 4 2 }) b1
  modPw b2 fun p => { p with driveAon := v.extractLsb' 2 2, driveIo := v.extractLsb' 6 2 }

def regPt (off : Nat) (v : W32) (b : Block) : Block :=
  let put (ok : Bool) (f : Power → Power) : Block := fieldIf ok .pt (fun b => modPw b f) b
  if off = 0 then effPtCtrl v b
  else if off = 8 then clearLeaf b .pt v
  else if off = 0x10 then put (within 70 104 (field v 0 7)) fun p => { p with alarmTemp := field v 0 7 }
  else if off = 0x14 then put (within (b.pw.alarmTemp + 1) 105 (field v 0 7)) fun p => { p with throttleTemp := field v 0 7 }
  else if off = 0x18 then put (within 60 150 (field v 0 8)) fun p => { p with capW := field v 0 8 }
  else if off = 0x300 then effSlotCtrl v b
  else if off = 0x310 then effIoCfg v b
  else if 0x320 ≤ off ∧ off < 0x340 then
    fieldIf (within 1 8 (field v 0 4)) .pt (fun b => modPort b ((off - 0x320) / 4) fun r => { r with modClass := field v 0 4 }) b
  else b

def regFw (off : Nat) (v : W32) (b : Block) : Block :=
  let put (ok : Bool) (f : Firmware → Firmware) : Block := fieldIf ok .fw (fun b => { b with fw := f b.fw }) b
  if off = 0 then put true fun f => { f with logEn := v.getLsbD 0, logLevel := field v 1 3 }
  else if off = 8 then clearLeaf b .fw v
  else if off = 0x20 then put (decide (v.toNat < 65536)) fun f => { f with traceEn := v.setWidth 64 }
  else if off = 0x24 then put (v == 0) fun f => f
  else if off = 0x28 then put (within 60 3600 (field v 0 12)) fun f => { f with trialS := field v 0 12 }
  else if off = 0x2C then put (within 2 10000 (field v 0 14)) fun f => { f with rebindLeadMs := field v 0 14 }
  else if off = 0x30 then
    put (decide (field v 0 16 = 0) || decide (60 ≤ field v 0 16)) fun f => { f with specPeriodS := field v 0 16 }
  else b

/-! ## The map (Tables 1.12, 1.13) -/

/-- The tenant whose per-tenant register stands at an offset. -/
def perTenant (off : Nat) : Option Nat :=
  if 0x74000 ≤ off ∧ off < 0x7C000 then some ((off - 0x74000) / 32)
  else if 0x88000 ≤ off ∧ off < 0x8C000 then some ((off - 0x88000) / 16)
  else if 0x98000 ≤ off ∧ off < 0xA0000 then some ((off - 0x98000) / 32)
  else none

/-- Whether a region accepts a write of a PF (Table 1.12). -/
def mayWrite (b : Block) (pf off : Nat) : Bool :=
  match perTenant off with
  | some t => (getTen b t).exists' && (getTen b t).creatingPf == pf
  | none => within 0x1000 0x1FFFF off || within 0xB0000 0xBFFFF off || pf == b.ident.adminPf

/-- The register at an offset of a PF's BAR0. -/
def regAt (pf : Fin 4) (off : Nat) (v : W32) (b : Block) : Block :=
  if off < 0x1000 then regIdent off v b
  else if off < 0x10000 then regInt pf.val (off - 0x1000) v b
  else if off < 0x10400 then regRing (.pf pf) ((off - 0x10000) / 0x40) (off % 0x40) v b
  else if off < 0x20000 then b
  else if off < 0x30000 then regTime (off - 0x20000) v b
  else if off < 0x40000 then regClock (off - 0x30000) v b
  else if off < 0x50000 then regSpine (off - 0x40000) v b
  else if off < 0x60000 then regTether (off - 0x50000) v b
  else if off < 0x70000 then regCol (off - 0x60000) v b
  else if off < 0x80000 then regVer (off - 0x70000) v b
  else if off < 0x90000 then regGt (off - 0x80000) v b
  else if off < 0xA0000 then regBd (off - 0x90000) v b
  else if off < 0xB0000 then regRs (off - 0xA0000) v b
  else if off < 0xC0000 then regKt pf.val (off - 0xB0000) v b
  else if off < 0xD0000 then b
  else if off < 0xE0000 then regFl (off - 0xD0000) v b
  else if off < 0xF0000 then regPt (off - 0xE0000) v b
  else if off < 0x100000 then regFw (off - 0xF0000) v b
  else b

/-- One 32-bit write. -/
def regWrite (s : Src) (off : Nat) (v : W32) (b : Block) : Block :=
  match s with
  | .pf p => regAt p off v b
  | .vf p n => regVf p.val n.val off s v b

/-- The pairs whose low register takes the high one's new value, or gives its range the old one: ST_ADJ and ST_ADJ_SPAN, PT_ALARM_TEMP
and PT_THROTTLE_TEMP, LK_MARGIN_BER and LK_URGENT_BER. -/
def highFirst (off : Nat) : Bool :=
  off == 0x20038 || off == 0xE0010 || ((within 0x41000 0x417FF off || within 0x50000 0x50FFF off) && off % 0x100 == 0x30)

/-- The ring whose CR_SIZE and CR_CTRL form the pair at an offset. -/
def sizePair (s : Src) (off : Nat) : Option Nat :=
  let o := if srcIsPf s then 0x10000 else 0x1000
  if o ≤ off ∧ off < o + (if srcIsPf s then 0x400 else 0x100) ∧ off % 0x40 = 0x10 then some ((off - o) / 0x40) else none

/-- A 64-bit write of a pair reaches both registers in one cycle, and its conditions are judged on the state before it (R8, R10):
ST_INCR commits together (R159), the ranges of BD_NVME_CNT and FW_TRACE_EN are those of the pair, a slew takes the span written with
it, and CR_CTRL sees the ring as it stood. -/
def regWrite64 (s : Src) (off : Nat) (v : W64) (b : Block) : Block :=
  let lo := v.extractLsb' 0 32
  let hi := v.extractLsb' 32 32
  let pf := srcIsPf s
  if off = 0x20030 && pf then effStIncr 8 v b
  else if within 0x90100 0x901FF off && off % 64 = 0x18 && pf then putNvmeCnt ((off - 0x90100) / 64) v b
  else if off = 0xF0020 && pf then
    fieldIf (decide (v.toNat < 65536)) .fw (fun b => { b with fw := { b.fw with traceEn := v } }) b
  else if highFirst off && pf then regWrite s off lo (regWrite s (off + 4) hi b)
  else
    match sizePair s off with
    | some ring => effCrCtrlOn (getCr b s ring) s ring hi (regWrite s off lo b)
    | none => regWrite s (off + 4) hi (regWrite s off lo b)

/-- Any access that is not a naturally aligned one of 32 or 64 bits ends in a completer abort (R7). -/
def abortAccess (b : Block) (s : Src) (off : Nat) : Block :=
  let pf := srcPf s
  let b1 := badSource (emit b (.abort pf off)) pf off
  hlErr b1 s 7

/-- Whether an access is naturally aligned and 32 or 64 bits wide. -/
def accessOk (off width : Nat) : Bool := (width == 4 || width == 8) && off % width == 0

/-- Whether an offset lies in the function's window: 1 MiB of a PF, 64 KiB of a VF (R27, R28). -/
def inWindow (s : Src) (off : Nat) : Bool := decide (off < if srcIsPf s then 0x100000 else 0x10000)

/-- BAR2 of the administrating PF, the storage window, stands in these commands' offsets from here on (DESIGN CHOICE, log entry 166: the
table's rows name no BAR). -/
def bar2Base : Nat := 0x10000000

/-- Where an offset of the storage window leads: the drive, whether to its configuration space, and the address there; its BAR0 has the
bus address that the GLT assigned (R339, R340). -/
def storageTarget (off : Nat) : Option (Nat × Bool × Nat) :=
  let x := off - bar2Base
  let d := x / 0x4000000
  let o := x % 0x4000000
  if off < bar2Base ∨ bar2Base + 0x10000000 ≤ off then none
  else if o < 4096 then some (d, true, o)
  else if 0x100000 ≤ o then some (d, false, 0x4000000000 + 0x4000000 * d + (o - 0x100000))
  else none

/-- An access through the storage window reaches a drive whose link is trained; other PFs have no such window. -/
def storageAccess (pf off width : Nat) (write : Bool) (v : W64) (b : Block) : Block :=
  match storageTarget off with
  | none => b
  | some (d, config, addr) =>
    onlyIf (pf == b.ident.adminPf && (getDrive b d).trained) (fun b => emit b (.drive d config write addr width v)) b

/-- A write of the register at an offset, of a width in bytes, or through the storage window. -/
def effRegWriteAt (s : Src) (off width : Nat) (v : W64) (b : Block) : Block :=
  if srcIsPf s && decide (bar2Base ≤ off) then storageAccess (srcPf s) off width true v b
  else if !inWindow s off then b
  else if !accessOk off width then abortAccess b s off
  else if srcIsPf s && !mayWrite b (srcPf s) off then badSource b (srcPf s) off
  else if width = 8 then regWrite64 s off v b
  else regWrite s off (v.setWidth 32) b

/-- REGISTER_WRITE. -/
def execRegisterWrite (src : Src) (off width : Nat) (val : W64) (s : State) : Host.Outcome State Fault Refusal :=
  act s (effRegWriteAt src off width val)

/-- ADMIN_PF_WRITE. -/
def execAdminPfWrite (pf : Fin 4) (val : W32) (s : State) : Host.Outcome State Fault Refusal :=
  act s fun b => adminWrite b pf.val 0x20 (effAdminPf val)

/-- PLACE_CFG_WRITE. -/
def execPlaceCfgWrite (pf : Fin 4) (val : W32) (s : State) : Host.Outcome State Fault Refusal :=
  act s fun b => adminWrite b pf.val 0x40 (effPlaceCfg val)

end Sys2Proof.Machine
end

