-- ==== Sys2Proof/Machine/Pins.lean ====
section
/-!
DEFINITION. Machine/Pins.lean: PORST_N and the strap and slot pins (R13, R21, R270, R283, R399-R403), and the test
access port (R410).
-/

namespace Sys2Proof.Machine

/-! ## PORST_N (R270, R399-R402) -/

/-- What a port keeps through PORST_N: its module class register; the module goes back to low power (Table 15.8). -/
def portAfter (r : SpPort) : SpPort := { modClass := r.modClass }

/-- What a slot keeps: its pins, the copies of trim bits and editions, and a Kettle hold. -/
def slotAfter (s : SlotRec) : SlotRec :=
  { pwren := s.pwren, perstN := s.perstN, on := s.on, seqStart := s.seqStart, alertN := s.alertN, prsntN := s.prsntN,
    trimCopy := s.trimCopy, editionCopy := s.editionCopy, heldByKettle := s.heldByKettle }

/-- The GLT's end of a Tether forgets its streams; the sentinel itself goes on. -/
def snAfter (s : Sentinel) : Sentinel := { s with openGlt := [], brokenGlt := [], sentG := [], nextStreamGlt := 0 }

/-- The leaf registers that the AON domain holds (R334, R387, R416; chapters 6 and 10). -/
def leafInAon : Leaf → Bool
  | .st | .ck | .rs | .fl | .pt => true
  | .id | .col | .colv | .gt | .bd | .ddrUe | .sp | .lkS _ | .lkT _ | .sn _ | .sr | .fw | .hl _ | .rp _ | .sec _ => false

/-- What PORST_N leaves: the AON domain's contents, the fuses, the NOR device and the drives (R270, Table 10.6, R85, R375,
R387).  PLACE_CFG, ADMIN_PF and the other registers whose domain the manual does not name go to their reset values. -/
def afterPorst (b : Block) : Block :=
  let i := b.ident
  { b with
    leaf := b.leaf.filter fun x => leafInAon x.1,
    ident := { tray := i.tray, serial := i.serial, fittedGib := i.fittedGib, hostSplit := i.hostSplit, testMode := i.testMode,
               geoPins := i.geoPins },
    spine := { ports := b.spine.ports.map fun x => (x.1, portAfter x.2) },
    links := [],
    col := { trim := b.col.trim, autoTrim := b.col.autoTrim,
             cores := b.col.cores.map fun x => (x.1, { coreReset x.1 with margin := x.2.margin }) },
    ver := {}, tenants := [], gt := {}, sus := {},
    slots := b.slots.map fun x => (x.1, slotAfter x.2),
    bd := { coldStore := b.bd.coldStore },
    sn := b.sn.map fun x => (x.1, snAfter x.2),
    host := { pfs := b.host.pfs.map fun x => (x.1, { irqPinEn := x.2.irqPinEn }) },
    fw := { bootBank := b.fw.bootBank, banks := b.fw.banks, minSvn := b.fw.minSvn, specStore := b.fw.specStore } }

/-- PORST_N_ASSERT: every domain except AON enters reset with its edition incremented (R270, R402). -/
def effPorst (b : Block) : Block :=
  if !b.pw.porstN then b
  else afterPorst (each coreDoms (fun d b => assertDom b d) { b with pw := { b.pw with porstN := false } })

def execPorstAssert (s : State) : Host.Outcome State Fault Refusal := act s effPorst

/-- A domain is released with PORST_N: one that is kept in reset or withdrawn stays; one that no reset has marked starts. -/
def releaseAll (d : Nat) (b : Block) : Block :=
  let r := getDom b d
  if !r.inReset then startDom b d
  else if r.holdReset then b
  else finishDom b d

/-- Every sensor reads below 95 °C (R413). -/
def sensorsCool (b : Block) : Bool := b.pw.temps.all fun x => decide (x.2 < 380)

/-- PORST_N_DEASSERT: the straps are sampled; a wrong rail order keeps every domain but AON in reset (R399, R400). -/
def effPorstRelease (geo : BitVec 5) (split : BitVec 2) (test railOk : Bool) (b : Block) : Block :=
  if b.pw.porstN then b
  else
    let b1 := { b with ident := { b.ident with tray := geo, geoPins := geo, hostSplit := split, testMode := test },
                       pw := { b.pw with porstN := true, sequenceHeld := !railOk,
                                         thermTripN := b.pw.thermTripN || sensorsCool b } }
    let b2 := onlyIf (!railOk) (fun b => raise b .pt 4 (aboutAon b)) b1
    if allHeld b2 then each coreDoms (fun d b => modDom b d fun r => { r with inReset := true }) b2
    else each coreDoms releaseAll b2

def execPorstDeassert (geo : BitVec 5) (split : BitVec 2) (testMode railOrderOk : Bool) (s : State) :
    Host.Outcome State Fault Refusal :=
  act s (effPorstRelease geo split testMode railOrderOk)

/-! ## Strap and slot pins -/

/-- GEO_TRAY_CHANGE after the pins were sampled: recorded, and the place stays (R21). -/
def effGeo (geo : BitVec 5) (b : Block) : Block :=
  let b1 := { b with ident := { b.ident with geoPins := geo } }
  if geo = b.ident.geoPins || !b.pw.porstN then b1 else flyEvent b1 0x0AE0 { aboutGlt b1 with arg := geo.toNat }

def execGeoTrayChange (geo : BitVec 5) (s : State) : Host.Outcome State Fault Refusal := act s (effGeo geo)

/-- SLOT_PRSNT_CHANGE: high keeps the port down and reports the absence; low lets it train (R13, R283). -/
def effPrsnt (n : Nat) (level : Bool) (b : Block) : Block :=
  let s := getSlot b n
  if level = s.prsntN then b
  else
    let b1 := setSlot b n { s with prsntN := level, stepping := 0xA2 }
    if level then
      let b2 := tetherDown (linkDown b1 (8 + n)) n
      if s.role = roleActive ∨ s.role = roleSpare then fileSlot b2 .slotAbsent n else b2
    else trainIfMay b1 (8 + n)

def execSlotPrsntChange (slot : Fin 16) (level : Bool) (s : State) : Host.Outcome State Fault Refusal :=
  act s (effPrsnt slot.val level)

/-- SLOT_ALERT: a falling SLOT_ALERT_N files a SLOT_ALERT report (R283). -/
def effAlert (n : Nat) (level : Bool) (b : Block) : Block :=
  let b1 := modSlot b n fun s => { s with alertN := level }
  if !level && (getSlot b n).alertN then fileSlot b1 .slotAlert n else b1

def execSlotAlert (slot : Fin 16) (level : Bool) (s : State) : Host.Outcome State Fault Refusal :=
  act s (effAlert slot.val level)

/-! ## The test access port (R410) -/

/-- IDCODE. -/
def tapIdcode : W32 := 0x17216C35

/-- The instructions that drive pins. -/
def tapDrives : TapInstr → Bool
  | .extest | .extestPulse | .extestTrain | .clamp | .highz => true
  | .bypass | .idcode | .sample | .preload | .other _ => false

/-- The instruction that acts: with TRST_N low the port is in its reset state, which selects IDCODE; one that drives pins acts as BYPASS
outside PORST_N, and one outside the two standards unless debug is unlocked. -/
def tapActs (b : Block) : TapInstr :=
  let t := b.pw.tap
  if !t.trstN then .idcode
  else if tapDrives t.ir && b.pw.porstN then .bypass
  else match t.ir with
    | .other c => if t.unlocked then .other c else .bypass
    | .bypass | .idcode | .sample | .preload | .extest | .extestPulse | .extestTrain | .clamp | .highz => t.ir

/-- The slow pins that the block holds, as the boundary register captures them: four of each slot, SYNC_OUT, IRQ_N, THERM_ALERT_N,
THERM_TRIP_N, GEO_TRAY and the modules' low-power pins. -/
def boundaryCells (b : Block) : List Bool :=
  ((upFrom 0 16).flatMap fun n =>
      let s := getSlot b n
      [s.pwren, s.perstN, s.alertN, s.prsntN]) ++
    [b.time.syncOut, irqN b, !b.pw.thermAlert, b.pw.thermTripN] ++ ((upFrom 0 5).map fun i => b.ident.geoPins.getLsbD i) ++
    (upFrom 0 8).map fun p => (getPort b p).lpMode

/-- What a scan of the selected data register shifts out, first bit first; of a register outside the standards the manual says nothing. -/
def tapCapture (b : Block) : List Bool :=
  match tapActs b with
  | .idcode => (upFrom 0 32).map fun i => tapIdcode.getLsbD i
  | .sample | .preload | .extest | .extestPulse | .extestTrain => boundaryCells b
  | .bypass | .clamp | .highz | .other _ => [false]

/-- The pins that the port drives, where it drives any: the boundary register's latched values. -/
def tapPins (b : Block) : Option (List Bool) := if tapDrives (tapActs b) then some b.pw.tap.update else none

/-- An instruction is loaded. -/
def tapLoad (i : TapInstr) (b : Block) : Block := modPw b fun p => { p with tap := if p.tap.trstN then { p.tap with ir := i } else p.tap }

/-- TRST_N changes; low resets the port. -/
def tapReset (level : Bool) (b : Block) : Block :=
  modPw b fun p => { p with tap := { p.tap with trstN := level, ir := if level then p.tap.ir else .idcode } }

/-- A scan of the boundary register ends in Update-DR. -/
def tapUpdate (l : List Bool) (b : Block) : Block :=
  match tapActs b with
  | .preload | .sample | .extest | .extestPulse | .extestTrain => modPw b fun p => { p with tap := { p.tap with update := l } }
  | .bypass | .idcode | .clamp | .highz | .other _ => b

end Sys2Proof.Machine
end

