-- ==== Sys2Proof/Machine/ReadRegs.lean ====
section
/-!
DEFINITION. Machine/ReadRegs.lean: what a read of a BAR0 register or of a VF's window returns (R7-R9, R12, R27, R28, R156): the
value of every register of the manual's tables, zero in reserved bits, from write-only registers and at unassigned offsets; and
the counters that a read clears.
-/

namespace Sys2Proof.Machine

/-! ## Words -/

/-- A register's value from a number. -/
def w32 (n : Nat) : W32 := BitVec.ofNat 32 n

/-- The low or high register of a 64-bit pair. -/
def half (w : W64) (hi : Bool) : W32 := if hi then w.extractLsb' 32 32 else w.extractLsb' 0 32

/-- The register `i` of a block of bytes, in ascending order; beyond its end 0. -/
def wordAt (l : List Byte) (i : Nat) : W32 := w32 (leNat ((l.drop (4 * i)).take 4))

/-- An amount of bytes in units, rounded up. -/
def inUnits (n unit : Nat) : W32 := w32 ((n + unit - 1) / unit)

/-! ## Identity, interrupts, rings (Tables 1.5-1.8, 13.2, 13.13) -/

def readIdent (b : Block) (off : Nat) : W32 :=
  let i := b.ident
  if off = 0 then 0x7216
  else if off = 4 then 0xB1
  else if off = 8 ∨ off = 0xC then half i.serial (off == 0xC)
  else if off = 0x10 then capReg b
  else if off = 0x20 then w32 i.adminPf
  else if off = 0x40 then
    w32 (i.rack.toNat + 64 * i.block.toNat + 4096 * i.hall.toNat + 65536 * i.tray.toNat + 2147483648 * bit i.valid)
  else if off = 0x48 ∨ off = 0x4C then half ((ownPlace b).setWidth 64) (off == 0x4C)
  else if off = 0x50 then leafGet b .id
  else 0

def readInt (b : Block) (pf off : Nat) : W32 :=
  let r := getPf b pf
  if off = 0 then r.intPend.setWidth 32
  else if off = 4 then r.intEn.setWidth 32
  else if off = 8 then (intRaw b pf).setWidth 32
  else if off = 0xC then r.irqPinEn.setWidth 32
  else if off = 0x10 then leafGet b (.hl pf)
  else if off = 0x14 then leafGet b (.rp pf)
  else if off = 0x18 then leafGet b (.sec pf)
  else 0

/-- CR_STATUS. -/
def crStatus (b : Block) (s : Src) (ring : Nat) : W32 :=
  let c := getCr b s ring
  w32 (bit c.en + 2 * bit c.stalled + 4 * bit c.error + 256 * ((ringOut b s ring).length % 256))

def readRing (b : Block) (s : Src) (ring off : Nat) : W32 :=
  let c := getCr b s ring
  if !ringThere b s ring then 0
  else if off = 0 ∨ off = 4 then half c.sqBase (off == 4)
  else if off = 8 ∨ off = 0xC then half c.cqBase (off == 0xC)
  else if off = 0x10 then w32 (c.sqLog + 16 * c.cqLog)
  else if off = 0x14 then w32 (bit c.en + 256 * c.vector + 65536 * c.maxOut)
  else if off = 0x18 then w32 c.sqTail
  else if off = 0x1C then w32 c.sqHead
  else if off = 0x20 then w32 c.cqHead
  else if off = 0x24 then w32 c.cqTail
  else if off = 0x28 then crStatus b s ring
  else if off = 0x2C then w32 (c.coalN + 256 * c.coalUs)
  else 0

/-! ## Spine time (Tables 6.5-6.8) -/

/-- The oldest received TIMED cell as ST_RXQ_ENTRY shows it: the manual gives its 30 bytes in seven registers no layout. -/
def rxqWord (b : Block) (i : Nat) : W32 :=
  match b.time.rxq with
  | [] => 0
  | x :: _ => Config.rxqWord x.id x.payload x.launch x.arrival i

def readTsq (b : Block) (off : Nat) : W32 :=
  let x := (b.time.tsq.head?).getD {}
  if off = 0xC0 then w32 (b.time.tsq.length + 256 * (x.port % 8))
  else if off = 0xC4 then w32 (x.id.toNat + 65536 * (x.stamp % 65536))
  else half (r111 (x.stamp / 65536)) (off == 0xCC)

/-- A register of spine time for a reader: ST_SUB, the seconds and the high word of ST_PPS_IN come from its shadow (R156). -/
def readTime (b : Block) (r : TimeReader) (off : Nat) : W32 :=
  let t := b.time
  let s := getShadow b r
  if off = 0 then w32 (2 * bit t.loadAt + 8 * bit t.fwServo + 16 * bit t.syncEn + 32 * bit t.stepFollow)
  else if off = 4 then stStatus b
  else if off = 8 then leafGet b .st
  else if off = 0x10 then w32 t.nsec
  else if off = 0x14 then s.sub.setWidth 32
  else if off = 0x18 ∨ off = 0x1C then half (s.sec.setWidth 64) (off == 0x1C)
  else if off = 0x20 then t.setNsec.setWidth 32
  else if off = 0x24 then t.setSub.setWidth 32
  else if off = 0x28 ∨ off = 0x2C then half (t.setSec.setWidth 64) (off == 0x2C)
  else if off = 0x30 ∨ off = 0x34 then half (t.incr.setWidth 64) (off == 0x34)
  else if off = 0x38 then BitVec.ofInt 32 t.adj
  else if off = 0x3C then w32 t.adjSpan
  else if off = 0x40 then BitVec.ofInt 32 (t.adjRem / 2 ^ 32)
  else if off = 0x50 then w32 t.syncIntervalUs
  else if off = 0x54 then w32 t.holdoverLimitS
  else if off = 0x58 then w32 t.stepLimitNs
  else if off = 0x60 ∨ off = 0x64 then half (BitVec.ofInt 64 t.offset) (off == 0x64)
  else if off = 0x68 then t.pdelay
  else if off = 0x6C then t.exch.setWidth 32
  else if 0x80 ≤ off ∧ off < 0xA0 then BitVec.ofInt 32 (tabGet 0 t.asym ((off - 0x80) / 4))
  else if 0xC0 ≤ off ∧ off < 0xD0 then readTsq b off
  else if off = 0xE0 then w32 (bit t.ppsInEn + 2 * bit t.ppsDiscipline + 4 * t.ppsOutMode.toNat + 256 * t.ppsOutWidth)
  else if off = 0xE4 then BitVec.ofInt 32 t.ppsOffset
  else if off = 0xE8 then half (r111 (t.ppsIn / 65536)) false
  else if off = 0xEC then s.ppsHi
  else if off = 0x100 then w32 t.rxq.length
  else if 0x104 ≤ off ∧ off < 0x120 then rxqWord b ((off - 0x104) / 4)
  else if off = 0x124 then w32 t.launches.length
  else 0

/-! ## Clocks, DDR and links (Tables 12.10-12.15) -/

def pllStateCode : PllState → Nat
  | .off => 0 | .locking => 1 | .ready => 2 | .relocking => 3 | .failed => 4

def readDdr (b : Block) (off : Nat) : W32 :=
  let k := b.ck
  let trained := foldOver (fun v c => v + 2 ^ c * bit (getDdr b c).trained) 0 (upFrom 0 8)
  if off = 0 then w32 (bit k.autoRetrain)
  else if off = 4 then w32 (k.ddrRate.toNat + 8 * bit k.twoDimms + 256 * trained + 65536 * k.retraining.toNat)
  else if off = 8 then w32 k.tempDelta
  else if 0x10 ≤ off ∧ off < 0x30 then
    let c := getDdr b ((off - 0x10) / 4)
    w32 ((c.tempTrained % 256).toNat + 256 * (c.tempNow % 256).toNat + 65536 * bit c.pending)
  else 0

def readClock (b : Block) (off : Nat) : W32 :=
  let k := b.ck
  if off = 0 then w32 (bit k.mpllAuto + 2 * bit k.driftEn)
  else if off = 8 then leafGet b .ck
  else if off = 0x10 then w32 k.driftPpm
  else if off = 0x20 then BitVec.ofInt 32 k.dAB
  else if off = 0x24 then BitVec.ofInt 32 k.dAS
  else if off = 0x28 then BitVec.ofInt 32 k.dBS
  else if 0x30 ≤ off ∧ off < 0x3C then
    let r := getRef b ((off - 0x30) / 4)
    w32 (bit r.present + 2 * bit r.ready + 4 * bit r.drift + 8 * bit r.third)
  else if 0x100 ≤ off ∧ off < 0x130 then
    let p := getPll b ((off - 0x100) / 4)
    w32 (bit p.srcB + 2 * pllStateCode p.state + 65536 * Nat.min p.losses 65535)
  else if off = 0x200 ∨ off = 0x204 then
    let s := tabGet {} k.ssc ((off - 0x200) / 4)
    w32 (bit s.en + 2 * s.depth + 64 * s.freq)
  else if off = 0x210 then w32 k.cpllFreq
  else if 0x1000 ≤ off then readDdr b (off - 0x1000)
  else 0

/-- LK_STATUS. -/
def lkStatus (k : Link) : W32 :=
  w32 (linkStateCode k.state + 8 * k.width + 64 * (laneMask k (·.inUse)).toNat + 1024 * (laneMask k (·.quarantined)).toNat +
    16384 * (laneMask k (·.selftest)).toNat + 262144 * bit k.leader + 524288 * bit k.slotPending)

/-- LK_LANE. -/
def lkLane (k : Link) (l : Nat) : W32 :=
  let x := tabGet {} k.lanes l
  w32 (bit x.lock + 2 * bit x.polarity + 4 * bit x.inUse + 8 * bit x.quarantined + 16 * bit x.clean + 256 * x.preset.toNat +
    65536 * x.eyeMargin.toNat)

/-- LK_FLAPS: the bad events of each lane within the last 60 s, saturating in its four bits. -/
def lkFlaps (b : Block) (k : Link) : W32 :=
  let events (l : Nat) : Nat := ((tabGet {} k.lanes l).bad.filter fun t => decide (nowNs b < t + 60 * nsPerSec)).length
  w32 (foldOver (fun v l => v + 16 ^ l * Nat.min (events l) 15) 0 (upFrom 0 4))

def readLink (b : Block) (l off : Nat) : W32 :=
  let k := getLink b l
  if off = 0 then w32 (k.maxWidth + 8 * bit k.adaptEn + 16 * bit k.marginEn)
  else if off = 4 then lkStatus k
  else if off = 8 then leafGet b (lkLeaf l)
  else if off = 0xC then w32 (Nat.min k.ber (2 ^ 32 - 1))
  else if off = 0x1C then lkFlaps b k
  else if off = 0x20 ∨ off = 0x24 then half (k.slot.elim 0 r111) (off == 0x24)
  else if off = 0x28 then w32 k.rtt
  else if off = 0x30 then w32 k.marginBer
  else if off = 0x34 then w32 k.urgentBer
  else if off = 0x38 then w32 k.slotMaxS
  else if 0x40 ≤ off ∧ off < 0x50 then lkLane k ((off - 0x40) / 4)
  else 0

/-! ## Spine ports and Tether ports (Tables 5.12-5.18, 9.8) -/

def portStateCode : PortState → Nat
  | .down => 0 | .training => 1 | .active => 2 | .standby => 3 | .failed => 4 | .miscabled => 5

def gradeCode : Grade → Nat
  | .good => 0 | .marginal => 1 | .failed => 2 | .ungraded => 3

def readSpRing (b : Block) (k off : Nat) : W32 :=
  let r := getRing b k
  if off = 0 then
    w32 (r.present % 128 + 128 * bit r.folded + 256 * bit r.head + 512 * bit (ringMember b k) + 1024 * r.epoch.toNat)
  else if off = 8 ∨ off = 0xC then half r.map (off == 0xC)
  else 0

def readSpine (b : Block) (off : Nat) : W32 :=
  let s := b.spine
  if off = 0 then w32 (bit s.enable + 2 * bit s.failoverAuto + 4 * bit s.failbackAuto + 8 * bit s.unfoldAuto)
  else if off = 4 then spStatus b
  else if off = 8 then leafGet b .sp
  else if off = 0x10 then w32 s.redTimeoutMs
  else if off = 0x14 then w32 s.bcastTimeoutS
  else if 0x20 ≤ off ∧ off < 0x30 then w32 (nthD 0 s.relLead ((off - 0x20) / 4))
  else if 0x40 ≤ off ∧ off < 0x60 then
    let p := getPort b ((off - 0x40) / 4)
    w32 (bit p.en + 2 * bit p.selftest + 8 * bit p.holdFold)
  else if 0x60 ≤ off ∧ off < 0x80 then
    let p := getPort b ((off - 0x60) / 4)
    w32 (portStateCode p.state + 8 * gradeCode p.grade + 32 * bit p.turned + 64 * bit p.dual)
  else if 0x80 ≤ off ∧ off < 0xC0 then half ((getPort b ((off - 0x80) / 8)).nbr.setWidth 64) (off % 8 == 4)
  else if 0x100 ≤ off ∧ off < 0x120 then
    let x := tabGet {} s.xchan ((off - 0x100) / 4)
    w32 (x.tenant + 2147483648 * bit x.valid)
  else if 0x140 ≤ off ∧ off < 0x180 then readSpRing b ((off - 0x140) / 16) (off % 16)
  else if 0x1000 ≤ off ∧ off < 0x1800 then readLink b ((off - 0x1000) / 0x100) (off % 0x100)
  else 0

def readTether (b : Block) (off : Nat) : W32 :=
  if off < 0x1000 then readLink b (8 + off / 0x100) (off % 0x100)
  else if 0x8000 ≤ off then snReg b ((off - 0x8000) / 0x800) (off % 0x800)
  else 0

/-! ## Collator and verdicts (Tables 3.15-3.18, 4.11-4.14) -/

def slotPhaseCode : SlotPhase → Nat
  | .empty => 0 | .loading => 1 | .active => 2 | .draining => 3 | .failed => 4

/-- COL_SLOT_STATE. -/
def colSlotState (b : Block) (s : Nat) : W32 :=
  let x := getPslot b s
  w32 (slotPhaseCode x.state + 8 * bit (decide (s < 8)) + 256 * (x.origins.length % 256) + 65536 * (if s < 8 then 0 else x.tenant))

/-- COL_SLOT_CYCLES: the microcode's limit for the slots of the default programs (R76). -/
def colSlotCycles (b : Block) (s : Nat) : W32 :=
  if s < 8 ∨ (getPslot b s).state ≠ .empty then w32 (slotLimit b 0 s) else 0

/-- CORE_OBS_STATE of the selected core (Table 3.15). -/
def coreObs (b : Block) (c : Nat) : W32 :=
  let k := getCore b c
  let waits := match k.wait with
    | .send => (false, true)
    | .waite _ _ => (true, false)
    | .none | .dma _ | .xacc | .fence => (false, false)
  w32 (bit (coreTrimmed b c) + 2 * bit k.tile.isSome + 4 * bit waits.1 + 8 * bit waits.2 + 16 * k.progSlot)

def readCol (b : Block) (off : Nat) : W32 :=
  let slots := (upFrom 0 64).filter fun s => decide ((getPslot b s).state = .active)
  if off = 0 then w32 (bit b.col.dispatchEn)
  else if off = 4 then w32 ((untrimmed b).length + 1024 * slots.length)
  else if off = 8 then leafGet b .col
  else if 0x100 ≤ off ∧ off < 0x140 then tabGet 0 b.col.trim ((off - 0x100) / 4)
  else if 0x140 ≤ off ∧ off < 0x180 then maskReg fun i => coreTrimmed b (32 * ((off - 0x140) / 4) + i)
  else if 0x180 ≤ off ∧ off < 0x1C0 then tabGet 0 b.col.autoTrim ((off - 0x180) / 4)
  else if 0x1000 ≤ off ∧ off < 0x1400 then
    let s := (off - 0x1000) / 16
    if off % 16 = 0 then colSlotState b s
    else if off % 16 = 4 then w32 (getPslot b s).svn
    else if off % 16 = 8 then colSlotCycles b s
    else 0
  else if off = 0x2000 then b.col.obsSel.setWidth 32
  else if off = 0x2004 then coreObs b b.col.obsSel.toNat
  else if off = 0x2008 then (getCore b b.col.obsSel.toNat).pc
  else 0

/-- T_MODE (Table 4.14). -/
def tMode (r : TenantRec) : W32 :=
  w32 (bit r.strict + 2 * bit r.effStrict + 4 * bit (r.pendMode.isSome || r.pendRates.isSome) + 8 * bit r.raised + 16 * r.raise +
    256 * bit r.waiveLoss + 65536 * r.weight)

/-- Exponents of classes from `first`, 5 bits each; 31 means off. -/
def rateReg (r : TenantRec) (first n : Nat) : W32 :=
  w32 (foldOver (fun v i => v + 32 ^ i * ((nthD none r.rates (first + i)).getD 31)) 0 (upFrom 0 n))

/-- Tiles of the tenant that are UNRESOLVED (R101). -/
def tUnresolved (b : Block) (t : Nat) : W32 :=
  w32 (b.ver.tiles.filter fun x => decide (x.phase = .unresolved) && x.hdr.tenant.val == t).length

def readTVer (b : Block) (t off : Nat) : W32 :=
  let r := getTen b t
  if !r.exists' then 0
  else if off = 0 then tMode r
  else if off = 4 then rateReg r 0 6
  else if off = 8 then rateReg r 6 2
  else if off = 0xC then w32 r.quotaMib
  else if off = 0x10 then w32 r.started
  else if off = 0x14 then tUnresolved b t
  else if off = 0x18 then w32 (Nat.min r.fails (2 ^ 32 - 1))
  else 0

def readVer (b : Block) (off : Nat) : W32 :=
  if off = 0 then w32 (bit b.ver.force)
  else if off = 4 then w32 b.ver.waitMs
  else if off = 8 then w32 b.ver.queueGib
  else if off = 0xC then inUnits (queueBytes b) 1048576
  else if off = 0x10 then leafGet b .colv
  else if 0x4000 ≤ off ∧ off < 0xC000 then readTVer b ((off - 0x4000) / 32) (off % 32)
  else 0

/-! ## Gathering and binding (Tables 7.7-7.12, 8.9-8.11) -/

def gathPhaseCode : GathPhase → Nat
  | .idle => 0 | .copying => 1 | .copied => 2 | .digested => 3 | .abandoned => 4

/-- The slots of a tenant's ranks on this tray. -/
def slotsOf (b : Block) (t : Nat) : List Nat :=
  (upFrom 0 16).filter fun n => decide ((getSlot b n).role = roleActive) && (getSlot b n).tenant == t

/-- T_GATH_NUM: the gathering being copied or last handed to binding. -/
def tGathNum (b : Block) (t : Nat) : Nat := foldOver (fun m n => Nat.max m (getSlot b n).gathering) 0 (slotsOf b t)

/-- STATE of T_GATH: the least advanced among the tenant's slots and the comparisons that this GLT owns (Table 7.12). -/
def tGathState (b : Block) (t : Nat) : Nat :=
  let slot (n : Nat) : Nat := match (getSlot b n).gphase with
    | .idle => 0 | .copying => 1 | .copied => 2 | .digested => 4 | .abandoned => 5
  let sigs := (getG b t (tGathNum b t)).sigs
  let own := if sigs.any fun s => s.owned && decide (1 < s.groupSize) && !s.matched then [3] else []
  match (slotsOf b t).map slot ++ own with
  | [] => 0
  | x :: l => foldOver Nat.min x l

def readTGath (b : Block) (t off : Nat) : W32 :=
  let r := getTen b t
  let g := getG b t (tGathNum b t)
  if !r.exists' then 0
  else if off = 0 then w32 (tGathState b t + 8 * bit g.deep + 16 * bit g.diverged + 32 * bit (!r.pendLists.isEmpty))
  else if off = 4 then w32 (tGathNum b t)
  else if off = 8 then w32 r.deepMark
  else 0

def readGtSlot (b : Block) (n off : Nat) : W32 :=
  let s := getSlot b n
  if off = 0 then w32 (gathPhaseCode s.gphase + 8 * bit s.deep + 16 * s.regions.length + 4096 * s.tenant)
  else if off = 4 then w32 s.paceCap
  else if off = 8 then w32 s.left
  else 0

/-- GT_STATUS (Table 7.8). -/
def gtStatus (b : Block) : W32 :=
  let fill := Nat.min 100 (100 * stagedBytes b / (b.gt.stageGib * gib))
  let lv := match b.gt.level with
    | .normal => 0 | .throttled => 1 | .backpressure => 2
  w32 (fill + 128 * lv)

def readGt (b : Block) (off : Nat) : W32 :=
  let g := b.gt
  if off = 0 then w32 (bit g.pregatherEn)
  else if off = 4 then gtStatus b
  else if off = 8 then leafGet b .gt
  else if off = 0x10 then w32 g.stageGib
  else if off = 0x14 then inUnits (stagedBytes b) 1048576
  else if off = 0x18 then w32 (g.throttlePct + 256 * g.backpressurePct + 65536 * g.hystPct)
  else if off = 0x1C then w32 g.pace
  else if off = 0x20 then w32 g.digestTimeoutMs
  else if 0x100 ≤ off ∧ off < 0x300 then readGtSlot b ((off - 0x100) / 32) (off % 32)
  else if 0x8000 ≤ off ∧ off < 0xC000 then readTGath b ((off - 0x8000) / 16) (off % 16)
  else 0

/-- A drive's registers; the addresses of its queues are the GLT's own choice (R224). -/
def readNvme (b : Block) (d off : Nat) : W32 :=
  let x := getDrive b d
  if off = 0 then w32 (bit x.en + 2 * x.stride.toNat + 65536 * x.qid.toNat)
  else if off = 4 then x.nsid
  else if off = 8 ∨ off = 0xC then half x.bar (off == 0xC)
  else if off = 0x10 ∨ off = 0x14 then half x.lba (off == 0x14)
  else if off = 0x18 ∨ off = 0x1C then half x.cnt (off == 0x1C)
  else if off = 0x20 ∨ off = 0x24 then half (Config.nvmeSq d) (off == 0x24)
  else if off = 0x28 ∨ off = 0x2C then half (Config.nvmeCq d) (off == 0x2C)
  else if off = 0x30 then w32 x.qdepth
  else if off = 0x34 then w32 (bit x.ready + 2 * bit x.error + 65536 * x.lastErr.toNat)
  else 0

def bindPhaseCode : BindPhase → Nat
  | .binding => 1 | .signing => 2 | .voting => 3 | .sewn => 4 | .failed => 5

/-- T_BIND (Table 8.11). -/
def tBind (b : Block) (t : Nat) : W32 :=
  let r := getTen b t
  let state := (r.gatherings.getLast?).elim 0 fun g => bindPhaseCode g.phase
  let degraded := b.bd.extents.any fun e => e.tenant == t && e.lost && (retained r).any fun g => g.n == e.gathering
  w32 (state + 8 * bit (b.bd.jobs.any fun j => j.tenant == t) + 16 * bit r.coldBusy.isSome + 32 * bit degraded +
    64 * Nat.min (retained r).length 7)

/-- T_RESTORE: the restore point of the current hold. -/
def tRestore (r : TenantRec) : Nat := if holdActive r.hold then r.hold.restorePoint else 0

def readTBind (b : Block) (t off : Nat) : W32 :=
  let r := getTen b t
  let held := listSum ((b.bd.extents.filter fun e => e.tenant == t).map extentBytes)
  if !r.exists' then 0
  else if off = 0 then tBind b t
  else if off = 4 then w32 r.lastSewn
  else if off = 8 ∨ off = 0xC then half (r111 r.lastTc) (off == 0xC)
  else if off = 0x10 then w32 (tRestore r)
  else if off = 0x14 then
    w32 (r.sigShift + 64 * r.k + 1024 * r.m + 8192 * r.retain + 65536 * r.coldEvery + 16777216 * bit r.protectRepl)
  else if off = 0x18 then inUnits held gib
  else if off = 0x1C then w32 r.coldGathering
  else 0

def readBd (b : Block) (off : Nat) : W32 :=
  let x := b.bd
  if off = 0 then w32 (bit x.coldEn)
  else if off = 4 then w32 b.ident.fittedGib
  else if off = 8 then leafGet b .bd
  else if off = 0xC then inUnits (bdUsed b) 1048576
  else if off = 0x10 then w32 x.colophonTimeoutMs
  else if off = 0x14 then w32 x.readTimeoutMs
  else if off = 0x18 then w32 x.xferTimeoutMs
  else if 0x100 ≤ off ∧ off < 0x200 then readNvme b ((off - 0x100) / 64) (off % 64)
  else if 0x8000 ≤ off then readTBind b ((off - 0x8000) / 32) (off % 32)
  else 0

/-! ## Holds, domains, suspects, Kettle (Tables 10.9-10.13, 11.7-11.12) -/

/-- RS_DOM (Table 10.11). -/
def rsDom (b : Block) (d : Nat) : W32 :=
  let r := getDom b d
  w32 (r.edition.toNat + 256 * bit r.inReset + 512 * bit r.withdrawn + 1024 * Nat.min (recentResets b d) 15 + 65536 * bit r.holdReset)

def holdPhaseCode : HoldPhase → Nat
  | .none => 0 | .scheduled => 1 | .cutting => 2 | .held => 3 | .incomplete => 4

def readHr (b : Block) (t off : Nat) : W32 :=
  let h := (getTen b t).hold
  if off = 0 then
    w32 (holdPhaseCode h.phase + 8 * bit h.late + 16 * bit (h.unbounded != 0) + 32 * bit (h.collateInHold && decide (h.phase ≠ .none)))
  else if off = 4 then h.holdId
  else if off = 8 ∨ off = 0xC then half (r111 h.time) (off == 0xC)
  else 0

def recPhaseCode : RecPhase → Nat
  | .none => 0 | .holding => 1 | .acting => 2 | .restoring => 3 | .replaying => 4 | .isolating => 5 | .waitHost => 6

def entryStateCode : EntryState → Nat
  | .free => 0 | .opened => 1 | .watch => 2 | .suspect => 3

/-- A suspect entry (Table 11.10). -/
def suspectBytes (e : Entry) : List Byte :=
  let flags := bit e.isLocal + 2 * bit e.silent + 4 * bit e.selfRep + 8 * bit e.reporterRule + 16 * bit e.isolating
  if e.state = .free then zeroBytes 64
  else
    leBytes 5 e.target.toNat ++ leBytes 1 (repCode e.kind) ++ leBytes 1 (entryStateCode e.state) ++ leBytes 1 flags ++
      leBytes 5 e.first.toNat ++ leBytes 5 e.last.toNat ++ leBytes 2 (Nat.min e.reporters.length 65535) ++ leBytes 4 e.count ++
      leBytes 8 (r111 e.firstTime).toNat ++ leBytes 8 (r111 e.lastTime).toNat ++
      leBytes 8 (if e.decided = 0 then 0 else (r111 e.decided).toNat) ++ leBytes 2 e.temp.toNat ++ leBytes 2 e.voltage.toNat ++
      leBytes 4 e.context.toNat ++ zeroBytes 8

def readSrTen (b : Block) (t off : Nat) : W32 :=
  let r := getTen b t
  if !r.exists' then 0
  else if off = 0 then w32 (recPhaseCode r.rec'.phase + 8 * bit (isLeader b t) + 16 * bit r.raised)
  else if off = 4 then w32 (Nat.min r.rec'.count (2 ^ 32 - 1))
  else if off = 8 ∨ off = 0xC then half (r.rec'.target.setWidth 64) (off == 0xC)
  else 0

/-- SR_SLOT_ROLE (Table 11.11). -/
def srSlotRole (b : Block) (n : Nat) : W32 :=
  let s := getSlot b n
  w32 (s.role.toNat + 4 * s.group.toNat + 16384 * bit (warm b n) + 32768 * bit s.claimed +
    65536 * (if s.role = roleActive then s.tenant else 0))

def readSr (b : Block) (off : Nat) : W32 :=
  let x := b.sus
  if off = 0 then w32 (bit x.auto + 2 * bit x.autoTipin + 4 * bit x.isolateEn)
  else if off = 4 then leafGet b .sr
  else if off = 8 then w32 x.mergeWindowUs
  else if off = 0xC then w32 x.probeTimeoutMs
  else if off = 0x10 then w32 x.ageS
  else if off = 0x14 then w32 x.trimMax
  else if off = 0x18 then w32 x.linkGraceMs
  else if off = 0x1C then w32 x.restoreTimeoutS
  else if off = 0x20 then w32 x.isolateMax
  else if off = 0x24 then w32 (x.entries.filter fun e => decide (e.2.state ≠ .free)).length
  else if off = 0x40 then x.sel.setWidth 32
  else if 0x80 ≤ off ∧ off < 0xC0 then wordAt (suspectBytes (tabGet {} x.entries x.sel.toNat)) ((off - 0x80) / 4)
  else if 0x100 ≤ off ∧ off < 0x140 then srSlotRole b ((off - 0x100) / 4)
  else if 0x1000 ≤ off ∧ off < 0x5000 then readSrTen b ((off - 0x1000) / 16) (off % 16)
  else 0

def readRs (b : Block) (off : Nat) : W32 :=
  let x := b.hr
  if off = 0 then leafGet b .rs
  else if off = 4 then w32 x.minLeadUs
  else if off = 8 then w32 x.cutTimeoutMs
  else if off = 0x10 then w32 x.escCount
  else if off = 0x14 then w32 x.escWindowS
  else if 0x100 ≤ off ∧ off < 0x1C4 then rsDom b ((off - 0x100) / 4)
  else if 0x1000 ≤ off ∧ off < 0x5000 then readHr b ((off - 0x1000) / 16) (off % 16)
  else if 0x5000 ≤ off then readSr b (off - 0x5000)
  else 0

def readKt (b : Block) (pf : Fin 4) (off : Nat) : W32 :=
  let k := getRoute b (.window pf)
  if off = 4 then ktStatus k
  else if 0x10 ≤ off ∧ off < 0x20 then nthD 0 k.args ((off - 0x10) / 4)
  else if off = 0x20 ∨ off = 0x24 then half k.nonce (off == 0x24)
  else if 0x40 ≤ off ∧ off < 0x80 then nthD 0 k.data ((off - 0x40) / 4)
  else if 0x100 ≤ off ∧ off < 0x1A0 then nthD 0 k.token ((off - 0x100) / 4)
  else 0

/-! ## Observation, Flyleaf, power, firmware (Tables 14.10-14.12, 15.12-15.16, 13.24, 13.25) -/

def readObs (b : Block) (off : Nat) : W32 :=
  if off = 0 then w32 (bit b.obs.latchBusy)
  else if off = 8 ∨ off = 0xC then half (r111 b.obs.latchTime) (off == 0xC)
  else if 0x8000 ≤ off then half (tabGet 0 b.obs.counters ((off - 0x8000) / 8)) (off % 8 == 4)
  else 0

/-- Uncopied records of the ring. -/
def flyBacklog (b : Block) : Nat := (b.fly.ring.filter fun r => decide (b.fly.mirrored < r.seq)).length

/-- FL_STATUS (Table 14.12). -/
def flStatus (b : Block) : W32 :=
  let f := b.fly
  w32 (bit (decide (flyBacklog b ≠ 0)) + 2 * bit f.clearing + 4 * bit f.gone + 8 * bit (!f.scanned) + 16 * flyBacklog b)

def readFl (b : Block) (off : Nat) : W32 :=
  let f := b.fly
  let n64 (n : Nat) : W64 := BitVec.ofNat 64 n
  if off = 0 then w32 (bit f.mirrorEn)
  else if off = 4 then flStatus b
  else if off = 8 then leafGet b .fl
  else if off = 0x10 ∨ off = 0x14 then half (n64 f.next) (off == 0x14)
  else if off = 0x18 ∨ off = 0x1C then half (n64 ((f.ring.head?).elim f.next fun r => r.seq)) (off == 0x1C)
  else if off = 0x20 ∨ off = 0x24 then half (n64 f.mirrored) (off == 0x24)
  else if off = 0x30 ∨ off = 0x34 then half f.nonce (off == 0x34)
  else if off = 0x40 then f.selLo
  else if off = 0x44 then f.selHi
  else if 0x80 ≤ off ∧ off < 0xC0 then wordAt (f.data.elim [] flyBytes) ((off - 0x80) / 4)
  else 0

/-- PT_STATUS (Table 15.14). -/
def ptStatus (b : Block) : W32 :=
  let p := b.pw
  w32 (p.aonSrc.toNat + 4 * bit p.aValid + 8 * bit p.bValid + 16 * bit p.holdOk + 32 * bit p.thermAlert +
    64 * bit (decide (b.col.withheld ≠ 0)) + 128 * b.col.withheld + 2048 * bit p.tripped)

/-- PS_SLOT_PINS: four bits for each slot. -/
def slotPins (b : Block) : W64 :=
  let pins (n : Nat) : Nat :=
    let s := getSlot b n
    bit s.pwren + 2 * bit s.perstN + 4 * bit s.alertN + 8 * bit s.prsntN
  BitVec.ofNat 64 (foldOver (fun v n => v + 16 ^ n * pins n) 0 (upFrom 0 16))

def readPt (b : Block) (off : Nat) : W32 :=
  let p := b.pw
  if off = 0 then w32 (bit p.throttleEn + 2 * bit p.capEn + 4 * bit p.preferA)
  else if off = 4 then ptStatus b
  else if off = 8 then leafGet b .pt
  else if off = 0x10 then w32 p.alarmTemp
  else if off = 0x14 then w32 p.throttleTemp
  else if off = 0x18 then w32 p.capW
  else if off = 0x1C then w32 p.powerMw
  else if off = 0x20 then p.droop.setWidth 32
  else if 0x100 ≤ off ∧ off < 0x160 then w32 (tabGet 0 p.temps ((off - 0x100) / 4) % 4096).toNat
  else if 0x200 ≤ off ∧ off < 0x228 then w32 (tabGet 0 p.volts ((off - 0x200) / 4))
  else if off = 0x300 then w32 (foldOver (fun v n => v + 2 ^ n * bit (getSlot b n).on) 0 (upFrom 0 16))
  else if off = 0x308 ∨ off = 0x30C then half (slotPins b) (off == 0x30C)
  else if off = 0x310 then w32 (p.slewAon.toNat + 4 * p.driveAon.toNat + 16 * p.slewIo.toNat + 64 * p.driveIo.toNat)
  else if 0x320 ≤ off ∧ off < 0x340 then w32 (getPort b ((off - 0x320) / 4)).modClass
  else 0

/-- FW_STATUS (Table 13.25). -/
def fwStatus (b : Block) : W32 :=
  let f := b.fw
  let state := match f.phase with
    | .boot => 0
    | .running => if f.trialEnd.isSome then 4 else 1
    | .rebinding => 2
    | .gap => 3
  w32 (bit f.bank + 2 * bit f.pair + 4 * bit f.single + 8 * state + 64 * bit f.standbyReady + 128 * bit f.ucodeBank + 256 * bit f.sntBank)

/-- A log entry (Table 13.23). -/
def logBytes (e : LogEntry) : List Byte :=
  leBytes 8 (r111 e.time).toNat ++ leBytes 4 e.seq ++ leBytes 1 e.cls ++ leBytes 1 e.level ++ leBytes 1 e.core.toNat ++ zeroBytes 1 ++
    leBytes 4 e.pc.toNat ++ leBytes 4 e.code.toNat ++ leBytes 8 e.arg.toNat

/-- The log ring: entry SEQ stands at SEQ modulo 1,536. -/
def readLog (b : Block) (off : Nat) : W32 :=
  match b.fw.log.find? fun e => e.seq % 1536 == off / 32 with
  | none => 0
  | some e => wordAt (logBytes e) (off % 32 / 4)

def readFw (b : Block) (off : Nat) : W32 :=
  let f := b.fw
  if off = 0 then w32 (bit f.logEn + 2 * f.logLevel)
  else if off = 4 then fwStatus b
  else if off = 8 then leafGet b .fw
  else if off = 0xC then f.heartbeat
  else if off = 0x10 then f.version
  else if off = 0x14 then w32 f.svn
  else if off = 0x18 then (bankImage b 0 !f.bank).elim 0 fun i => i.version
  else if off = 0x20 ∨ off = 0x24 then half f.traceEn (off == 0x24)
  else if off = 0x28 then w32 f.trialS
  else if off = 0x2C then w32 f.rebindLeadMs
  else if off = 0x30 then w32 f.specPeriodS
  else if off = 0x40 then w32 f.logWr
  else if 0x4000 ≤ off then readLog b (off - 0x4000)
  else 0

/-! ## The VF window (Tables 1.13, 4.15, 8.12, 13.14) -/

/-- VF_CNT: the verdict counts of the last interval whose deadline has passed (R109). -/
def vfCount (r : TenantRec) (i : Nat) : W32 :=
  w32 (((r.gatherings.filter fun g => g.deadlinePassed).getLast?).elim 0 fun g => nthD 0 g.verdictCounts i)

def readVfTenant (b : Block) (t off : Nat) : W32 :=
  let r := getTen b t
  if 0x8000 ≤ off ∧ off < 0xC000 then half (tenantView b t ((off - 0x8000) / 8)) (off % 8 == 4)
  else if off = 0xC000 then readTVer b t 0
  else if off = 0xC004 then readTVer b t 4
  else if off = 0xC008 then readTVer b t 8
  else if off = 0xC010 then readTVer b t 0x10
  else if off = 0xC014 then readTVer b t 0x14
  else if 0xC020 ≤ off ∧ off < 0xC034 then vfCount r ((off - 0xC020) / 4)
  else if 0xC040 ≤ off ∧ off < 0xC060 then wordAt r.lastFail ((off - 0xC040) / 4)
  else if 0xE000 ≤ off ∧ off < 0xE014 then readTBind b t (off - 0xE000)
  else if off = 0xE014 then readTBind b t 0x1C
  else 0

/-- A register of a VF's window: its identity and rings, and its own tenant's registers; an unbound VF reads 0 everywhere except
VF_ID (R28, R338). -/
def readVf (b : Block) (pf vf : Nat) (s : Src) (off : Nat) : W32 :=
  let r := getVf b pf vf
  if off = 0 then w32 (r.tenant.getD 0 + 65536 * vf + 2147483648 * bit r.tenant.isSome)
  else if r.tenant.isNone then 0
  else if off = 4 then r.intPend.setWidth 32
  else if off = 8 then r.intEn.setWidth 32
  else if 0x1000 ≤ off ∧ off < 0x1100 then readRing b s ((off - 0x1000) / 0x40) (off % 0x40)
  else if 0x8000 ≤ off then r.tenant.elim 0 fun t => readVfTenant b t off
  else 0

/-! ## The map (Table 1.12) -/

/-- A register of a PF's BAR0, but for the counters that a read clears. -/
def readAt (b : Block) (pf : Fin 4) (off : Nat) : W32 :=
  if off < 0x1000 then readIdent b off
  else if off < 0x10000 then readInt b pf.val (off - 0x1000)
  else if off < 0x10400 then readRing b (.pf pf) ((off - 0x10000) / 0x40) (off % 0x40)
  else if off < 0x20000 then 0
  else if off < 0x30000 then readTime b (.pf pf) (off - 0x20000)
  else if off < 0x40000 then readClock b (off - 0x30000)
  else if off < 0x50000 then readSpine b (off - 0x40000)
  else if off < 0x60000 then readTether b (off - 0x50000)
  else if off < 0x70000 then readCol b (off - 0x60000)
  else if off < 0x80000 then readVer b (off - 0x70000)
  else if off < 0x90000 then readGt b (off - 0x80000)
  else if off < 0xA0000 then readBd b (off - 0x90000)
  else if off < 0xB0000 then readRs b (off - 0xA0000)
  else if off < 0xC0000 then readKt b pf (off - 0xB0000)
  else if off < 0xD0000 then readObs b (off - 0xC0000)
  else if off < 0xE0000 then readFl b (off - 0xD0000)
  else if off < 0xF0000 then readPt b (off - 0xE0000)
  else if off < 0x100000 then readFw b (off - 0xF0000)
  else 0

/-! ## Counters that a read clears (R12) -/

/-- The register's value saturates at 32 bits where its table says so. -/
def sat32 (n : Nat) : Nat := min n (2 ^ 32 - 1)

/-- An RC register: its value, and the block in which it holds `w`. -/
abbrev RcReg := Nat × (Nat → Block → Block)

def rcSpine (b : Block) (off : Nat) : Option RcReg :=
  if off = 0x200 then some (b.spine.lateCount, fun w b => { b with spine := { b.spine with lateCount := w } })
  else if off = 0x204 then some (b.spine.dupCount, fun w b => { b with spine := { b.spine with dupCount := w } })
  else if off = 0x208 then some (b.spine.dropCount, fun w b => { b with spine := { b.spine with dropCount := w } })
  else none

def rcLink (b : Block) (l off : Nat) : Option RcReg :=
  if off = 0x10 then some ((getLink b l).corr, fun w b => modLink b l fun k => { k with corr := w })
  else if off = 0x14 then some ((getLink b l).uncorr, fun w b => modLink b l fun k => { k with uncorr := w })
  else if off = 0x18 then some ((getLink b l).replay, fun w b => modLink b l fun k => { k with replay := w })
  else none

/-- A counter of a sentinel's window, and the sentinel in which it holds `w`. -/
def rcSnCount (s : Sentinel) (off : Nat) : Option (Nat × (Nat → Sentinel → Sentinel)) :=
  if off = 0x100 then some (s.cntPosted, fun w s => { s with cntPosted := w })
  else if off = 0x104 then some (s.cntSampled, fun w s => { s with cntSampled := w })
  else if off = 0x108 then some (s.cntRefused, fun w s => { s with cntRefused := w })
  else if off = 0x10C then some (s.cntSealFail, fun w s => { s with cntSealFail := w })
  else if off = 0x110 then some (s.cntBroken, fun w s => { s with cntBroken := w })
  else if off = 0x114 then some (s.cntLateDrop, fun w s => { s with cntLateDrop := w })
  else if off = 0x118 then some (s.cntHingeDrop, fun w s => { s with cntHingeDrop := w })
  else none

/-- The counter as the window shows it: while STALE is 1 the mirror's value, and clearing it takes that much from the sentinel's
own counter (R256, R12). -/
def rcSn (b : Block) (n off : Nat) : Option RcReg :=
  match rcSnCount (getSn b n) off with
  | none => none
  | some (v, put) =>
    if !snStale b n then some (v, fun w b => modSn b n (put w))
    else
      let m := (snMirrored b n off).toNat
      some (m, fun w b => modSn (modSlot b n fun r => { r with mirror := tabPut r.mirror off (w32 w) }) n (put (v - m + w)))

/-- GT_DIV_COUNT, GT_DROP_COUNT and the hold counters of a slot (Table 7.7). -/
def rcGt (b : Block) (off : Nat) : Option RcReg :=
  let n := (off - 0x100) / 32
  let s := getSlot b n
  if off = 0x24 then some (b.gt.divCount, fun w b => { b with gt := { b.gt with divCount := w } })
  else if off = 0x28 then some (b.gt.dropCount, fun w b => { b with gt := { b.gt with dropCount := w } })
  else if off < 0x100 ∨ 0x300 ≤ off then none
  else if off % 32 = 0xC then some (s.holds, fun w b => modSlot b n fun s => { s with holds := w })
  else if off % 32 = 0x10 then some (sat32 (s.holdNs / 1000), fun w b => modSlot b n fun s => { s with holdNs := w * 1000 })
  else if off % 32 = 0x14 then some (sat32 s.holdMax, fun w b => modSlot b n fun s => { s with holdMax := w })
  else none

def rcBd (b : Block) (off : Nat) : Option RcReg :=
  if off = 0x20 then some (b.bd.reads, fun w b => { b with bd := { b.bd with reads := w } })
  else if off = 0x24 then some (b.bd.repairs, fun w b => { b with bd := { b.bd with repairs := w } })
  else if off = 0x28 then some (b.bd.digestBad, fun w b => { b with bd := { b.bd with digestBad := w } })
  else none

/-- The RC register at an offset of BAR0, if one stands there. -/
def rcReg (b : Block) (off : Nat) : Option RcReg :=
  if off = 0x31040 then some (b.ck.ce, fun w b => { b with ck := { b.ck with ce := w } })
  else if off = 0x31044 then some (b.ck.ue, fun w b => { b with ck := { b.ck with ue := w } })
  else if within 0x40200 0x40208 off then rcSpine b (off - 0x40000)
  else if within 0x41000 0x417FF off then rcLink b ((off - 0x41000) / 0x100) (off % 0x100)
  else if within 0x50000 0x50FFF off then rcLink b (8 + (off - 0x50000) / 0x100) (off % 0x100)
  else if within 0x58000 0x5FFFF off then rcSn b ((off - 0x58000) / 0x800) (off % 0x800)
  else if off = 0x70014 then some (b.ver.lateCount, fun w b => { b with ver := { b.ver with lateCount := w } })
  else if within 0x80000 0x80FFF off then rcGt b (off - 0x80000)
  else if within 0x90000 0x90FFF off then rcBd b (off - 0x90000)
  else if off = 0xA000C then some (b.hr.staleCount, fun w b => { b with hr := { b.hr with staleCount := w } })
  else if off = 0xA5028 then some (b.sus.reports, fun w b => { b with sus := { b.sus with reports := w } })
  else if off = 0xA502C then some (b.sus.unmerged, fun w b => { b with sus := { b.sus with unmerged := w } })
  else if off = 0xD0028 then some (b.fly.mirrorLost, fun w b => { b with fly := { b.fly with mirrorLost := w } })
  else if off = 0xD002C then some (b.fly.waits, fun w b => { b with fly := { b.fly with waits := w } })
  else if off = 0xF0034 then some (b.fw.specRuns, fun w b => { b with fw := { b.fw with specRuns := w } })
  else if off = 0xF0038 then some (b.fw.specFails, fun w b => { b with fw := { b.fw with specFails := w } })
  else none

/-! ## A read (R7-R9, R12, R27) -/

/-- What a read of ST_NSEC or ST_PPS_IN_LO latches for the PF that reads (R156, R173). -/
def readLatch (pf : Fin 4) (off : Nat) (b : Block) : Block :=
  if off = 0x20010 then latchTime b (.pf pf)
  else if off = 0x200E8 then latchPps b (.pf pf)
  else b

/-- One register is read: its value, and the block after it.  A counter that the read clears holds 1 where an event falls in the
same cycle (R12). -/
def readReg (s : Src) (off : Nat) (same : Bool) (b : Block) : W32 × Block :=
  match s with
  | .vf p n => (readVf b p.val n.val s off, b)
  | .pf p =>
    match rcReg b off with
    | some (v, put) => (w32 v, put (bit same) b)
    | none =>
      let b1 := readLatch p off b
      (readAt b1 p off, b1)

/-- A sentinel's sensor read over the sideband is an open value of its own each time (Table 9.8). -/
def readsSensor (s : Src) (off : Nat) : Bool := srcIsPf s && within 0x58000 0x5FFFF off && within 0xE0 0xFF (off % 0x800)

/-- A read through the storage window: what a drive's space returns is an open value; between the two mapped parts 0 is read (R340). -/
def storageRead (pf off width : Nat) (b : Block) : Block :=
  if pf ≠ b.ident.adminPf then b
  else
    match storageTarget off with
    | none => emit b (.readData off 0)
    | some _ =>
      let b1 := storageAccess pf off width false 0 b
      emit (takeFree b1) (.readData off (BitVec.ofNat 64 (freeVal b1 % 256 ^ width)))

/-- A read of a register, or of both halves of a pair in one cycle (R8); `same` says which of them counts an event in that cycle.
An access that is not a naturally aligned one of 32 or 64 bits ends in a completer abort (R7). -/
def effRegRead (s : Src) (off width : Nat) (same : BitVec 2) (b : Block) : Block :=
  let there := match s with
    | .pf _ => true
    | .vf p n => vfThere b p.val n.val
  if srcIsPf s && decide (bar2Base ≤ off) then storageRead (srcPf s) off width b
  else if !inWindow s off || !there then b
  else if !accessOk off width then abortAccess b s off
  else
    let (lo, b1) := readReg s off (same.getLsbD 0) b
    let b2 := onlyIf (readsSensor s off) takeFree b1
    if width = 4 then emit b2 (.readData off (lo.setWidth 64))
    else
      let (hi, b3) := readReg s (off + 4) (same.getLsbD 1) b2
      emit b3 (.readData off (hi ++ lo))

/-- RC_COUNTER_READ: a read of a register of BAR0 or of a VF's window, of a width in bytes; an RC counter clears (R12). -/
def execRcCounterRead (src : Src) (acc : Access) (sameCycle : BitVec 2) (s : State) : Host.Outcome State Fault Refusal :=
  act s (effRegRead src acc.off acc.width sameCycle)

end Sys2Proof.Machine
end

