-- ==== Sys2Proof/Machine/Dispatch.lean ====
section
/-!
DEFINITION. Machine/Dispatch.lean: one arm per command of the table, each one call of its meaning.
-/

namespace Sys2Proof.Machine

def exec (i : Instr) (s : State) : Host.Outcome State Fault Refusal :=
  match i with
  -- register writes, power-on and slot pins
  | .registerWrite src off width val => Sys2Proof.Machine.execRegisterWrite src off width val s
  | .adminPfWrite pf val => Sys2Proof.Machine.execAdminPfWrite pf val s
  | .placeCfgWrite pf val => Sys2Proof.Machine.execPlaceCfgWrite pf val s
  | .porstAssert => Sys2Proof.Machine.execPorstAssert s
  | .porstDeassert geo split testMode railOrderOk => Sys2Proof.Machine.execPorstDeassert geo split testMode railOrderOk s
  | .geoTrayChange geo => Sys2Proof.Machine.execGeoTrayChange geo s
  | .slotPrsntChange slot level => Sys2Proof.Machine.execSlotPrsntChange slot level s
  | .slotAlert slot level => Sys2Proof.Machine.execSlotAlert slot level s
  -- Collator core instructions and the mesh
  | .scalarInstruction core op => Sys2Proof.Machine.execScalarInstruction core op s
  | .vectorInstruction core op => Sys2Proof.Machine.execVectorInstruction core op s
  | .dcfg core unit a => Sys2Proof.Machine.execDcfg core unit a s
  | .dslice core unit sa sb => Sys2Proof.Machine.execDslice core unit sa sb s
  | .dmask core unit a => Sys2Proof.Machine.execDmask core unit a s
  | .dpass core unit x va vb d => Sys2Proof.Machine.execDpass core unit x va vb d s
  | .xaccPassAdd core => Sys2Proof.Machine.execXaccPassAdd core s
  | .xclr core x a => Sys2Proof.Machine.execXclr core x a s
  | .xadd core x a => Sys2Proof.Machine.execXadd core x a s
  | .xld core x a => Sys2Proof.Machine.execXld core x a s
  | .xst core x a => Sys2Proof.Machine.execXst core x a s
  | .xmv core x a d => Sys2Proof.Machine.execXmv core x a d s
  | .xrnd core x a d => Sys2Proof.Machine.execXrnd core x a d s
  | .xjudge core x a b d => Sys2Proof.Machine.execXjudge core x a b d s
  | .xjudges core x a b d => Sys2Proof.Machine.execXjudges core x a b d s
  | .send core mbox flits1 a b => Sys2Proof.Machine.execSend core mbox flits1 a b s
  | .crgrant core mbox a b => Sys2Proof.Machine.execCrgrant core mbox a b s
  | .mbpop core mbox d => Sys2Proof.Machine.execMbpop core mbox d s
  | .mbfree core mbox => Sys2Proof.Machine.execMbfree core mbox s
  | .mbcfg core mbox a b => Sys2Proof.Machine.execMbcfg core mbox a b s
  | .evsig core input a b => Sys2Proof.Machine.execEvsig core input a b s
  | .waite core a d => Sys2Proof.Machine.execWaite core a d s
  | .take core input d => Sys2Proof.Machine.execTake core input d s
  | .evrd core input d => Sys2Proof.Machine.execEvrd core input d s
  | .evclr core input => Sys2Proof.Machine.execEvclr core input s
  | .timer core a => Sys2Proof.Machine.execTimer core a s
  | .coreTimerExpiry core => Sys2Proof.Machine.execCoreTimerExpiry core s
  | .dmard core queue a b d => Sys2Proof.Machine.execDmard core queue a b d s
  | .dmardComplete core queue => Sys2Proof.Machine.execDmardComplete core queue s
  | .fence core => Sys2Proof.Machine.execFence core s
  | .ready core => Sys2Proof.Machine.execReady core s
  | .tdone core => Sys2Proof.Machine.execTdone core s
  | .messageArrival src dst mbox => Sys2Proof.Machine.execMessageArrival src dst mbox s
  | .evsigArrival src dst input => Sys2Proof.Machine.execEvsigArrival src dst input s
  | .creditReturn sender receiver mbox => Sys2Proof.Machine.execCreditReturn sender receiver mbox s
  | .tileCycleLimit core => Sys2Proof.Machine.execTileCycleLimit core s
  | .sramEccError core uncorrectable => Sys2Proof.Machine.execSramEccError core uncorrectable s
  | .coreSpecimenComplete core r => Sys2Proof.Machine.execCoreSpecimenComplete core r s
  | .colTrimWrite pf row val => Sys2Proof.Machine.execColTrimWrite pf row val s
  | .trimWithdrawTimeout core => Sys2Proof.Machine.execTrimWithdrawTimeout core s
  | .colAutotrimWrite pf row val => Sys2Proof.Machine.execColAutotrimWrite pf row val s
  | .tileDispatch => Sys2Proof.Machine.execTileDispatch s
  | .collateProgramLoad iss p => Sys2Proof.Machine.execCollateProgramLoad iss p s
  | .programReadyTimeout slot => Sys2Proof.Machine.execProgramReadyTimeout slot s
  | .slotDrainComplete slot => Sys2Proof.Machine.execSlotDrainComplete slot s
  -- sampling, records and verdicts
  | .tapPost slot err tag desc => Sys2Proof.Machine.execTapPost slot err tag desc s
  | .cpl slot err tag offset status data => Sys2Proof.Machine.execCpl slot err tag offset status data s
  | .mrdTimeout slot tag => Sys2Proof.Machine.execMrdTimeout slot tag s
  | .tileRecordReceived slot hdr data => Sys2Proof.Machine.execTileRecordReceived slot hdr data s
  | .tileVoidReceived slot v => Sys2Proof.Machine.execTileVoidReceived slot v s
  | .intervalCloseReceived slot gathering => Sys2Proof.Machine.execIntervalCloseReceived slot gathering s
  | .verdictDeadline tenant gathering => Sys2Proof.Machine.execVerdictDeadline tenant gathering s
  | .collatePolicySet iss p => Sys2Proof.Machine.execCollatePolicySet iss p s
  | .collateVerdictRead iss p => Sys2Proof.Machine.execCollateVerdictRead iss p s
  -- Spine rings, rails and collectives
  | .reservedCell port frame => Sys2Proof.Machine.execReservedCell port frame s
  | .census port hdr map epoch => Sys2Proof.Machine.execCensus port hdr map epoch s
  | .fold port c => Sys2Proof.Machine.execFold port c s
  | .unfold port c at' => Sys2Proof.Machine.execUnfold port c at' s
  | .unfoldCleanTimer hop => Sys2Proof.Machine.execUnfoldCleanTimer hop s
  | .unfoldAt hop => Sys2Proof.Machine.execUnfoldAt hop s
  | .railGradeUpdate port berE12 uncorrectable => Sys2Proof.Machine.execRailGradeUpdate port berE12 uncorrectable s
  | .failover port c => Sys2Proof.Machine.execFailover port c s
  | .selftest port hdr berE12 => Sys2Proof.Machine.execSelftest port hdr berE12 s
  | .spForceOther pf port => Sys2Proof.Machine.execSpForceOther pf port s
  | .spCtrlWrite pf val => Sys2Proof.Machine.execSpCtrlWrite pf val s
  | .dualWindowExpiry hop => Sys2Proof.Machine.execDualWindowExpiry hop s
  | .failbackTimer hop => Sys2Proof.Machine.execFailbackTimer hop s
  | .failbackAt hop => Sys2Proof.Machine.execFailbackAt hop s
  | .reducePost iss p => Sys2Proof.Machine.execReducePost iss p s
  | .reduce port hdr b => Sys2Proof.Machine.execReduce port hdr b s
  | .reduceX port hdr b => Sys2Proof.Machine.execReduceX port hdr b s
  | .redTimeout chan round => Sys2Proof.Machine.execRedTimeout chan round s
  | .redWatchdog chan round => Sys2Proof.Machine.execRedWatchdog chan round s
  | .barrierArm iss p => Sys2Proof.Machine.execBarrierArm iss p s
  | .barrier port hdr b => Sys2Proof.Machine.execBarrier port hdr b s
  | .barrierRelease tenant group => Sys2Proof.Machine.execBarrierRelease tenant group s
  | .sewVotePost tenant => Sys2Proof.Machine.execSewVotePost tenant s
  | .vote port hdr b => Sys2Proof.Machine.execVote port hdr b s
  | .sewn port hdr b => Sys2Proof.Machine.execSewn port hdr b s
  | .sewVote iss p => Sys2Proof.Machine.execSewVote iss p s
  | .broadcast iss p => Sys2Proof.Machine.execBroadcast iss p s
  | .bcast port info f => Sys2Proof.Machine.execBcast port info f s
  | .bcastAck port hdr body => Sys2Proof.Machine.execBcastAck port hdr body s
  | .bcastTimeout stream => Sys2Proof.Machine.execBcastTimeout stream s
  -- spine time
  | .stNsecRead reader => Sys2Proof.Machine.execStNsecRead reader s
  | .stLoad pf val => Sys2Proof.Machine.execStLoad pf val s
  | .stCancel pf val => Sys2Proof.Machine.execStCancel pf val s
  | .stBoundaryLoad => Sys2Proof.Machine.execStBoundaryLoad s
  | .stIncrWrite pf width val => Sys2Proof.Machine.execStIncrWrite pf width val s
  | .stAdjWrite pf val => Sys2Proof.Machine.execStAdjWrite pf val s
  | .slewComplete => Sys2Proof.Machine.execSlewComplete s
  | .syncInterval => Sys2Proof.Machine.execSyncInterval s
  | .sync port hdr b t2 => Sys2Proof.Machine.execSync port hdr b t2 s
  | .delayReq port hdr t3 reqId t4 => Sys2Proof.Machine.execDelayReq port hdr t3 reqId t4 s
  | .delayResp port hdr t4 reqId => Sys2Proof.Machine.execDelayResp port hdr t4 reqId s
  | .holdoverLimit => Sys2Proof.Machine.execHoldoverLimit s
  | .timed port hdr launch id payload arrival => Sys2Proof.Machine.execTimed port hdr launch id payload arrival s
  | .stTsqPop pf => Sys2Proof.Machine.execStTsqPop pf s
  | .stRxqPop pf => Sys2Proof.Machine.execStRxqPop pf s
  | .timeSet iss p => Sys2Proof.Machine.execTimeSet iss p s
  | .timeLaunch iss p => Sys2Proof.Machine.execTimeLaunch iss p s
  | .launchFire => Sys2Proof.Machine.execLaunchFire s
  | .syncInEdge stamp => Sys2Proof.Machine.execSyncInEdge stamp s
  | .ppsMiss => Sys2Proof.Machine.execPpsMiss s
  | .syncOutPulse => Sys2Proof.Machine.execSyncOutPulse s
  | .syncOutPulseEnd => Sys2Proof.Machine.execSyncOutPulseEnd s
  -- gathering
  | .releaseMessage slot r => Sys2Proof.Machine.execReleaseMessage slot r s
  | .fwReq slot err tag addr => Sys2Proof.Machine.execFwReq slot err tag addr s
  | .pagePushStart slot => Sys2Proof.Machine.execPagePushStart slot s
  | .pagePushReceived slot stream p => Sys2Proof.Machine.execPagePushReceived slot stream p s
  | .credit slot c => Sys2Proof.Machine.execCredit slot c s
  | .pageDigested => Sys2Proof.Machine.execPageDigested s
  | .digest port hdr payload crc => Sys2Proof.Machine.execDigest port hdr payload crc s
  | .digestTimeout tenant handle => Sys2Proof.Machine.execDigestTimeout tenant handle s
  | .gatherArm iss p => Sys2Proof.Machine.execGatherArm iss p s
  | .gatherStart iss p => Sys2Proof.Machine.execGatherStart iss p s
  -- binding, sewing and restore
  | .bindWrite port f => Sys2Proof.Machine.execBindWrite port f s
  | .entriesSend tenant => Sys2Proof.Machine.execEntriesSend tenant s
  | .colophonTimeout tenant => Sys2Proof.Machine.execColophonTimeout tenant s
  | .bindXferTimeout stream => Sys2Proof.Machine.execBindXferTimeout stream s
  | .bindRead port f => Sys2Proof.Machine.execBindRead port f s
  | .bindData port f => Sys2Proof.Machine.execBindData port f s
  | .bindReadTimeout stream => Sys2Proof.Machine.execBindReadTimeout stream s
  | .bindingFree tenant gathering => Sys2Proof.Machine.execBindingFree tenant gathering s
  | .sew iss p => Sys2Proof.Machine.execSew iss p s
  | .bindRestore iss p => Sys2Proof.Machine.execBindRestore iss p s
  | .written slot w => Sys2Proof.Machine.execWritten slot w s
  | .groupPushTimeout slot handle => Sys2Proof.Machine.execGroupPushTimeout slot handle s
  | .nvmeCompletion drive res => Sys2Proof.Machine.execNvmeCompletion drive res s
  | .colophonRead iss p => Sys2Proof.Machine.execColophonRead iss p s
  -- the sentinel
  | .sentinelPor slot => Sys2Proof.Machine.execSentinelPor slot s
  | .ucieLinkUp slot width rate => Sys2Proof.Machine.execUcieLinkUp slot width rate s
  | .ucieLinkDown slot => Sys2Proof.Machine.execUcieLinkDown slot s
  | .declare slot err tag d => Sys2Proof.Machine.execDeclare slot err tag d s
  | .arrive slot err group round => Sys2Proof.Machine.execArrive slot err group round s
  | .heartbeat slot err engine busy unit progress => Sys2Proof.Machine.execHeartbeat slot err engine busy unit progress s
  | .event slot err engine code pc arg => Sys2Proof.Machine.execEvent slot err engine code pc arg s
  | .holdAck slot err dieNs => Sys2Proof.Machine.execHoldAck slot err dieNs s
  | .trimAck slot err unit fence => Sys2Proof.Machine.execTrimAck slot err unit fence s
  | .resetNote slot err domain start => Sys2Proof.Machine.execResetNote slot err domain start s
  | .wack slot err tag => Sys2Proof.Machine.execWack slot err tag s
  | .streamSegment slot atGlt g => Sys2Proof.Machine.execStreamSegment slot atGlt g s
  | .streamTimeout slot atGlt stream => Sys2Proof.Machine.execStreamTimeout slot atGlt stream s
  | .streamAck slot atGlt k stream => Sys2Proof.Machine.execStreamAck slot atGlt k stream s
  | .hello slot h => Sys2Proof.Machine.execHello slot h s
  | .fwChunk slot offset count bytes => Sys2Proof.Machine.execFwChunk slot offset count bytes s
  | .policy slot p => Sys2Proof.Machine.execPolicy slot p s
  | .holdAtMessage slot t => Sys2Proof.Machine.execHoldAtMessage slot t s
  | .releaseAtMessage slot t => Sys2Proof.Machine.execReleaseAtMessage slot t s
  | .trimMessage slot unit fence => Sys2Proof.Machine.execTrimMessage slot unit fence s
  | .domainMessage slot domain assert => Sys2Proof.Machine.execDomainMessage slot domain assert s
  | .note slot n => Sys2Proof.Machine.execNote slot n s
  | .report slot r => Sys2Proof.Machine.execReport slot r s
  | .regRd slot off write => Sys2Proof.Machine.execRegRd slot off write s
  | .restorePushReceived slot p => Sys2Proof.Machine.execRestorePushReceived slot p s
  | .sntHoldRaise slot => Sys2Proof.Machine.execSntHoldRaise slot s
  | .sntHoldLower slot => Sys2Proof.Machine.execSntHoldLower slot s
  | .reachTimeout slot => Sys2Proof.Machine.execReachTimeout slot s
  | .holdOnLoss slot => Sys2Proof.Machine.execHoldOnLoss slot s
  | .sentinelTimeExchange slot gltTime => Sys2Proof.Machine.execSentinelTimeExchange slot gltTime s
  | .hangDetect slot engine => Sys2Proof.Machine.execHangDetect slot engine s
  | .trimAckTimeout slot unit => Sys2Proof.Machine.execTrimAckTimeout slot unit s
  | .sentinelFwSwitch slot => Sys2Proof.Machine.execSentinelFwSwitch slot s
  -- holds and reset domains
  | .holdAt iss p => Sys2Proof.Machine.execHoldAt iss p s
  | .hold port hdr b => Sys2Proof.Machine.execHold port hdr b s
  | .holdFire tenant => Sys2Proof.Machine.execHoldFire tenant s
  | .mark port hdr b => Sys2Proof.Machine.execMark port hdr b s
  | .cutTimeout tenant => Sys2Proof.Machine.execCutTimeout tenant s
  | .releaseAt iss p => Sys2Proof.Machine.execReleaseAt iss p s
  | .release port hdr b => Sys2Proof.Machine.execRelease port hdr b s
  | .releaseFire tenant => Sys2Proof.Machine.execReleaseFire tenant s
  | .cancel port hdr b => Sys2Proof.Machine.execCancel port hdr b s
  | .holdReset pf dom on => Sys2Proof.Machine.execHoldReset pf dom on s
  | .pulse pf dom => Sys2Proof.Machine.execPulse pf dom s
  | .readmit pf dom => Sys2Proof.Machine.execReadmit pf dom s
  | .domainResetAssert dom => Sys2Proof.Machine.execDomainResetAssert dom s
  | .domainResetComplete dom => Sys2Proof.Machine.execDomainResetComplete dom s
  -- the Kettle path
  | .identity r args tok => Sys2Proof.Machine.execIdentity r args tok s
  | .health r args tok => Sys2Proof.Machine.execHealth r args tok s
  | .time r args tok => Sys2Proof.Machine.execTime r args tok s
  | .flyleafReadKettle r args tok => Sys2Proof.Machine.execFlyleafReadKettle r args tok s
  | .flyleafClearKettle r args tok => Sys2Proof.Machine.execFlyleafClearKettle r args tok s
  | .marginReadKettle r args tok => Sys2Proof.Machine.execMarginReadKettle r args tok s
  | .trim r args tok => Sys2Proof.Machine.execTrim r args tok s
  | .slotPower r args tok => Sys2Proof.Machine.execSlotPower r args tok s
  | .reset r args tok => Sys2Proof.Machine.execReset r args tok s
  | .kettleHold r args tok => Sys2Proof.Machine.execKettleHold r args tok s
  | .kettleSentinelTimeout r => Sys2Proof.Machine.execKettleSentinelTimeout r s
  | .mgmtPortFrame f => Sys2Proof.Machine.execMgmtPortFrame f s
  | .slotPowerOffStep slot => Sys2Proof.Machine.execSlotPowerOffStep slot s
  -- suspects and recovery
  | .reportCell port hdr b => Sys2Proof.Machine.execReportCell port hdr b s
  | .summary port hdr b => Sys2Proof.Machine.execSummary port hdr b s
  | .mergeWindowClose entry => Sys2Proof.Machine.execMergeWindowClose entry s
  | .probe port hdr b => Sys2Proof.Machine.execProbe port hdr b s
  | .probeAck port hdr b => Sys2Proof.Machine.execProbeAck port hdr b s
  | .probeTimeout entry => Sys2Proof.Machine.execProbeTimeout entry s
  | .srAge entry => Sys2Proof.Machine.execSrAge entry s
  | .srClear pf val => Sys2Proof.Machine.execSrClear pf val s
  | .tetherLost slot => Sys2Proof.Machine.execTetherLost slot s
  | .suspect port hdr b => Sys2Proof.Machine.execSuspect port hdr b s
  | .restored port hdr tenant status participant => Sys2Proof.Machine.execRestored port hdr tenant status participant s
  | .restoreTimeout tenant => Sys2Proof.Machine.execRestoreTimeout tenant s
  | .failedVoteWait tenant => Sys2Proof.Machine.execFailedVoteWait tenant s
  | .trimUnit iss p => Sys2Proof.Machine.execTrimUnit iss p s
  | .tipIn iss p => Sys2Proof.Machine.execTipIn iss p s
  | .withdraw iss p => Sys2Proof.Machine.execWithdraw iss p s
  -- links, DDR and clocks
  | .linkFrame link f => Sys2Proof.Machine.execLinkFrame link f s
  | .replayTimeout link => Sys2Proof.Machine.execReplayTimeout link s
  | .linkFailed link => Sys2Proof.Machine.execLinkFailed link s
  | .trainingComplete link k ok rttNs => Sys2Proof.Machine.execTrainingComplete link k ok rttNs s
  | .train link h lanes full => Sys2Proof.Machine.execTrain link h lanes full s
  | .laneBad link lane => Sys2Proof.Machine.execLaneBad link lane s
  | .widthReq link h width good => Sys2Proof.Machine.execWidthReq link h width good s
  | .widthGo link h lanes atTime go => Sys2Proof.Machine.execWidthGo link h lanes atTime go s
  | .laneSelftestClean link lane => Sys2Proof.Machine.execLaneSelftestClean link lane s
  | .widenAt link => Sys2Proof.Machine.execWidenAt link s
  | .retuneReq link h => Sys2Proof.Machine.execRetuneReq link h s
  | .retuneGo link h t => Sys2Proof.Machine.execRetuneGo link h t s
  | .berWindow link berE12 => Sys2Proof.Machine.execBerWindow link berE12 s
  | .retrainSlot link => Sys2Proof.Machine.execRetrainSlot link s
  | .lkSlotMaxExpiry link => Sys2Proof.Machine.execLkSlotMaxExpiry link s
  | .retune pf link => Sys2Proof.Machine.execRetune pf link s
  | .fullTrain pf link => Sys2Proof.Machine.execFullTrain pf link s
  | .laneReadmitWrite pf link lanes => Sys2Proof.Machine.execLaneReadmitWrite pf link lanes s
  | .moduleFlag port lane onLane => Sys2Proof.Machine.execModuleFlag port lane onLane s
  | .ddrTempPoll temps => Sys2Proof.Machine.execDdrTempPoll temps s
  | .ddrChannelRetrain ch ok => Sys2Proof.Machine.execDdrChannelRetrain ch ok s
  | .ddrRetrainRetry ch => Sys2Proof.Machine.execDdrRetrainRetry ch s
  | .retrainNow pf => Sys2Proof.Machine.execRetrainNow pf s
  | .ddrUe addr => Sys2Proof.Machine.execDdrUe addr s
  | .refAbsent ref => Sys2Proof.Machine.execRefAbsent ref s
  | .lockLoss pll busyChannels => Sys2Proof.Machine.execLockLoss pll busyChannels s
  | .pllReady pll => Sys2Proof.Machine.execPllReady pll s
  | .pllFailed pll => Sys2Proof.Machine.execPllFailed pll s
  | .ckPllWrite pf pll val => Sys2Proof.Machine.execCkPllWrite pf pll val s
  | .driftWindow dAB dAS dBS => Sys2Proof.Machine.execDriftWindow dAB dAS dBS s
  | .driftMove pll => Sys2Proof.Machine.execDriftMove pll s
  | .ckSscWrite pf reg val => Sys2Proof.Machine.execCkSscWrite pf reg val s
  | .ckCpllFreqWrite pf val => Sys2Proof.Machine.execCkCpllFreqWrite pf val s
  -- host interface and firmware
  | .hostLinkDown link ev => Sys2Proof.Machine.execHostLinkDown link ev s
  | .flr pf => Sys2Proof.Machine.execFlr pf s
  | .vfFlr pf vf => Sys2Proof.Machine.execVfFlr pf vf s
  | .sriovChange pf enabled numVfs => Sys2Proof.Machine.execSriovChange pf enabled numVfs s
  | .storageLinkEvent drive ev => Sys2Proof.Machine.execStorageLinkEvent drive ev s
  | .crSqTail src ring val => Sys2Proof.Machine.execCrSqTail src ring val s
  | .crCtrlWrite src ring val => Sys2Proof.Machine.execCrCtrlWrite src ring val s
  | .crCqHead src ring val => Sys2Proof.Machine.execCrCqHead src ring val s
  | .commandFetch src ring p => Sys2Proof.Machine.execCommandFetch src ring p s
  | .commandReply src ring => Sys2Proof.Machine.execCommandReply src ring s
  | .identify iss dest rsv => Sys2Proof.Machine.execIdentify iss dest rsv s
  | .tenantCreate iss p => Sys2Proof.Machine.execTenantCreate iss p s
  | .tenantDestroy iss rsv => Sys2Proof.Machine.execTenantDestroy iss rsv s
  | .tenantSetPlaces iss p => Sys2Proof.Machine.execTenantSetPlaces iss p s
  | .intPendWrite pf val => Sys2Proof.Machine.execIntPendWrite pf val s
  | .intEnWrite pf val => Sys2Proof.Machine.execIntEnWrite pf val s
  | .vfIntPendWrite pf vf val => Sys2Proof.Machine.execVfIntPendWrite pf vf val s
  | .boot => Sys2Proof.Machine.execBoot s
  | .lockstepTakeover cause => Sys2Proof.Machine.execLockstepTakeover cause s
  | .handoverCheckpoint => Sys2Proof.Machine.execHandoverCheckpoint s
  | .handoverComplete => Sys2Proof.Machine.execHandoverComplete s
  | .fwStage iss p => Sys2Proof.Machine.execFwStage iss p s
  | .fwRebind iss p => Sys2Proof.Machine.execFwRebind iss p s
  | .rebindReadyDeadline => Sys2Proof.Machine.execRebindReadyDeadline s
  | .rebindTakeover => Sys2Proof.Machine.execRebindTakeover s
  | .takeoverDeadline => Sys2Proof.Machine.execTakeoverDeadline s
  | .fwTrialExpiry => Sys2Proof.Machine.execFwTrialExpiry s
  | .clusterUcodeReload cluster ok => Sys2Proof.Machine.execClusterUcodeReload cluster ok s
  | .specimenLoad iss p => Sys2Proof.Machine.execSpecimenLoad iss p s
  | .specPeriod => Sys2Proof.Machine.execSpecPeriod s
  | .accelSpecimenComplete slot result => Sys2Proof.Machine.execAccelSpecimenComplete slot result s
  -- observation and the Flyleaf
  | .countersRead iss p => Sys2Proof.Machine.execCountersRead iss p s
  | .marginRead iss p => Sys2Proof.Machine.execMarginRead iss p s
  | .flyleafRead iss p => Sys2Proof.Machine.execFlyleafRead iss p s
  | .flyleafClear iss tok rsv => Sys2Proof.Machine.execFlyleafClear iss tok rsv s
  | .summaryRecordTimer => Sys2Proof.Machine.execSummaryRecordTimer s
  | .mirrorPageProgram res => Sys2Proof.Machine.execMirrorPageProgram res s
  | .mirrorBlockErase res => Sys2Proof.Machine.execMirrorBlockErase res s
  | .flyleafScan => Sys2Proof.Machine.execFlyleafScan s
  | .flSelHiWrite pf val => Sys2Proof.Machine.execFlSelHiWrite pf val s
  -- power
  | .aonSwitch => Sys2Proof.Machine.execAonSwitch s
  | .preferAReturn => Sys2Proof.Machine.execPreferAReturn s
  | .powerLoss => Sys2Proof.Machine.execPowerLoss s
  | .holdTest droopMv => Sys2Proof.Machine.execHoldTest droopMv s
  | .selectAonInput pf val => Sys2Proof.Machine.execSelectAonInput pf val s
  | .railExcursion rail above => Sys2Proof.Machine.execRailExcursion rail above s
  | .thermalAlarm => Sys2Proof.Machine.execThermalAlarm s
  | .throttleStep => Sys2Proof.Machine.execThrottleStep s
  | .unthrottleStep => Sys2Proof.Machine.execUnthrottleStep s
  | .thermalTrip => Sys2Proof.Machine.execThermalTrip s
  | .psSlotCtrlWrite pf val => Sys2Proof.Machine.execPsSlotCtrlWrite pf val s
  | .slotSequenceTimeout slot => Sys2Proof.Machine.execSlotSequenceTimeout slot s
  | .modulePowerClass port cls => Sys2Proof.Machine.execModulePowerClass port cls s
  | .rcCounterRead src acc sameCycle => Sys2Proof.Machine.execRcCounterRead src acc sameCycle s
  | .sentinelPowerLoss slot => Sys2Proof.Machine.execSentinelPowerLoss slot s
  | .aonInputLow b => Sys2Proof.Machine.execAonInputLow b s
  | .aonInputReturn b => Sys2Proof.Machine.execAonInputReturn b s
  | .aonHoldDepleted => Sys2Proof.Machine.execAonHoldDepleted s
  | .referencePresent ref => Sys2Proof.Machine.execReferencePresent ref s
  | .crCoalExpiry src ring => Sys2Proof.Machine.execCrCoalExpiry src ring s
  | .hostAerError link uncorrectable => Sys2Proof.Machine.execHostAerError link uncorrectable s
  | .sentinelThermal slot diode reading => Sys2Proof.Machine.execSentinelThermal slot diode reading s
  | .pairSelfTestComplete passed => Sys2Proof.Machine.execPairSelfTestComplete passed s
  | .standbyImageReady => Sys2Proof.Machine.execStandbyImageReady s
  | .spareClaim tenant slot failed rank requester => Sys2Proof.Machine.execSpareClaim tenant slot failed rank requester s
  | .placeListUpdate tenant rank place => Sys2Proof.Machine.execPlaceListUpdate tenant rank place s
  | .restoreOrder tenant => Sys2Proof.Machine.execRestoreOrder tenant s

end Sys2Proof.Machine
end

