-- ==== Sys2Proof/Machine/Tick.lean ====
section
/-!
DEFINITION. Machine/Tick.lean: what one tick of the spine-time clock does (R154, R155, R158, R160), and what the block's engines
take up by themselves: repairs that are due and what waits in the transmit queues.
-/

namespace Sys2Proof.Machine

/-- The firmware heartbeat advances once per ms while firmware runs (Table 13.24). -/
def beat (was : Nat) (b : Block) : Block :=
  if fwRuns b && decide (was / 1000000 < nowNs b / 1000000) then
    { b with fw := { b.fw with heartbeat := b.fw.heartbeat + 1 }, sus := { b.sus with fwBeatAt := nowNs b } }
  else b

/-- The tick's step of a running slew; its last one completes the TIME_SETs that the slew carries (R160, R176). -/
def slewTick (step : Int) (b : Block) : Block :=
  if b.time.spanLeft = 0 then b
  else
    let b1 := { b with time := { b.time with adjRem := b.time.adjRem - step, spanLeft := b.time.spanLeft - 1 } }
    if b1.time.spanLeft = 0 then completeAll { b1 with time := { b1.time with slewIss := [] } } b1.time.slewIss 0x0701 stOk else b1

/-- OUT_MODE 1 drives a pulse in the tick that passes a second boundary plus ST_PPS_OFFSET (R174). -/
def pulseTick (was : Nat) (b : Block) : Block :=
  let on := decide (sincePulse (counter b) b.time.ppsOffset < (counter b : Int) - was)
  onlyIf (decide (b.time.ppsOutMode = 1) && on) startPulse b

/-- The counter advances by ST_INCR and the slew step. -/
def plainTick (b : Block) : Block := pulseTick (counter b) (slewTick (slewStep b) (putCounter b (nextCounter b)))

/-- A tick of the counter: an immediate load takes its place, a pending boundary load that of the roll-over (R157, R158). -/
def advanceTime (b : Block) : Block :=
  match b.time.loadNow with
  | some (t, iss) => loadAsked b t iss
  | none => if b.time.loadPending && rollsOver b then boundaryLoad b else plainTick b

/-- The clock's part of a tick: the counter holds until TPLL is READY, or runs from XTAL_AON once TPLL has lost lock. -/
def clockTick (b : Block) : Block := onlyIf (timeRuns b) (fun b => beat (nowNs b) (advanceTime b)) b

/-- The engines' part: repairs of pages that failed R203 start (R213), and the links send what they may (R114). -/
def engineTick (b : Block) : Block := each (upFrom 0 24) (fun l b => drainLink b l) (startRepairs b)

/-- One tick. -/
def tick (b : Block) : Block := engineTick (clockTick b)

end Sys2Proof.Machine
end

