-- ==== Sys2Proof/WellFormed.lean ====
section
/-!
DEFINITION. WellFormed.lean: which terms of `Instr` are commands that the hardware can be given: every number fits the field
that the manual gives it, and every list has the length of the bytes that carry it.
-/

namespace Sys2Proof

/-- A number fits a field of so many bits. -/
def fits (bits n : Nat) : Bool := decide (n < 2 ^ bits)

/-- A spine time fits the R111 form: 34 bits of seconds. -/
def timeFits (t : Ns) : Bool := decide (t < 2 ^ 34 * 1000000000)

/-- A time in a packet: 4 bytes of nanoseconds, 6 bytes of seconds. -/
def packetTime (nsec sec : Nat) : Bool := fits 32 nsec && fits 48 sec

/-! ## Collation (chapters 3, 4) -/

/-- Table 4.1. -/
def TapDesc.wf (d : TapDesc) : Bool := fits 16 d.m && fits 16 d.n && fits 32 d.k

/-- Table 4.2. -/
def TileHdr.wf (h : TileHdr) : Bool :=
  fits 32 h.recLen && fits 32 h.gathering && h.tap.wf && fits 32 h.aOff && fits 32 h.saOff && fits 32 h.bOff &&
    fits 32 h.sbOff && fits 32 h.cOff && fits 32 h.yOff && fits 16 h.subM && fits 16 h.subN && fits 16 h.rowOff &&
    fits 16 h.colOff

/-- A tile record: the bytes after the header of 256 bytes. -/
def recordWf (h : TileHdr) (data : List Byte) : Bool := h.wf && data.length + 256 == h.recLen

/-- Table 4.8. -/
def PolicySetP.wf (p : PolicySetP) : Bool :=
  p.rates.length == 8 && fits 32 p.quota && fits 32 p.fromGathering && fits 32 p.waiveGathering

/-- Table 4.9. -/
def ProgLoadP.wf (p : ProgLoadP) : Bool := fits 8 p.slot && fits 32 p.length && p.image.length == p.length

/-- Table 4.10. -/
def VerdictReadP.wf (p : VerdictReadP) : Bool := fits 32 p.gathering && fits 32 p.first && fits 32 p.bufLen && fits 64 p.dest

/-! ## Spine (chapters 5, 6, 10, 11) -/

/-- Table 5.6. -/
def RedBody.wf (x : RedBody) : Bool := fits 16 x.round && fits 16 x.count && x.values.length ≤ 4

/-- Table 5.9. -/
def BarBody.wf (x : BarBody) : Bool := fits 16 x.round && fits 16 x.count && timeFits x.release

def VoteBody.wf (x : VoteBody) : Bool := fits 32 x.gathering && fits 16 x.count && timeFits x.completion

/-- Table 10.3. -/
def HoldBody.wf (x : HoldBody) : Bool := timeFits x.time

/-- Table 11.2. -/
def RepBody.wf (x : RepBody) : Bool := fits 8 x.distinct && fits 16 x.count

/-- Table 6.1. -/
def SyncBody.wf (x : SyncBody) : Bool := timeFits (x.t1 / 65536)

/-- Tables 5.20-5.23. -/
def ReducePostP.wf (p : ReducePostP) : Bool := fits 32 p.rank && p.operands.length == 4 && fits 64 p.resultAddr

def BarrierArmP.wf (p : BarrierArmP) : Bool := fits 8 p.group && fits 32 p.rank && fits 32 p.membersLen && fits 64 p.resultAddr

def SewVoteP.wf (p : SewVoteP) : Bool := fits 32 p.gathering && fits 64 p.resultAddr

def BroadcastP.wf (p : BroadcastP) : Bool := fits 64 p.source && fits 64 p.length && fits 64 p.destOffset && fits 64 p.resultAddr

/-- Tables 6.9, 6.10. -/
def TimeSetP.wf (p : TimeSetP) : Bool :=
  packetTime p.nsec p.sec && fits 32 p.span && decide (-(2 ^ 31) ≤ p.adj) && decide (p.adj < 2 ^ 31)

def TimeLaunchP.wf (p : TimeLaunchP) : Bool := packetTime p.nsec p.sec

/-- Tables 10.14, 10.15. -/
def HoldAtP.wf (p : HoldAtP) : Bool := packetTime p.nsec p.sec && fits 64 p.resultAddr

def ReleaseAtP.wf (p : ReleaseAtP) : Bool := packetTime p.nsec p.sec

/-- Table 11.14. -/
def TipInP.wf (p : TipInP) : Bool := fits 32 p.rank && fits 64 p.resultAddr

/-! ## Gathering, binding and the sentinel (chapters 7-9) -/

/-- Table 7.1. -/
def RegionDesc.wf (r : RegionDesc) : Bool :=
  fits 64 r.base && fits 64 r.length && fits 8 r.groupSize && fits 32 r.repFirst && fits 32 r.repStride

/-- Table 7.4 and the page of 64 KiB. -/
def PagePush.wf (p : PagePush) : Bool := fits 32 p.gathering && fits 32 p.page && p.data.length == 65536

/-- Table 5.2: LENGTH is 64 to 4,096 by 64, and the payload has LENGTH bytes. -/
def DataFrame.wf (f : DataFrame) : Bool :=
  decide (64 ≤ f.length) && decide (f.length ≤ 4096) && f.length % 64 == 0 && f.payload.length == f.length && fits 48 f.offset

/-- Table 8.2. -/
def Xfer.wf (x : Xfer) : Bool :=
  fits 8 x.member && fits 32 x.gathering && fits 32 x.row && fits 64 x.length && (x.bytes.isEmpty || x.bytes.length == x.length)

/-- Table 8.3. -/
def BindReadReq.wf (r : BindReadReq) : Bool := fits 48 r.offset && fits 64 r.length && fits 32 r.gathering

/-- Table 8.4. -/
def DigestMsg.wf (d : DigestMsg) : Bool := fits 8 d.member && fits 8 d.groupSize && fits 64 d.length

/-- Tables 7.13, 7.14. -/
def GatherArmP.wf (p : GatherArmP) : Bool :=
  fits 8 p.count && fits 32 p.rank && fits 32 p.fromGathering && p.list.all RegionDesc.wf

def GatherStartP.wf (p : GatherStartP) : Bool := fits 32 p.gathering

/-- Tables 8.13-8.15. -/
def SewP.wf (p : SewP) : Bool :=
  fits 8 p.sigShift && fits 8 p.k && fits 8 p.m && fits 8 p.retain && fits 8 p.coldEvery && fits 32 p.fromGathering &&
    fits 32 p.loadArea && fits 64 p.mapAddr && fits 32 p.mapCount && fits 32 p.gathering

def BindRestoreP.wf (p : BindRestoreP) : Bool :=
  fits 8 p.region && fits 32 p.rank && fits 32 p.gathering && fits 64 p.place && fits 64 p.target && fits 64 p.resultAddr

def ColophonReadP.wf (p : ColophonReadP) : Bool :=
  fits 32 p.gathering && fits 64 p.offset && fits 64 p.length && fits 64 p.dest

/-- Table 9.3. -/
def Declare.wf (d : Declare) : Bool :=
  fits 16 d.nUnits && fits 16 d.nEngines && fits 8 d.nDomains && fits 32 d.holdReach && fits 32 d.memPages && fits 64 d.memBase &&
    d.domains.length ≤ 64

/-- Table 9.4. -/
def Segment.wf (g : Segment) : Bool := fits 32 g.offset && fits 32 g.total && fits 16 g.payload.length

/-- Table 9.5. -/
def ReleaseMsg.wf (r : ReleaseMsg) : Bool := fits 32 r.gathering && r.regions.all RegionDesc.wf

/-- A restore push carries one page. -/
def RestorePush.wf (p : RestorePush) : Bool := fits 64 p.addr && p.data.length == 65536

/-! ## Links, the Kettle path, host and firmware (chapters 10, 12-14) -/

/-- Four arguments of 32 bits, and a token of 160 bytes if there is one. -/
def kettleWf (args : List W32) (tok : Option Token) : Bool :=
  args.length == 4 && tok.all fun t => t.sig.length == 96 && fits 8 t.keySlot && timeFits t.notAfter

/-- Table 13.16. -/
def FwImage.wf (i : FwImage) : Bool :=
  fits 32 i.raw.length

def TenantCreateP.wf (p : TenantCreateP) : Bool := fits 16 p.vf && fits 32 p.ranks && fits 8 p.s

def SetPlacesP.wf (p : SetPlacesP) : Bool := fits 16 p.vf && fits 32 p.count

def FwStageP.wf (p : FwStageP) : Bool := fits 8 p.kind && fits 32 p.length && p.image.wf

def FwRebindP.wf (p : FwRebindP) : Bool := fits 8 p.kind && packetTime p.nsec p.sec

def SpecimenLoadP.wf (p : SpecimenLoadP) : Bool := fits 32 p.length && p.image.wf

def CountersReadP.wf (p : CountersReadP) : Bool := fits 32 p.first && fits 32 p.count && fits 64 p.dest

def MarginReadP.wf (p : MarginReadP) : Bool :=
  fits 8 p.slot && fits 16 p.index && fits 16 p.first && fits 16 p.count && fits 64 p.dest

def FlyleafReadP.wf (p : FlyleafReadP) : Bool := fits 48 p.firstSeq && fits 32 p.count && fits 64 p.dest

/-- Table 12.2. -/
def LinkFrame.wf (f : LinkFrame) : Bool := f.length ≤ 544 && f.body.length ≤ 544 && f.units ≤ 17

/-- A drive's memory request names a 64-bit address. -/
def StorEvent.wf : StorEvent → Bool
  | .memWrite addr _ => fits 64 addr
  | .memRead addr _ => fits 64 addr
  | .linkDown | .trained | .timeout | .surprise => true

/-- A register offset lies in the function's window; an access has between 1 and 8 bytes. -/
def regWf (s : Src) (off width : Nat) : Bool :=
  (match s with
    | .pf _ => decide (off < 0x100000) || (decide (0x10000000 ≤ off) && decide (off < 0x20000000))
    | .vf _ _ => decide (off < 0x10000)) && decide (1 ≤ width) && decide (width ≤ 8)

/-- Whether a term is a command of the hardware. -/
def Instr.wf : Instr → Bool
  | .registerWrite s off w _ => regWf s off w
  | .storageLinkEvent _ ev => ev.wf
  | .rcCounterRead s x _ => regWf s x.off x.width
  | .collateProgramLoad _ p => p.wf
  | .tapPost _ _ _ d => d.wf
  | .cpl _ _ _ off _ data => fits 32 off && decide (data.length ≤ 256)
  | .tileRecordReceived _ h data => recordWf h data
  | .intervalCloseReceived _ g => fits 32 g
  | .verdictDeadline _ g => fits 32 g
  | .collatePolicySet _ p => p.wf
  | .collateVerdictRead _ p => p.wf
  | .unfold _ _ t => timeFits t
  | .reducePost _ p => p.wf
  | .reduce _ _ x => x.wf
  | .reduceX _ _ x => x.wf
  | .redTimeout _ r => fits 16 r
  | .redWatchdog _ r => fits 16 r
  | .barrierArm _ p => p.wf
  | .barrier _ _ x => x.wf
  | .vote _ _ x => x.wf
  | .sewn _ _ x => x.wf
  | .sewVote _ p => p.wf
  | .broadcast _ p => p.wf
  | .stIncrWrite _ w _ => w == 4 || w == 8
  | .sync _ _ x t2 => x.wf && timeFits (t2 / 65536)
  | .delayReq _ _ t3 _ t4 => timeFits (t3 / 65536) && timeFits (t4 / 65536)
  | .delayResp _ _ t4 _ => timeFits (t4 / 65536)
  | .timed _ _ l _ _ a => timeFits (l / 65536) && timeFits (a / 65536)
  | .timeSet _ p => p.wf
  | .timeLaunch _ p => p.wf
  | .syncInEdge t => timeFits (t / 65536)
  | .releaseMessage _ r => r.wf
  | .fwReq _ _ _ a => fits 64 a
  | .pagePushReceived _ _ p => p.wf
  | .digest _ h l c => ({ toFrameHdr := h, payload := l, crc := c } : DataFrame).wf
  | .bcast _ _ f => f.wf
  | .bcastAck _ h x => ({ toFrameHdr := h, toFrameBody := x } : DataFrame).wf
  | .failover _ c => c.at'.all timeFits
  | .gatherArm _ p => p.wf
  | .gatherStart _ p => p.wf
  | .bindWrite _ f => f.wf
  | .bindRead _ f => f.wf
  | .bindData _ f => f.wf
  | .bindingFree _ g => fits 32 g
  | .sew _ p => p.wf
  | .bindRestore _ p => p.wf
  | .written _ w => fits 64 w.addr
  | .colophonRead _ p => p.wf
  | .declare _ _ _ d => d.wf
  | .streamSegment _ _ g => g.wf
  | .hello _ h => h.declare.all Declare.wf
  | .fwChunk _ off n bytes => fits 32 off && decide (n ≤ 496) && bytes.length == n
  | .policy _ p => p.rates.length == 8
  | .holdAtMessage _ t => timeFits t
  | .releaseAtMessage _ t => timeFits t
  | .regRd _ off _ => decide (off < 0x800)
  | .restorePushReceived _ p => p.wf
  | .sentinelTimeExchange _ t => timeFits t
  | .holdAt _ p => p.wf
  | .hold _ _ x => x.wf
  | .mark _ _ x => x.wf
  | .releaseAt _ p => p.wf
  | .release _ _ x => x.wf
  | .cancel _ _ x => x.wf
  | .identity _ a k => kettleWf a k
  | .health _ a k => kettleWf a k
  | .time _ a k => kettleWf a k
  | .flyleafReadKettle _ a k => kettleWf a k
  | .flyleafClearKettle _ a k => kettleWf a k
  | .marginReadKettle _ a k => kettleWf a k
  | .trim _ a k => kettleWf a k
  | .slotPower _ a k => kettleWf a k
  | .reset _ a k => kettleWf a k
  | .kettleHold _ a k => kettleWf a k
  | .mgmtPortFrame f => kettleWf f.args f.token
  | .reportCell _ _ x => x.wf
  | .summary _ _ x => x.wf
  | .tipIn _ p => p.wf
  | .linkFrame _ f => f.wf
  | .widthGo _ _ _ _ go => fits 48 go
  | .retuneGo _ _ t => fits 48 t
  | .ddrTempPoll temps => decide (temps.length ≤ 16)
  | .ddrUe a => decide (a < 2 ^ 41)
  | .identify _ d _ => fits 64 d
  | .tenantCreate _ p => p.wf
  | .tenantSetPlaces _ p => p.wf
  | .fwStage _ p => p.wf
  | .fwRebind _ p => p.wf
  | .specimenLoad _ p => p.wf
  | .countersRead _ p => p.wf
  | .marginRead _ p => p.wf
  | .flyleafRead _ p => p.wf
  | .flyleafClear _ t _ => t.sig.length == 96 && fits 8 t.keySlot && timeFits t.notAfter
  | .holdTest mv => fits 8 mv
  | .sentinelThermal _ _ t => decide (-2048 ≤ t) && decide (t < 2048)
  | .adminPfWrite _ _ | .placeCfgWrite _ _ | .porstAssert | .porstDeassert _ _ _ _ | .geoTrayChange _
  | .slotPrsntChange _ _ | .slotAlert _ _ | .scalarInstruction _ _ | .vectorInstruction _ _ | .dcfg _ _ _
  | .dslice _ _ _ _ | .dmask _ _ _ | .dpass _ _ _ _ _ _ | .xaccPassAdd _ | .xclr _ _ _ | .xadd _ _ _ | .xld _ _ _
  | .xst _ _ _ | .xmv _ _ _ _ | .xrnd _ _ _ _ | .xjudge _ _ _ _ _ | .xjudges _ _ _ _ _ | .send _ _ _ _ _
  | .crgrant _ _ _ _ | .mbpop _ _ _ | .mbfree _ _ | .mbcfg _ _ _ _ | .evsig _ _ _ _ | .waite _ _ _ | .take _ _ _
  | .evrd _ _ _ | .evclr _ _ | .timer _ _ | .coreTimerExpiry _ | .dmard _ _ _ _ _ | .dmardComplete _ _ | .fence _
  | .ready _ | .tdone _ | .messageArrival _ _ _ | .evsigArrival _ _ _ | .creditReturn _ _ _ | .tileCycleLimit _
  | .sramEccError _ _ | .coreSpecimenComplete _ _ | .colTrimWrite _ _ _ | .trimWithdrawTimeout _
  | .colAutotrimWrite _ _ _ | .tileDispatch | .programReadyTimeout _ | .slotDrainComplete _ | .mrdTimeout _ _
  | .tileVoidReceived _ _ | .reservedCell _ _ | .census _ _ _ _ | .fold _ _ | .unfoldCleanTimer _ | .unfoldAt _
  | .railGradeUpdate _ _ _ | .selftest _ _ _ | .spForceOther _ _ | .spCtrlWrite _ _
  | .dualWindowExpiry _ | .failbackTimer _ | .failbackAt _ | .barrierRelease _ _ | .sewVotePost _ | .bcastTimeout _ | .stNsecRead _ | .stLoad _ _ | .stCancel _ _ | .stBoundaryLoad
  | .stAdjWrite _ _ | .slewComplete | .syncInterval | .holdoverLimit | .stTsqPop _ | .stRxqPop _ | .launchFire
  | .ppsMiss | .syncOutPulse | .syncOutPulseEnd | .pagePushStart _ | .credit _ _ | .pageDigested | .digestTimeout _ _
  | .entriesSend _ | .colophonTimeout _ | .bindXferTimeout _ | .bindReadTimeout _ | .groupPushTimeout _ _
  | .nvmeCompletion _ _ | .sentinelPor _ | .ucieLinkUp _ _ _ | .ucieLinkDown _ | .arrive _ _ _ _
  | .heartbeat _ _ _ _ _ _ | .event _ _ _ _ _ _ | .holdAck _ _ _ | .trimAck _ _ _ _ | .resetNote _ _ _ _ | .wack _ _ _
  | .streamTimeout _ _ _ | .streamAck _ _ _ _ | .trimMessage _ _ _ | .domainMessage _ _ _ | .note _ _ | .report _ _
  | .sntHoldRaise _ | .sntHoldLower _ | .reachTimeout _ | .holdOnLoss _ | .hangDetect _ _ | .trimAckTimeout _ _
  | .sentinelFwSwitch _ | .holdFire _ | .cutTimeout _ | .releaseFire _ | .holdReset _ _ _ | .pulse _ _ | .readmit _ _
  | .domainResetAssert _ | .domainResetComplete _ | .kettleSentinelTimeout _ | .slotPowerOffStep _
  | .mergeWindowClose _ | .probe _ _ _ | .probeAck _ _ _ | .probeTimeout _ | .srAge _ | .srClear _ _ | .tetherLost _
  | .suspect _ _ _ | .restored _ _ _ _ _ | .restoreTimeout _ | .failedVoteWait _ | .trimUnit _ _ | .withdraw _ _
  | .replayTimeout _ | .linkFailed _ | .trainingComplete _ _ _ _ | .train _ _ _ _ | .laneBad _ _ | .widthReq _ _ _ _
  | .laneSelftestClean _ _ | .widenAt _ | .retuneReq _ _ | .berWindow _ _ | .retrainSlot _ | .lkSlotMaxExpiry _
  | .retune _ _ | .fullTrain _ _ | .laneReadmitWrite _ _ _ | .moduleFlag _ _ _ | .ddrChannelRetrain _ _
  | .ddrRetrainRetry _ | .retrainNow _ | .refAbsent _ | .lockLoss _ _ | .pllReady _ | .pllFailed _ | .ckPllWrite _ _ _
  | .driftWindow _ _ _ | .driftMove _ | .ckSscWrite _ _ _ | .ckCpllFreqWrite _ _ | .hostLinkDown _ _ | .flr _
  | .vfFlr _ _ | .sriovChange _ _ _ | .crSqTail _ _ _ | .crCtrlWrite _ _ _ | .crCqHead _ _ _
  | .commandFetch _ _ _ | .commandReply _ _ | .tenantDestroy _ _ | .intPendWrite _ _ | .intEnWrite _ _
  | .vfIntPendWrite _ _ _ | .boot | .lockstepTakeover _ | .handoverCheckpoint | .handoverComplete
  | .rebindReadyDeadline | .rebindTakeover | .takeoverDeadline | .fwTrialExpiry | .clusterUcodeReload _ _
  | .specPeriod | .accelSpecimenComplete _ _ | .summaryRecordTimer | .mirrorPageProgram _ | .mirrorBlockErase _
  | .flyleafScan | .flSelHiWrite _ _ | .aonSwitch | .preferAReturn | .powerLoss | .selectAonInput _ _
  | .railExcursion _ _ | .thermalAlarm | .throttleStep | .unthrottleStep | .thermalTrip | .psSlotCtrlWrite _ _
  | .slotSequenceTimeout _ | .modulePowerClass _ _ | .sentinelPowerLoss _ | .aonInputLow _ | .aonInputReturn _
  | .aonHoldDepleted | .referencePresent _ | .crCoalExpiry _ _ | .hostAerError _ _ | .pairSelfTestComplete _
  | .standbyImageReady | .spareClaim _ _ _ _ _ | .placeListUpdate _ _ _ | .restoreOrder _ => true

end Sys2Proof
end

