-- ==== Sys2Proof/Safety.lean ====
section
/-!
DEFINITION. Safety.lean: what counts as a safe run, in the terms the statements use: a step that answers a next state, a run
that never stops, what a command answers, and what it leaves unchanged.
-/

namespace Sys2Proof

open Machine

/-- The machine goes on from `s`. -/
def goesOn (s : State) : Prop := ∃ t, step s = .next t

/-- `k` steps from `s` all go on, and end in `t`. -/
def goesOnTo : Nat → State → State → Prop
  | 0, s, t => t = s
  | k + 1, s, t => ∃ u, step s = .next u ∧ goesOnTo k u t

/-- The command `i` completes on `s`: it answers a next state with the same queue, whose block has the property `P`. -/
def Answers (i : Instr) (s : State) (P : Block → Prop) : Prop :=
  ∃ t, exec i s = .next t ∧ t.pending = s.pending ∧ P t.blk

/-- One command is replied to, and no other: its reply waits to be written (R344). -/
def Replied (iss : Issuer) (op : Nat) (st : Byte) (b b' : Block) : Prop :=
  ∃ r : Reply, b'.host.done = b.host.done ++ [r] ∧ r.iss = iss ∧ r.opcode = BitVec.ofNat 16 op ∧ r.status = st

/-- Between `b` and `b'` the block sends `o` (among other things, perhaps). -/
def Sent (b b' : Block) (o : Out) : Prop := ∃ l, b'.out = b.out ++ l ∧ o ∈ l

/-- A control cell is the next of its hop, nothing waits behind it, and it crosses no gap (R120, R126). -/
def nextCell (b : Block) (p : Fin 8) (h : CellHdr) : Prop :=
  h.turned = false ∧ (getHop b (portHop p)).waiting = [] ∧
    ((getHop b (portHop p)).rxAny = true → seqAhead (getHop b (portHop p)) h.seq = 1)

/-- The block once a cell is accepted on a hop: its SEQ is the last one accepted there. -/
def afterSeq (b : Block) (p : Fin 8) (h : CellHdr) : Block :=
  modHop b (portHop p) fun x => { x with seqRx := h.seq, rxAny := true }

/-- A unit has left a port, or waits in its transmit queue for its class's turn (R114). -/
def Queued (b b' : Block) (p : Nat) (u : TxUnit) (o : Out) : Prop := Sent b b' o ∨ u ∈ (getLink b' p).txWait

/-- A control cell goes out on a hop with the hop's next SEQ (R126), or waits in the port's queue. -/
def CellSent (b b' : Block) (h : Nat) (hdr : CellHdr) (body : CellBody) : Prop :=
  let hd : CellHdr := { hdr with seq := (getHop b h).seqTx, dual := (getHop b h).dualUntil.isSome }
  Queued b b' (hopPort b h) (.cell hd body) (.cell (hopPort b h) hd body)

/-- A data frame goes out on a hop with the hop's DSEQ and is kept for a replay (R126), or waits in the port's queue; it is seen
with its last segment (R114). -/
def FrameSent (b b' : Block) (h : Nat) (ty : FrameType) (f : DataFrame) : Prop :=
  ∃ d : W16, let g := { f with dseq := d }
    (ty, g) ∈ (getHop b' h).dunacked ∧
      Queued b b' (hopPort b h) (.seg ty g (segments g - 1)) (.frame (hopPort b h) ty g)

/-- A unicast transfer of one frame goes out on the hop toward its destination (R112, R119). -/
def TransferSent (b b' : Block) (ty : FrameType) (t : Fin 1024) (dest : Place) (stream : W32) (l : List Byte) : Prop :=
  ∀ g h, cutFrames ty (frameOf b t dest stream) l = [g] → nextHop b (trayOf dest) = some h → hopUsable b h = true →
    FrameSent b b' h ty g

/-- A data frame that its hop takes: it crosses no gap, and is no later copy of a DSEQ (R120, R126). -/
def freshFrame (b : Block) (p : Fin 8) (f : DataFrame) : Prop :=
  f.turned = false ∧ ((getHop b (portHop p)).drxAny = true →
    dseqAhead (getHop b (portHop p)) f.dseq ≠ 0 ∧ dseqAhead (getHop b (portHop p)) f.dseq < 32768)

/-- A frame that is a whole transfer by itself, with its trailer right: the first of its transfer to come, and the last (R112). -/
def wholeFrame (b : Block) (ty : FrameType) (f : DataFrame) : Prop :=
  f.crc = frameCrc ty f ∧ f.last = true ∧ f.offset = 0 ∧ f.payload.length = f.length ∧
    b.spine.partials.find? (samePartial ty f) = none

/-- A frame of a unicast transfer that is whole with it, at its DEST. -/
def arrives (b : Block) (p : Fin 8) (ty : FrameType) (f : DataFrame) : Prop :=
  freshFrame b p f ∧ wholeFrame b ty f ∧ trayOf f.dest = ownPlace b

/-- The link control set as this GLT sends it: its own place, its port number and the check code over both (Table 12.4). -/
def ownLcs (b : Block) (l : Nat) (x : Lcs) : Out :=
  let h : LcsHdr := { place := ownPlace b, port := Fin.ofNat 32 l }
  .lcs l { h with crc := crc16 (lcsBytes h x) } x

/-- The block once a link control set is the one acted on last, whose copies are repeats (R314). -/
def lcsTaken (b : Block) (l : Nat) (h : LcsHdr) (x : Lcs) : Block :=
  setLink b l { getLink b l with lcsSeen := some (lcsBytes h x, nowNs b) }

/-- A GLT that heads no ring and joins no uplink ring, with its east hop in use. -/
def plainMember (b : Block) : Prop := isHead b 0 = false ∧ uplinkLevel b = none ∧ hopUsable b 1 = true

/-- The GLT keeps its one member of ring 0 to itself: no neighbour can be reached, and it joins no uplink ring. -/
def loneMember (b : Block) : Prop := ringAlone b 0 = true ∧ uplinkLevel b = none

/-! ## The Kettle path -/

/-- A Kettle operation of a route ends with a result (Table 10.13). -/
def KettleEnds (r : Route) (st : Byte) (b b' : Block) : Prop :=
  (getRoute b' r).phase = .done ∧ (getRoute b' r).result = st ∧ (getRoute b' r).done = (getRoute b r).done + 1

/-- R279: an operation of a bit of OPS may run: by a token that passes, or without one from the administrating PF's window. -/
def kettleAllows (b : Block) (r : Route) (bit : Nat) (tok : Option Token) : Bool :=
  match tok with
  | none => decide (r = .window (Fin.ofNat 4 b.ident.adminPf))
  | some t => tokenOk b (getRoute b r).nonce bit t || decide (r = .window (Fin.ofNat 4 b.ident.adminPf))

/-! ## Collator cores -/

/-- A core that issues its next instruction: its clock runs and it stalls in none. -/
def coreReady (b : Block) (c : Nat) : Prop := coreRuns b c = true ∧ (getCore b c).wait = .none

/-- Nothing but one core and the named counters differs (the model's count of free values apart). -/
def onlyCore (c : Nat) (counters : List Nat) (b b' : Block) : Prop :=
  (∀ d, d ≠ c → getCore b' d = getCore b d) ∧
  (∀ i, i ∉ counters → tabGet 0 b'.obs.counters i = tabGet 0 b.obs.counters i) ∧
  b' = { b with freeCtr := b'.freeCtr, obs := { b.obs with counters := b'.obs.counters },
                col := { b.col with cores := b'.col.cores } }

/-- The core after an instruction that makes `k` of it: its own cycle and `n` stall cycles have passed, and it waits for
nothing. -/
def afterCycles (k old : Core) (n : Nat) : Core := { k with cycle := old.cycle + 1 + BitVec.ofNat 64 n, wait := .none }

/-- The core goes to its next instruction. -/
def nextPc (k : Core) : Core := { k with pc := k.pc + 4 }

/-- An instruction of core `c` that changes the core by `f` and nothing else, on every state where the core is ready and
`ok` holds. -/
def Executes (i : Instr) (c : Nat) (ok : Block → Prop) (f : Core → Core) : Prop :=
  ∀ s, coreReady s.blk c → ok s.blk → Answers i s fun b =>
    (∃ n, getCore b c = afterCycles (f (getCore s.blk c)) (getCore s.blk c) n) ∧ onlyCore c [coreCounter c 2] s.blk b

/-! ## Frames -/

/-- The parts of a block.  Three of its records are divided: the host interface into its rings, its functions' registers and the
replies that wait, and the power record into the last readings of the sensors and the supply. -/
inductive Part where
  | openValues | out | leaf | ident | fly | obs | time | spine | links | col | ver | tenants | slots | gt | bd | sn | hr | sus | ck
  | rings | functions | replies | fw | readings | supply
  deriving DecidableEq, Repr

/-- The part is the same in both blocks. -/
def Part.same (b b' : Block) : Part → Prop
  | .openValues => b'.freeCtr = b.freeCtr
  | .rings => b'.host.rings = b.host.rings ∧ b'.host.outstanding = b.host.outstanding ∧ b'.host.nextFn = b.host.nextFn ∧
      b'.host.nextRing = b.host.nextRing
  | .functions => b'.host.pfs = b.host.pfs
  | .replies => b'.host.done = b.host.done
  | .readings => b'.pw.temps = b.pw.temps ∧ b'.pw.volts = b.pw.volts
  | .supply => b'.pw = { b.pw with temps := b'.pw.temps, volts := b'.pw.volts }
  | .out => b'.out = b.out
  | .leaf => b'.leaf = b.leaf
  | .ident => b'.ident = b.ident
  | .fly => b'.fly = b.fly
  | .obs => b'.obs = b.obs
  | .time => b'.time = b.time
  | .spine => b'.spine = b.spine
  | .links => b'.links = b.links
  | .col => b'.col = b.col
  | .ver => b'.ver = b.ver
  | .tenants => b'.tenants = b.tenants
  | .slots => b'.slots = b.slots
  | .gt => b'.gt = b.gt
  | .bd => b'.bd = b.bd
  | .sn => b'.sn = b.sn
  | .hr => b'.hr = b.hr
  | .sus => b'.sus = b.sus
  | .ck => b'.ck = b.ck
  | .fw => b'.fw = b.fw

/-- A command changes no part but those named. -/
def Changes (i : Instr) (s : State) (ps : List Part) : Prop :=
  Answers i s fun b => ∀ p, p ∉ ps → Part.same s.blk b p

/-- What a raised event may change: leaf bits and the functions' pending groups, what is sent, counters, the Flyleaf with the
readings it takes. -/
def reportParts : List Part := [.openValues, .out, .leaf, .fly, .obs, .functions, .readings]

/-- The parts that a command of a local effect may change: it raises nothing. -/
def localParts : Instr → Option (List Part)
  | .ddrTempPoll .. | .ddrRetrainRetry .. | .referencePresent .. => some [.ck]
  | .handoverCheckpoint .. | .pairSelfTestComplete .. | .standbyImageReady .. => some [.fw]
  | .ucieLinkUp .. | .policy .. | .releaseAtMessage .. | .sntHoldLower .. | .sentinelTimeExchange .. => some [.sn]
  | .coreTimerExpiry .. | .dmardComplete .. | .messageArrival .. | .evsigArrival .. | .creditReturn .. => some [.col]
  | .srAge .. => some [.sus]
  | .stNsecRead .. | .syncOutPulse .. | .syncOutPulseEnd .. => some [.time]
  | .retuneGo .. => some [.links]
  | .slotPowerOffStep .. => some [.slots]
  | .specPeriod .. => some [.col, .fw]
  | .pagePushStart .. | .credit .. | .sentinelPor .. | .ucieLinkDown .. | .holdAtMessage .. | .trimMessage ..
  | .domainMessage .. | .restorePushReceived .. | .sntHoldRaise .. | .holdOnLoss .. => some [.out, .sn]
  | .slotDrainComplete .. => some [.col, .obs, .tenants, .ver]
  | .intervalCloseReceived .. => some [.tenants]
  | .sentinelPowerLoss .. => some [.slots, .sn]
  | .intPendWrite .. | .vfIntPendWrite .. => some [.functions]
  | .retuneReq .. | .lkSlotMaxExpiry .. => some [.links, .out]
  | .unthrottleStep .. => some [.col, .supply]
  | .xaccPassAdd .. => some [.col, .openValues]
  | .retrainSlot .. | .laneSelftestClean .. => some [.links, .obs, .out]
  | .crCoalExpiry .. => some [.obs, .out, .rings]
  | .bindingFree .. => some [.bd, .tenants, .ver]
  | .dmask .. | .xclr .. | .mbpop .. | .mbfree .. | .waite .. | .take .. | .evrd .. | .evclr .. | .timer ..
  | .fence .. => some [.col, .obs, .openValues]
  | .releaseMessage .. => some [.obs, .out, .slots, .sn]
  | .intEnWrite .. => some [.functions, .obs, .out]
  | .sriovChange .. => some [.functions, .tenants]
  | .streamAck .. => some [.bd, .links, .obs, .out, .sn]
  | .trimWithdrawTimeout .. => some [.col, .obs, .tenants, .ver]
  | .unfoldCleanTimer .. | .failbackTimer .. => some [.links, .obs, .out, .spine]
  | .commandReply .. => some [.functions, .obs, .out, .replies, .rings]
  | .mergeWindowClose .. => some [.functions, .links, .obs, .out, .spine, .sus]
  | _ => none

/-- What the firmware's work may change that waited while no firmware ran (R361). -/
def taskParts : List Part := [.bd, .fw, .hr, .links, .replies, .slots, .sn, .spine, .sus, .tenants]

/-- The parts beside `reportParts` that a command of one chapter's effect may change. -/
def chapterParts : Instr → Option (List Part)
  | .collateVerdictRead .. | .colophonRead .. | .identify .. | .countersRead .. | .marginRead .. | .flyleafRead ..
  | .flyleafClear .. => some [.replies]
  | .summaryRecordTimer .. | .mirrorPageProgram .. | .mirrorBlockErase .. | .flyleafScan .. | .flSelHiWrite ..
  | .railExcursion .. | .hostAerError .. => some []
  | .ready .. => some [.replies, .col]
  | .programReadyTimeout .. => some [.replies, .col, .tenants, .ver]
  | .fwStage .. | .rebindReadyDeadline .. | .specimenLoad .. => some [.replies, .fw]
  | .unfoldAt .. => some [.fw, .links, .slots, .sn, .spine, .tenants, .time]
  | .handoverComplete .. | .takeoverDeadline .. | .lockstepTakeover .. => some taskParts
  | .boot .. => some (.col :: taskParts)
  | .pllReady .. => some (.ck :: .time :: taskParts)
  | .bcastAck .. => some (.gt :: taskParts)
  | .vfFlr .. => some [.replies, .rings]
  | .slotSequenceTimeout .. => some [.replies, .slots]
  | .gatherArm .. | .gatherStart .. | .restoreTimeout .. => some [.replies, .tenants]
  | .slewComplete .. | .timeLaunch .. => some [.replies, .time]
  | .ddrChannelRetrain .. | .retrainNow .. | .driftWindow .. | .ckSscWrite .. => some [.ck]
  | .colAutotrimWrite .. => some [.col, .tenants, .ver]
  | .fwTrialExpiry .. => some [.fw]
  | .identity .. | .health .. | .flyleafReadKettle .. | .flyleafClearKettle .. | .marginReadKettle ..
  | .kettleSentinelTimeout .. => some [.hr]
  | .adminPfWrite .. | .geoTrayChange .. => some [.ident]
  | .retune .. | .laneReadmitWrite .. => some [.links]
  | .crSqTail .. | .crCtrlWrite .. | .crCqHead .. => some [.rings]
  | .psSlotCtrlWrite .. => some [.slots]
  | .tapPost .. | .heartbeat .. | .event .. | .holdAck .. | .trimAck .. | .resetNote .. | .wack ..
  | .reachTimeout .. | .hangDetect .. | .trimAckTimeout .. | .sentinelThermal .. => some [.sn]
  | .reservedCell .. | .modulePowerClass .. => some [.spine]
  | .aonSwitch .. | .preferAReturn .. | .powerLoss .. | .holdTest .. | .selectAonInput .. | .thermalAlarm ..
  | .aonInputLow .. | .aonInputReturn .. => some [.supply]
  | .srClear .. => some [.sus]
  | .stAdjWrite .. | .stIncrWrite .. | .holdoverLimit .. | .stTsqPop .. | .stRxqPop .. | .syncInEdge .. | .ppsMiss .. => some [.time]
  | .broadcast .. => some [.replies, .bd, .links, .spine]
  | .sew .. => some [.replies, .bd, .tenants]
  | .commandFetch .. => some [.replies, .fw, .rings]
  | .fwChunk .. => some [.replies, .fw, .sn]
  | .reducePost .. | .redTimeout .. => some [.replies, .links, .spine]
  | .collatePolicySet .. => some [.replies, .tenants, .ver]
  | .bindXferTimeout .. => some [.bd, .links, .spine]
  | .storageLinkEvent .. => some [.bd, .tenants]
  | .clusterUcodeReload .. => some [.replies, .col, .fw]
  | .throttleStep .. => some [.col, .supply]
  | .slotPower .. => some [.hr, .slots]
  | .time .. => some [.hr, .time]
  | .widenAt .. => some [.links, .time]
  | .cpl .. | .mrdTimeout .. => some [.links, .slots, .sn]
  | .fwReq .. | .declare .. | .regRd .. => some [.slots, .sn]
  | _ => none

end Sys2Proof
end

