-- ==== Sys2Proof/Certificates/Slice0/Obligations.lean ====
section
/-!
DEFINITION. Certificates/Slice0/Obligations.lean: the statements for the provers.  A completion statement says, for every
state and operands that meet its hypotheses, that the command answers a next state, and what that state holds.
-/

open Sys2Proof Sys2Proof.Machine

/-! ## The queue and reset -/

/-- Steps take the commands in the order in which they came, first in, first out. -/
def Obligations.StepRunsTheFrontCommand : Prop :=
  ∀ (c : Instr) (s : State), step { s with pending := c :: s.pending } = exec c s

/-! ## Collator cores (chapter 3) -/

/-- R31-R35, R58-R60, Tables 3.2, 3.4 and 3.5: the results of the scalar instructions and where each continues; the DPU's
configuration, its passes (one of unit 0 stands before one that unit 1 issued in the same cycle), and the add of the oldest pass.  Immediates, branch targets and shifts by 64 or more are open (log
entry 60): they appear as the opaque functions of Config.  What VALUE holds after an overflow is open.
Choices of the model: log entries 60, 61, 65, 152, 175. -/
def Obligations.ScalarAndDpuResults : Prop :=
  (∀ (c : Fin 512),
    (∀ o (d a e : Fin 32), Executes (.scalarInstruction c (.alu o d a e)) c (fun _ => True) fun k =>
      nextPc (gPut k d (alu o (gGet k a) (gGet k e)))) ∧
    (∀ o (d a : Fin 32) i, Executes (.scalarInstruction c (.aluImm o d a i)) c (fun _ => True) fun k =>
      nextPc (gPut k d (alu o (gGet k a) (immOf i)))) ∧
    (∀ (d : Fin 32) i, Executes (.scalarInstruction c (.loadImm d i)) c (fun _ => True) fun k =>
      nextPc (gPut k d (i.signExtend 64))) ∧
    (∀ n sg (d a : Fin 32) i, Executes (.scalarInstruction c (.load n sg d a i)) c
      (fun b => (gGet (getCore b c) a + immOf i).toNat + accessBytes n ≤ 0x100000) fun k =>
      nextPc (gPut k d (extendLoad (accessBytes n) sg
        (leNat (memGetBytes k.sram (gGet k a + immOf i).toNat (accessBytes n)))))) ∧
    (∀ n (a e : Fin 32) i, Executes (.scalarInstruction c (.store n a e i)) c
      (fun b => (gGet (getCore b c) a + immOf i).toNat + accessBytes n ≤ 0x100000) fun k =>
      nextPc { k with sram := memPutBytes k.sram (gGet k a + immOf i).toNat (leBytes (accessBytes n) (gGet k e).toNat) }) ∧
    (∀ q (a e : Fin 32) i, Executes (.scalarInstruction c (.branch q a e i)) c (fun _ => True) fun k =>
      if condHolds q (gGet k a) (gGet k e) then { k with pc := Config.branchTarget k.pc i } else nextPc k) ∧
    (∀ (d : Fin 32) i, Executes (.scalarInstruction c (.jump d i)) c (fun _ => True) fun k =>
      { gPut k d ((k.pc + 4).setWidth 64) with pc := Config.branchTarget k.pc i }) ∧
    (∀ (d a : Fin 32) i, Executes (.scalarInstruction c (.jumpReg d a i)) c (fun _ => True) fun k =>
      { gPut k d ((k.pc + 4).setWidth 64) with pc := (gGet k a + immOf i).setWidth 32 }) ∧
    (∀ (d : Fin 32) i, Executes (.scalarInstruction c (.loop d i)) c (fun _ => True) fun k =>
      let left := gGet k d - 1
      if left = 0 then nextPc (gPut k d left) else { gPut k d left with pc := Config.branchTarget k.pc i })) ∧
  (∀ (c : Fin 512) (u : Fin 2),
    (∀ a : Fin 32, Executes (.dcfg c u a) c
      (fun b => pairOk (field (gGet (getCore b c) a) 0 4) (field (gGet (getCore b c) a) 4 4) = true) fun k =>
      nextPc { k with dpu := tabPut k.dpu u { dpuOf k u with
        aFmt := BitVec.ofNat 4 (field (gGet k a) 0 4), bFmt := BitVec.ofNat 4 (field (gGet k a) 4 4),
        daz := (gGet k a).getLsbD 8 } }) ∧
    (∀ sa sb : Fin 4, Executes (.dslice c u sa sb) c
      (fun b => sa.val < inSlices (dpuOf (getCore b c) u).aFmt.toNat ∧ sb.val < inSlices (dpuOf (getCore b c) u).bFmt.toNat)
      fun k => nextPc { k with dpu := tabPut k.dpu u { dpuOf k u with sliceA := sa, sliceB := sb } }) ∧
    (∀ a : Fin 32, Executes (.dmask c u a) c (fun _ => True) fun k =>
      nextPc { k with dpu := tabPut k.dpu u { dpuOf k u with mask := (gGet k a).setWidth 32 } }) ∧
    (∀ (x : Fin 128) (va vb d : Fin 32) (s : State), coreReady s.blk c →
      ((dpuOf (getCore s.blk c) u).aFmt = 5 → va.val % 2 = 0) → ((dpuOf (getCore s.blk c) u).bFmt = 5 → vb.val % 2 = 0) →
      Answers (.dpass c u x va vb d) s fun b =>
        (∃ n, getCore b c = afterCycles (nextPc { getCore s.blk c with passes := joinPass (getCore s.blk c).passes (
          { passOf (getCore s.blk c) (dpuOf (getCore s.blk c) u) x va vb (gGet (getCore s.blk c) d) with
            unit := u.val, cycle := (getCore b c).cycle } : Pass) }) (getCore s.blk c) n) ∧
        tabGet 0 b.obs.counters (coreCounter c 0) = tabGet 0 s.blk.obs.counters (coreCounter c 0) + 1 ∧
        onlyCore c [coreCounter c 2, coreCounter c 0] s.blk b) ∧
    (∀ (s : State) (p : Pass) (r : List Pass), coreRuns s.blk c = true → (getCore s.blk c).passes = p :: r →
      Answers (.xaccPassAdd c) s fun b =>
        (∃ v, getCore b c = xPut { getCore s.blk c with passes := r } p.x (xAddPass (xGet (getCore s.blk c) p.x) p v)) ∧
        onlyCore c [] s.blk b))

/-- Tables 3.2 and 3.5, R57, R58: the results of the vector instructions.  A NaN's payload is open, so the lanes of a
floating-point form are stated for some payloads (log entry 60). Choices of the model: log entries 60, 61, 62, 152. -/
def Obligations.VectorInstructionResults : Prop :=
  ∀ (c : Fin 512),
    (∀ (d a : Fin 32) i, Executes (.vectorInstruction c (.vld d a i)) c
      (fun b => (gGet (getCore b c) a + immOf i).toNat + 64 ≤ 0x100000) fun k =>
      nextPc (vPut k d (BitVec.ofNat 512 (leNat (memGetBytes k.sram (gGet k a + immOf i).toNat 64))))) ∧
    (∀ (x a : Fin 32) i, Executes (.vectorInstruction c (.vst x a i)) c
      (fun b => (gGet (getCore b c) a + immOf i).toNat + 64 ≤ 0x100000) fun k =>
      nextPc { k with sram := memPutBytes k.sram (gGet k a + immOf i).toNat (leBytes 64 (vGet k x).toNat) }) ∧
    (∀ o n (d a e : Fin 32), Executes (.vectorInstruction c (.vint o n d a e)) c (fun _ => True) fun k =>
      nextPc (vPut k d (lanesOf (accessBytes n) fun i => vintLane o (8 * accessBytes n)
        (laneGet (vGet k a) (accessBytes n) i) (laneGet (vGet k e) (accessBytes n) i)))) ∧
    (∀ fmt (d a : Fin 32), fmt = 0xA ∨ fmt = 0xB ∨ fmt = 0xC →
      Executes (.vectorInstruction c (.vunpk fmt d a)) c (fun _ => True) fun k =>
        nextPc (vPut k d (lanesOf 1 (packedElem (if fmt = 0xC then 4 else 6) (vGet k a))))) ∧
    (∀ (d x : Fin 32) (l : Fin 8), Executes (.vectorInstruction c (.laneToG d x l)) c (fun _ => True) fun k =>
      nextPc (gPut k d (BitVec.ofNat 64 (laneGet (vGet k x) 8 l)))) ∧
    (∀ (d a : Fin 32) (l : Fin 8), Executes (.vectorInstruction c (.gToLane d a l)) c (fun _ => True) fun k =>
      nextPc (vPut k d (lanePut (vGet k d) 8 l (gGet k a).toNat))) ∧
    (∀ (d a e g : Fin 32) (s : State) (f : FpForm) (x : FFmt), coreReady s.blk c →
      fpForm (gGet (getCore s.blk c) g) = f → fmtOf f.fmt f.p = some x → formOk f = true →
      let lane (r i : Nat) : Fp := decodeOut f.fmt (laneGet (vGet (getCore s.blk c) r) (laneBytesOf f.fmt) i)
      let gives (op : VectorOp) (y : Nat → Fp) : Prop := Answers (.vectorInstruction c op) s fun b =>
        (∃ (pay : Nat → Nat) (n : Nat), getCore b c =
          afterCycles (nextPc (vPut (getCore s.blk c) d (lanesOf (laneBytesOf f.fmt) fun i => encodeOut f.fmt (pay i) (y i))))
            (getCore s.blk c) n) ∧ onlyCore c [coreCounter c 2] s.blk b
      gives (.vadd d a e g) (fun i => fpAdd x f.rnd f.ftz (lane a i) (lane e i)) ∧
      gives (.vsub d a e g) (fun i => fpAdd x f.rnd f.ftz (lane a i) (fpNeg (lane e i))) ∧
      gives (.vmul d a e g) (fun i => fpMul x f.rnd f.ftz (lane a i) (lane e i)) ∧
      gives (.vfma d a e g) (fun i => fpFma x f.rnd f.ftz (lane a i) (lane e i) (lane d i)) ∧
      (∀ o, Answers (.vectorInstruction c (.vcmp o d a e g)) s fun b =>
        (∃ n, getCore b c = afterCycles (nextPc (vPut (getCore s.blk c) d (lanesOf (laneBytesOf f.fmt) fun i =>
          Config.cmpLane (cmpHolds o (fpCmp (lane a i) (lane e i))) (8 * laneBytesOf f.fmt)))) (getCore s.blk c) n) ∧
        onlyCore c [coreCounter c 2] s.blk b) ∧
      (∀ src : BitVec 4, src.toNat ≤ 4 → Answers (.vectorInstruction c (.vcvt d a g src)) s fun b =>
        (∃ (pay : Nat → Nat) (n : Nat), getCore b c =
          afterCycles (nextPc (vPut (getCore s.blk c) d (lanesOf (laneBytesOf f.fmt) fun i =>
            if (i + 1) * laneBytesOf src.toNat ≤ 64 then
              encodeOut f.fmt (pay i) (roundFp x f.rnd f.ftz false
                (decodeOut src.toNat (laneGet (vGet (getCore s.blk c) a) (laneBytesOf src.toNat) i)))
            else pay i))) (getCore s.blk c) n) ∧
        onlyCore c [coreCounter c 2] s.blk b))



/-- Table 3.6, R37, R48, R61: the XACC instructions on an XACC that no pass is still bound for.
Choices of the model: log entries 61, 62, 65, 152, 154. -/
def Obligations.XaccInstructionResults : Prop :=
  ∀ (c : Fin 512) (x : Fin 128),
    (∀ a : Fin 32, Executes (.xclr c x a) c (fun b => xBusy (getCore b c) x = false) fun k =>
      nextPc (xPut k x { base := (gGet k a).setWidth 16 })) ∧
    (∀ (a : Fin 32) (s : State), coreReady s.blk c → xBusy (getCore s.blk c) x = false →
      (gGet (getCore s.blk c) a).toNat < 128 → xBusy (getCore s.blk c) (gGet (getCore s.blk c) a).toNat = false →
      Answers (.xadd c x a) s fun b =>
        (∃ v n, getCore b c = afterCycles (nextPc (xPut (getCore s.blk c) x (xAddX (xGet (getCore s.blk c) x)
          (xGet (getCore s.blk c) (gGet (getCore s.blk c) a).toNat) v))) (getCore s.blk c) n) ∧
        onlyCore c [coreCounter c 2] s.blk b) ∧
    (∀ a : Fin 32, Executes (.xld c x a) c
      (fun b => xBusy (getCore b c) x = false ∧ imageAt (gGet (getCore b c) a).toNat = true) fun k =>
      nextPc (xPut k x (xOfImage (BitVec.ofNat 512 (leNat (memGetBytes k.sram (gGet k a).toNat 64)))))) ∧
    (∀ a : Fin 32, Executes (.xst c x a) c
      (fun b => xBusy (getCore b c) x = false ∧ imageAt (gGet (getCore b c) a).toNat = true) fun k =>
      nextPc { k with sram := memPutBytes k.sram (gGet k a).toNat (leBytes 64 (xImage (xGet k x)).toNat) }) ∧
    (∀ a d : Fin 32, Executes (.xmv c x a d) c
      (fun b => xBusy (getCore b c) x = false ∧ (gGet (getCore b c) a).toNat < 8) fun k =>
      nextPc (gPut k d (BitVec.ofNat 64 (laneGet (xImage (xGet k x)) 8 (gGet k a).toNat)))) ∧
    (∀ (a d : Fin 32) (s : State), coreReady s.blk c → xBusy (getCore s.blk c) x = false →
      let k := getCore s.blk c
      let w := gGet k a
      let f := fpForm w
      let n := laneBytesOf f.fmt
      f.fmt ≤ 8 → f.rnd ≤ 4 → (field w 16 4 + 1) * n ≤ 64 →
      Answers (.xrnd c x a d) s fun b =>
        (∃ pay i, getCore b c = afterCycles (nextPc { vPut k d (lanePut (vGet k d) n (field w 16 4)
            (encodeOut f.fmt pay (roundTo f.fmt f.p f.rnd f.ftz false (xExact (xGet k x) f.rnd))))
          with undec := k.undec || ambiguous (xGet k x) f.fmt f.p f.rnd f.ftz }) k i) ∧
        onlyCore c [coreCounter c 2] s.blk b) ∧
    (∀ (a e d : Fin 32) (s : State) (t : Tile), coreReady s.blk c → xBusy (getCore s.blk c) x = false →
      let k := getCore s.blk c
      (xGet k x).ovf = false → coreTile s.blk c = some t → outOfOrder k.tally (gGet k e).toNat = false →
      let i := (gGet k e).toNat
      let acc := readAcc t.hdr.tap.accDesc
      let bounded (cc : Fp) : Judged × Bool := (judgeBounded acc (judgeIn t.hdr (xGet k x) (gGet k a) cc), false)
      let strict : Judged × Bool := judgeStrict acc (judgeIn t.hdr (xGet k x) (gGet k a) (recordC t i))
        (some ((gGet k d).toNat % 2 ^ (8 * outBytes acc.outFmt))) k.undec
      let gives (op : Instr) (o : Judged × Bool) (undec : Bool) : Prop := Answers op s fun b =>
        (∃ n, getCore b c = afterCycles (nextPc { k with tally := tallyOne k.tally i o.1 o.2, undec := undec }) k n) ∧
        onlyCore c [coreCounter c 2] s.blk b
      gives (.xjudge c x a e d) (if t.hdr.strict then strict else bounded (fromB64 (gGet k d))) k.undec ∧
      gives (.xjudges c x a e d) (if t.hdr.strict then strict else bounded (recordC t i)) false)

/-- R63-R69, Table 3.9: messages, credits and mailboxes, and what arrives at a core that its router serves.
Choices of the model: log entries 61, 63, 67. -/
def Obligations.MessageResults : Prop :=
  (∀ (c : Fin 512) (m : Fin 16) (s : State), coreReady s.blk c →
    let k := getCore s.blk c
    (∀ (f : Fin 64) (a e : Fin 32) (t : Nat), relCore s.blk c (gGet k a).toNat = some t → k.lostCredit.contains (t, m.val) = false →
      (gGet k e).toNat % 64 = 0 → (gGet k e).toNat + 64 * (f.val + 1) ≤ 0x100000 → f.val + 1 ≤ creditOf k t m →
      Answers (.send c m f a e) s fun b =>
        b.col.mesh = s.blk.col.mesh ++
          [{ src := c.val, dst := t, mbox := m.val, bytes := memGetBytes k.sram (gGet k e).toNat (64 * (f.val + 1)) }] ∧
        (∃ n, getCore b c = afterCycles (nextPc { k with credits := useCredit k.credits t m (f.val + 1) }) k n) ∧
        ∀ d, d ≠ c.val → getCore b d = getCore s.blk d) ∧
    (∀ (a e : Fin 32) (t : Nat), relCore s.blk c (gGet k a).toNat = some t →
      boxGranted (boxOf s.blk c m) + boxHeld (boxOf s.blk c m) + (gGet k e).toNat ≤ (boxOf s.blk c m).size →
      Answers (.crgrant c m a e) s fun b =>
        b.col.meshCredit = s.blk.col.meshCredit ++ [{ sender := t, receiver := c.val, mbox := m.val, flits := (gGet k e).toNat }] ∧
        (boxOf b c m).granted = tabPut (boxOf s.blk c m).granted t (tabGet 0 (boxOf s.blk c m).granted t + (gGet k e).toNat) ∧
        (getCore b c).pc = k.pc + 4) ∧
    (∀ d : Fin 32, Executes (.mbpop c m d) c (fun _ => True) fun k =>
      nextPc (gPut k d (match (tabGet {} k.mbox m).msgs with
        | [] => 0
        | x :: _ => BitVec.ofNat 64 (x.addr + x.flits * 2 ^ 32)))) ∧
    ((∀ x r, (boxOf s.blk c m).msgs = x :: r → Answers (.mbfree c m) s fun b =>
        (boxOf b c m).msgs = r ∧ (getCore b c).pc = k.pc + 4 ∧
        b.col.meshCredit = s.blk.col.meshCredit ++ [{ sender := x.sender, receiver := c.val, mbox := m.val, flits := x.flits }]) ∧
      ((boxOf s.blk c m).msgs = [] → Answers (.mbfree c m) s fun b =>
        (getCore b c).pc = k.pc + 4 ∧ b.col.meshCredit = s.blk.col.meshCredit)) ∧
    (∀ a e : Fin 32, (boxOf s.blk c m).msgs = [] → boxGranted (boxOf s.blk c m) = 0 → (gGet k a).toNat % 64 = 0 →
      (gGet k a).toNat + 64 * (gGet k e).toNat ≤ 0x100000 →
      Answers (.mbcfg c m a e) s fun b =>
        boxOf b c m = { base := (gGet k a).toNat, size := (gGet k e).toNat } ∧ (getCore b c).pc = k.pc + 4 ∧
        ∀ d, d ≠ c.val → getCore b d = getCore s.blk d) ∧
    (∀ (i : Fin 64) (a e : Fin 32) (t : Nat), relCore s.blk c (gGet k a).toNat = some t → 32 ≤ i.val →
      1 ≤ (gGet k e).toNat → (gGet k e).toNat ≤ 255 →
      Answers (.evsig c i a e) s fun b =>
        b.col.meshEv = s.blk.col.meshEv ++ [{ src := c.val, dst := t, input := i.val, count := (gGet k e).toNat }] ∧
        (getCore b c).pc = k.pc + 4)) ∧
  (∀ (s : State) (src d : Fin 512),
    coreGone s.blk d = false →
    (∀ (m : Fin 16) x r, takeFirst (fun x : MeshMsg => x.src == src.val && x.dst == d.val && x.mbox == m.val) s.blk.col.mesh = some (x, r) →
      Answers (.messageArrival src d m) s fun b =>
        b.col.mesh = r ∧
        (boxOf b d m).msgs = (boxOf s.blk d m).msgs ++
          [{ addr := (boxOf s.blk d m).base + 64 * (boxOf s.blk d m).tail, flits := x.bytes.length / 64, sender := src.val }] ∧
        (getCore b d).sram = ringPutFlits (getCore s.blk d).sram (boxOf s.blk d m).base (boxOf s.blk d m).size
          (boxOf s.blk d m).tail x.bytes (x.bytes.length / 64) ∧
        (tabGet {} (getCore b d).tin m).count = min ((tabGet {} (getCore s.blk d).tin m).count + 1) 0xFFFF) ∧
    (∀ (i : Fin 64) x r, takeFirst (fun x : MeshEv => x.src == src.val && x.dst == d.val && x.input == i.val) s.blk.col.meshEv = some (x, r) →
      Answers (.evsigArrival src d i) s fun b =>
        b.col.meshEv = r ∧
        (tabGet {} (getCore b d).tin i).count = min ((tabGet {} (getCore s.blk d).tin i).count + x.count) 0xFFFF ∧
        (tabGet {} (getCore b d).tin i).ovf =
          ((tabGet {} (getCore s.blk d).tin i).ovf || decide ((tabGet {} (getCore s.blk d).tin i).count + x.count > 0xFFFF))) ∧
    (∀ (m : Fin 16) x r, takeFirst (fun x : MeshCredit => x.sender == d.val && x.receiver == src.val && x.mbox == m.val)
        s.blk.col.meshCredit = some (x, r) → x.flits ≠ 0 →
      Answers (.creditReturn d src m) s fun b =>
        b.col.meshCredit = r ∧
        if creditOf (getCore s.blk d) src m = 0 ∧ (getCore s.blk d).credits.length ≥ 32 then
          (getCore b d).discardedGrants = (getCore s.blk d).discardedGrants + 1 ∧
          (getCore b d).lostCredit.contains (src.val, m.val) = true ∧ (getCore b d).credits = (getCore s.blk d).credits
        else (getCore b d).credits = addCredit (getCore s.blk d).credits src m x.flits))

/-- Table 3.10, R63, R64, R72: events, the core timer, DMA requests, FENCE and READY.
Choices of the model: log entries 61, 65, 67. -/
def Obligations.EventInstructionResults : Prop :=
  ∀ (c : Fin 512),
    (∀ (a d : Fin 32) (i : Nat) (s : State), coreReady s.blk c →
      firstInput (getCore s.blk c) (gGet (getCore s.blk c) a) = some i →
      Answers (.waite c a d) s fun b =>
        (∃ n, getCore b c = afterCycles (nextPc (gPut (getCore s.blk c) d (BitVec.ofNat 64 i))) (getCore s.blk c) n) ∧
        onlyCore c [coreCounter c 2] s.blk b) ∧
    (∀ (i : Fin 64) (d : Fin 32), Executes (.take c i d) c (fun _ => True) fun k =>
      let x := tabGet {} k.tin i
      nextPc (gPut { k with tin := tabPut k.tin i { x with count := x.count - 1 } } d (BitVec.ofNat 64 x.count))) ∧
    (∀ (i : Fin 64) (d : Fin 32), Executes (.evrd c i d) c (fun _ => True) fun k =>
      nextPc (gPut k d (BitVec.ofNat 64 ((tabGet {} k.tin i).count + 65536 * bit (tabGet {} k.tin i).ovf)))) ∧
    (∀ i : Fin 64, Executes (.evclr c i) c (fun _ => True) fun k =>
      nextPc { k with tin := tabPut k.tin i { tabGet {} k.tin i with ovf := false } }) ∧
    (∀ (a : Fin 32) (s : State), coreReady s.blk c →
      Answers (.timer c a) s fun b =>
        (getCore b c).timerAt = (if (gGet (getCore s.blk c) a).toNat = 0 then none
          else some ((getCore b c).cycle.toNat + (gGet (getCore s.blk c) a).toNat)) ∧
        (getCore b c).pc = (getCore s.blk c).pc + 4 ∧ onlyCore c [coreCounter c 2] s.blk b) ∧
    (∀ (s : State) (n : Nat), coreRuns s.blk c = true → (getCore s.blk c).timerAt = some n →
      Answers (.coreTimerExpiry c) s fun b =>
        (getCore b c).timerAt = none ∧
        (tabGet {} (getCore b c).tin 26).count = min ((tabGet {} (getCore s.blk c).tin 26).count + 1) 0xFFFF) ∧
    (∀ (q : Fin 8) (a e d : Fin 32) (s : State) (t : Tile), coreReady s.blk c →
      (tabGet {} (getCore s.blk c).dma q).busy = false → coreTile s.blk c = some t →
      let k := getCore s.blk c
      let r : DmaQ := { busy := true, dst := (gGet k a).toNat, off := (gGet k e).toNat, len := (gGet k d).toNat,
                        data := recBytes t (gGet k e).toNat (gGet k d).toNat }
      dmaOk t r.dst r.off r.len = true →
      Answers (.dmard c q a e d) s fun b =>
        (∃ n, getCore b c = afterCycles (nextPc { k with dma := tabPut k.dma q r }) k n) ∧ onlyCore c [coreCounter c 2] s.blk b) ∧
    (∀ (q : Fin 8) (s : State), (tabGet {} (getCore s.blk c).dma q).busy = true →
      let k := getCore s.blk c
      let r := tabGet {} k.dma q
      Answers (.dmardComplete c q) s fun b =>
        (getCore b c).sram = memPutBytes k.sram r.dst r.data ∧
        (tabGet {} (getCore b c).dma q).busy = false ∧
        (tabGet {} (getCore b c).tin (16 + q)).count = min ((tabGet {} k.tin (16 + q)).count + 1) 0xFFFF) ∧
    (Executes (.fence c) c (fun b => (getCore b c).dma.any (fun x => x.2.busy) = false) nextPc) ∧
    (∀ s : State, coreReady s.blk c → Answers (.ready c) s fun b =>
      (getCore b c).readyDone = true ∧ (getCore b c).pc = (getCore s.blk c).pc + 4 ∧
      ∀ d, d ≠ c.val → getCore b d = getCore s.blk d)

/-- Table 3.12, R64, R74, R76, R81, R82: how a tile ends on a core that runs a default program, and what ends an
instruction otherwise: an illegal instruction or an address outside the map is a program fault.
Choices of the model: log entries 61, 65, 66. -/
def Obligations.CoreTileEnds : Prop :=
  ∀ (c : Fin 512),
    Executes (.tdone c) c (fun b => (getCore b c).tile = none) nextPc ∧
    (∀ (s : State) (id : Nat) (t : Tile) (v : Verdict), coreReady s.blk c → (getCore s.blk c).progSlot < 8 →
      (getCore s.blk c).tile = some id → (getCore s.blk c).tdone = false → findTile s.blk.ver.tiles id = some t →
      t.purpose = .first → (getCore s.blk c).evOvf = false → (getCore s.blk c).trimAtTdone = false →
      tallySum (getCore s.blk c).tally = t.hdr.subM * t.hdr.subN → tallyVerdict (getCore s.blk c).tally = v →
      v = .pass ∨ v = .passBounded →
      Answers (.tdone c) s fun b =>
        (∃ u, findTile b.ver.tiles id = some u ∧ u.phase = .final ∧ u.verdict = some v ∧ u.cause = .none ∧ u.freed = true ∧
          u.note.notMatch = tallyBad (getCore s.blk c).tally) ∧
        (getCore b c).tile = none ∧ (getCore b c).tally = {}) ∧
    (∀ (s : State) (id : Nat) (t : Tile), (getCore s.blk c).progSlot < 8 → (getCore s.blk c).tile = some id →
      findTile s.blk.ver.tiles id = some t → t.purpose = .first ∨ t.purpose = .recollate → (getCore s.blk c).tdone = false →
      (getCore s.blk c).tileStart.toNat + slotLimit s.blk (clusterOf c) (getCore s.blk c).progSlot < (getCore s.blk c).cycle.toNat →
      Answers (.tileCycleLimit c) s fun b =>
        (∃ u, findTile b.ver.tiles id = some u ∧ u.phase = .final ∧ u.verdict = some .skipped ∧ u.cause = .tileBudget ∧
          u.attempts = t.attempts + 1) ∧
        (getCore b c).tile = none ∧ leafBit b .colv 4 = true) ∧
    (∀ (s : State), coreReady s.blk c → (getCore s.blk c).progSlot < 8 → (getCore s.blk c).tile = none → ∀ w,
      let gone (i : Instr) : Prop := Answers i s fun b =>
        leafBit b .col 2 = true ∧ getCore b c = { freshCore s.blk c with cycle := (getCore b c).cycle, margin := (getCore b c).margin } ∧
        tabGet 0 b.obs.counters (coreCounter c 3) = tabGet 0 s.blk.obs.counters (coreCounter c 3) + 1
      gone (.scalarInstruction c (.illegal w)) ∧ gone (.vectorInstruction c (.illegal w)))

/-- R82-R85, R366, Tables 3.12 and 3.15: errors of a core's SRAM, the end of a specimen, trims by software and automatic trims.
The word written is the word held; a 1 written to an automatic trim clears it and starts the core's specimen.
Choices of the model: log entries 67, 73, 153, 170. -/
def Obligations.CoreErrorsAndTrims : Prop :=
  (∀ (c : Fin 512) (s : State),
    (Answers (.sramEccError c false) s fun b =>
      (getCore b c).corrEcc = (getCore s.blk c).corrEcc + 1 ∧
      ((getCore b c).margin.head?.map fun r => r.event) = some 0x09 ∧ (∀ d, d ≠ c.val → getCore b d = getCore s.blk d)) ∧
    ((getCore s.blk c).progSlot < 8 → (getCore s.blk c).tile = none →
      (recent600 s.blk (getCore s.blk c).coreFaults).length < 2 →
      Answers (.sramEccError c true) s fun b =>
        leafBit b .col 3 = true ∧ (getCore b c).specimen = true ∧ (getCore b c).sram = [] ∧ (getCore b c).xacc = [] ∧
        (getCore b c).coreFaults = recent600 s.blk (getCore s.blk c).coreFaults ++ [nowNs s.blk]) ∧
    ((getCore s.blk c).specimen = true → (getCore s.blk c).progSlot < 8 → s.blk.fw.specTurn = [] →
      ∀ v first bad,
      (specPassed (getCore s.blk c).specWant v first bad = true → Answers (.coreSpecimenComplete c ⟨v, first, bad⟩) s fun b =>
        (getCore b c).specimen = false ∧ b.fw.specRuns = s.blk.fw.specRuns + 1 ∧ b.fw.specFails = s.blk.fw.specFails ∧
        b.col.autoTrim = s.blk.col.autoTrim) ∧
      (specPassed (getCore s.blk c).specWant v first bad = false → Answers (.coreSpecimenComplete c ⟨v, first, bad⟩) s fun b =>
        (getCore b c).specimen = false ∧ b.fw.specRuns = s.blk.fw.specRuns + 1 ∧ b.fw.specFails = s.blk.fw.specFails + 1 ∧
        tabBit b.col.autoTrim c = true ∧ leafBit b .col 4 = true))) ∧
  (∀ (s : State) (pf : Fin 4) (row : Fin 16) (v : W32), s.blk.ident.adminPf = pf.val →
    (Answers (.colTrimWrite pf row v) s fun b => tabGet 0 b.col.trim row = v) ∧
    (Answers (.colAutotrimWrite pf row v) s fun b =>
      tabGet 0 b.col.autoTrim row = tabGet 0 s.blk.col.autoTrim row &&& ~~~v) ∧
    (∀ (c : Fin 512) (id : Nat) (t : Tile), (getCore s.blk c).trimAtTdone = true → (getCore s.blk c).tile = some id →
      (getCore s.blk c).progSlot < 8 → findTile s.blk.ver.tiles id = some t → t.purpose = .first →
      (getCore s.blk c).trimAskedAt + 1000000 ≤ nowNs s.blk →
      Answers (.trimWithdrawTimeout c) s fun b =>
        (getCore b c).trimAtTdone = false ∧ (getCore b c).tile = none ∧
        ∃ u, findTile b.ver.tiles id = some u ∧ u.phase = .queued ∧ u.running = [] ∧ u.priority = true))

/-- R71, R77, R79, R80, R95: the dispatcher gives the next tile to an idle instance; which one is open.  A program is loaded,
cleared when it is not ready in time, and drained when it is unloaded.
Choices of the model: log entries 70, 73, 74, 153, 154, 155. -/
def Obligations.DispatchAndPrograms : Prop :=
  ∀ (s : State),
    (∀ t, s.blk.col.dispatchEn = true → (untrimmed s.blk).isEmpty = false → nextTile s.blk = some t →
      Answers .tileDispatch s fun b => ∃ o, o ∈ tilePlaces s.blk t ∧
        b.out = s.blk.out ++ [.dispatch o t.hdr.tenant.val t.id] ∧
        (∃ u, findTile b.ver.tiles t.id = some u ∧ u.running = instCores s.blk o ∧ u.everDispatched = true ∧
          (u.phase = .dispatched ∨ u.phase = .confirming)) ∧
        ∀ c ∈ instCores s.blk o, (getCore b c).tile = some t.id ∧ (getCore b c).tally = {}) ∧
    (∀ (iss : Issuer) (p : ProgLoadP), fromCreator s.blk iss = true → p.rsv = false → 8 ≤ p.slot → p.slot ≤ 63 →
      (p.action = 0 → (getPslot s.blk p.slot).state = .empty → imageSigned p.image (getPslot s.blk p.slot).minSvn = true →
        imageOk p.image p.length = true → freeRects s.blk (readImage p.image) ≠ [] →
        Answers (.collateProgramLoad iss p) s fun b =>
          (getPslot b p.slot).state = .loading ∧ (getPslot b p.slot).image = readImage p.image ∧
          (getPslot b p.slot).tenant = iss.tenant.val ∧ (getPslot b p.slot).origins = freeRects s.blk (readImage p.image) ∧
          (getPslot b p.slot).loadIss = some iss) ∧
      (p.action = 1 → (getPslot s.blk p.slot).state = .active → (getPslot s.blk p.slot).tenant = iss.tenant.val →
        Answers (.collateProgramLoad iss p) s fun b =>
          (getPslot b p.slot).state = .draining ∧ Replied iss 0x0302 stOk s.blk b)) ∧
    (∀ (n : Fin 64) iss, (getPslot s.blk n).state = .loading → (getPslot s.blk n).loadStart + 10000000 ≤ nowNs s.blk →
      (getPslot s.blk n).loadIss = some iss →
      Answers (.programReadyTimeout n) s fun b =>
        getPslot b n = { minSvn := (getPslot s.blk n).minSvn } ∧ Replied iss 0x0302 stTimeout s.blk b ∧ leafBit b .col 1 = true) ∧
    (∀ n : Fin 64, (getPslot s.blk n).state = .draining →
      ((getPslot s.blk n).origins.any fun o => (instCores s.blk o).any fun c => (getCore s.blk c).tile.isSome) = false →
      Answers (.slotDrainComplete n) s fun b => getPslot b n = { minSvn := (getPslot s.blk n).minSvn })

/-- R94, R97, R100, R101, R103, R106, R108, R109: tile records and notices as they arrive, the interval's close and its
deadline, the policy of a tenant and the read of its verdicts. Choices of the model: log entries 71, 72, 153, 155. -/
def Obligations.RecordsAndVerdicts : Prop :=
  ∀ (s : State),
    (∀ (n : Fin 16) (h : TileHdr) (data : List Byte) (t : Nat), slotTenant? s.blk n = some t →
      let hd := ownHdr s.blk t n h
      lateRecord s.blk t n hd.gathering = false →
      tabGet 0 (getSlot s.blk n).editionCopy hd.domain.val = hd.edition → judgeable hd.strict hd.tap = true →
      (untrimmed s.blk).isEmpty = false → queueFull s.blk t hd.recLen = false →
      Answers (.tileRecordReceived n h data) s fun b =>
        b.ver.tiles = s.blk.ver.tiles ++ [{ hdr := hd, data := data, id := s.blk.ver.nextId }] ∧
        b.ver.nextId = s.blk.ver.nextId + 1 ∧
        tabGet 0 b.obs.counters (slotCounter n 2) = tabGet 0 s.blk.obs.counters (slotCounter n 2) + 1) ∧
    (∀ (n : Fin 16) (h : TileHdr) (data : List Byte) (t : Nat), slotTenant? s.blk n = some t →
      lateRecord s.blk t n (ownHdr s.blk t n h).gathering = true →
      Answers (.tileRecordReceived n h data) s fun b =>
        b.ver.tiles = s.blk.ver.tiles ∧ b.ver.lateCount = s.blk.ver.lateCount + 1 ∧ leafBit b .colv 6 = true) ∧
    (∀ (n : Fin 16) (v : TileVoid) (t : Nat), slotTenant? s.blk n = some t →
      let hd := ownHdr s.blk t n
        { sampleTime := stamp48 (nowNs s.blk), step := v.step, tapSeq := v.tapSeq, edition := v.edition, domain := v.domain, tap := { unit := v.unit, runSeq := v.runSeq } }
      lateRecord s.blk t n hd.gathering = false → isSeal v.cause = false →
      (getG s.blk t hd.gathering).deadlinePassed = false → hd.tenant.val = t → findTile s.blk.ver.tiles s.blk.ver.nextId = none →
      Answers (.tileVoidReceived n v) s fun b =>
        ∃ u, findTile b.ver.tiles s.blk.ver.nextId = some u ∧ u.hdr = hd ∧ u.phase = .unresolved ∧ u.verdict = some .void ∧
          u.cause = v.cause) ∧
    (∀ (n : Fin 16) (g t : Nat), slotTenant? s.blk n = some t → hasG s.blk t g = true →
      Answers (.intervalCloseReceived n g) s fun b => n.val ∈ (getG b t g).markers) ∧
    (∀ (t : Fin 1024) (n : Nat), hasG s.blk t n = true → (getG s.blk t n).deadlinePassed = false →
      (getG s.blk t n).rolledBack = false → (getG s.blk t n).startTime + s.blk.ver.waitMs * 1000000 ≤ nowNs s.blk →
      (s.blk.ver.tiles.any fun x => ofInterval t n x && !tileFinal x) = false →
      Answers (.verdictDeadline t n) s fun b =>
        (getG b t n).deadlinePassed = true ∧ b.ver.tiles = s.blk.ver.tiles ∧
        (getG b t n).verdictCounts = [Verdict.pass, .passBounded, .fail, .void, .skipped].map (verdictCount s.blk t n)) ∧
    (∀ (iss : Issuer) (p : PolicySetP), fromCreator s.blk iss = true → policyOk s.blk p (getTen s.blk iss.tenant) = true →
      p.mask.getLsbD 6 = false →
      Answers (.collatePolicySet iss p) s fun b =>
        getTen b iss.tenant = applyPolicy p (getTen s.blk iss.tenant) ∧ Replied iss 0x0301 stOk s.blk b) ∧
    (∀ (iss : Issuer) (p : VerdictReadP), fromTenant s.blk iss = true → p.rsv = false → p.filter.toNat ≤ 2 →
      p.bufLen % 32 = 0 → p.dest % 32 = 0 → verdictsGone s.blk iss.tenant p.gathering = false →
      let hits := (s.blk.ver.tiles.filter fun x => ofInterval iss.tenant p.gathering x && filterHas p.filter.toNat x).drop p.first
      let some' := hits.take (p.bufLen / 32)
      Answers (.collateVerdictRead iss p) s fun b =>
        (some' ≠ [] → b.out = s.blk.out ++ [.hostWrite iss.pf.val p.dest (some'.flatMap verdictRecord)]) ∧
        (some' = [] → b.out = s.blk.out) ∧ Replied iss 0x0303 stOk s.blk b ∧
        b.host.done.getLast?.map (fun r => r.r0) = some (BitVec.ofNat 64 some'.length))


/-! ## Sentinels (chapters 4 and 9) -/

/-- R88-R93, R184, R235-R238, R243: what a sentinel answers to a tap descriptor (not declared or refused, status 2; not chosen,
status 0; chosen, the fetch is queued), and what the completions of its reads bring: bytes of a page, a whole page, the last
block of a tile whose seal matches, and a read that fails or is late. Choices of the model: log entries 75, 76, 80, 164. -/
def Obligations.TapsAndReads : Prop :=
  (∀ (n : Fin 16) (s : State) (tag : W16) (t : TapDesc),
    let x := getSn s.blk n
    let seq := x.tapSeq + 1
    let runs := Answers (.tapPost n .none tag t) s
    (x.decl = none → runs fun b => b = { s.blk with out := s.blk.out ++ [.hinge n (.tapDone tag 0 2)] }) ∧
    (∀ d, x.decl = some d → 256 ≤ x.tapOut ∨ tapOk t = false → runs fun b =>
      getSn b n = { x with tapSeq := seq, cntPosted := x.cntPosted + 1, cntRefused := x.cntRefused + 1 } ∧
      Sent s.blk b (.hinge n (.tapDone tag seq 2))) ∧
    (∀ d, x.decl = some d → x.tapOut < 256 → tapOk t = true → nthD none x.rates t.cls.toNat = none → runs fun b =>
      getSn b n = { x with tapSeq := seq, cntPosted := x.cntPosted + 1 } ∧ Sent s.blk b (.hinge n (.tapDone tag seq 0))) ∧
    (∀ d j, x.decl = some d → x.tapOut < 256 → tapOk t = true → nthD none x.rates t.cls.toNat = some j →
      Config.draw x.seed x.draws % 2 ^ j ≠ 0 → runs fun b =>
      getSn b n = { x with tapSeq := seq, cntPosted := x.cntPosted + 1, draws := x.draws + 1 } ∧
      Sent s.blk b (.hinge n (.tapDone tag seq 0))) ∧
    (∀ d j, x.decl = some d → x.tapOut < 256 → tapOk t = true → nthD none x.rates t.cls.toNat = some j →
      Config.draw x.seed x.draws % 2 ^ j = 0 → outFmtOk (readAcc t.accDesc).outFmt = true → runs fun b =>
      (getSn b n).tapSeq = seq ∧ (getSn b n).tapOut = x.tapOut + 1 ∧ (getSn b n).cntSampled = x.cntSampled + 1 ∧
      ∃ f ∈ (getSn b n).fetches, f.tag = tag ∧ f.hdr.tapSeq = seq ∧ f.hdr.step = x.step ∧ f.hdr.tap = t) ∧
    (∀ e, e ≠ .none → Answers (.tapPost n e tag t) s fun b =>
      getSn b n = { x with cntHingeDrop := x.cntHingeDrop + 1 } ∧ leafBit b (.sn n) 1 = true)) ∧
  (∀ (n : Fin 16) (s : State) (tag : W16) (q : HingeReq),
    let x := getSn s.blk n
    (x.reqs.find? fun y => y.tag == tag) = some q →
    (∀ (r : PageRead) rest (data : List Byte), q.use = .page → x.pageReads = r :: rest → data ≠ [] →
      (q.got + data.length < q.bytes → Answers (.cpl n .none tag q.got 0 data) s fun b =>
        (getSn b n).pageReads = { r with data := r.data ++ data } :: rest ∧ (getSn b n).copied = x.copied) ∧
      (q.got + data.length = q.bytes → 65536 ≤ r.data.length + data.length → r.discard = false →
        Answers (.cpl n .none tag q.got 0 data) s fun b =>
          (r.region, r.page) ∈ (getSn b n).copied ∧
          ∃ p ∈ (getSn b n).pushBuf, p.region = r.region ∧ p.page = r.page ∧ p.urgent = r.urgent ∧
            p.data = r.data ++ data)) ∧
    (∀ (f : Fetch) rest (k : TileBlock) (data : List Byte), q.use = .tile → x.fetches = f :: rest → f.cur = some k →
      f.todo = [] → f.discard = false → data ≠ [] → q.got + data.length = q.bytes →
      let k1 := feedBlock k (q.addr + q.got) data
      blockNext k1 = none → sealOk k1 = true → x.tetherUp = true → urgentFirst x = false → f.lost = false →
      x.shipQ = [.fetching f.hdr.tapSeq] →
      Answers (.cpl n .none tag q.got 0 data) s fun b =>
        Sent s.blk b (.hinge n (.tapDone f.tag f.hdr.tapSeq 1)) ∧
        Sent s.blk b (.toGlt n (.tileRecord f.hdr (recordData { f with cur := none, done := f.done ++ [k1] })))) ∧
    (∀ (f : Fetch) rest st data, q.use = .tile → x.fetches = f :: rest → f.discard = false → st ≠ 0 →
      let failed (b : Block) : Prop :=
        (getSn b n).cntSealFail = x.cntSealFail + 1 ∧ leafBit b (.sn n) 3 = true ∧
        Sent s.blk b (.hinge n (.tapDone f.tag f.hdr.tapSeq 3)) ∧ Sent s.blk b (.toGlt n (.report (.fetch f.hdr.tap.unit)))
      Answers (.cpl n .none tag q.got st data) s failed ∧
      (q.at' + 1000000 ≤ nowNs s.blk → Answers (.mrdTimeout n tag) s failed)) ∧
    (∀ (r : PageRead) rest, q.use = .page → x.pageReads = r :: rest → r.discard = false → q.at' + 1000000 ≤ nowNs s.blk →
      Answers (.mrdTimeout n tag) s fun b =>
        (r.region, r.page, readFailed x r.region r.page) ∈ (getSn b n).readFails ∧ (getSn b n).copied = x.copied ∧
        (readFailed x r.region r.page = 3 →
          Sent s.blk b (.toGlt n (.report (.pageRead (Fin.ofNat 64 r.region) r.page))))))

/-- R232-R234, R243, R246, R248-R253: the die's messages on the Hinge. Choices of the model: log entries 9, 92, 93, 94. -/
def Obligations.HingeMessages : Prop :=
  ∀ (n : Fin 16) (s : State),
    let x := getSn s.blk n
    let told (b : Block) (m : TetherMsg) : Prop := Sent s.blk b (.toGlt n m)
    (∀ tag d, snFirmware x = true → (declReason x d = 0 → Answers (.declare n .none tag d) s fun b =>
        (getSn b n).decl = some d ∧ (getSn b n).phase = .running ∧ Sent s.blk b (.hinge n (.declareAck true 0))) ∧
      (∀ k, declReason x d = k + 1 → Answers (.declare n .none tag d) s fun b =>
        getSn b n = x ∧ leafBit b (.sn n) 2 = true ∧ Sent s.blk b (.hinge n (.declareAck false (BitVec.ofNat 8 (k + 1)))))) ∧
    (∀ d, x.decl = some d →
      (∀ (e : Fin 256) busy u (p : W32),
        let old := tabGet {} x.engines e
        Answers (.heartbeat n .none e busy u p) s fun b =>
          (p ≠ old.progress ∨ busy = false ∨ old.busy = false →
            tabGet {} (getSn b n).engines e =
              { busy := busy, unit := u, progress := p, changedAt := nowNs s.blk, hung := false }) ∧
          (p = old.progress → busy = true → old.busy = true →
            tabGet {} (getSn b n).engines e =
              { busy := true, unit := u, progress := p, changedAt := old.changedAt, hung := old.hung }) ∧
          ∀ i, i ≠ e.val → tabGet {} (getSn b n).engines i = tabGet {} x.engines i) ∧
      (∀ (e : Fin 256) (c : Byte) pc arg,
        (c.toNat < 128 → Answers (.event n .none e c pc arg) s fun b =>
          (tabGet [] (getSn b n).margins e).head? =
            some { time := stamp48 (snNow s.blk n), event := c, pc := pc, arg := arg }) ∧
        (128 ≤ c.toNat → Answers (.event n .none e c pc arg) s fun b =>
          getSn b n = { x with cntHingeDrop := x.cntHingeDrop + 1 } ∧ leafBit b (.sn n) 1 = true)) ∧
      (∀ ns, (x.reachWait = true → Answers (.holdAck n .none ns) s fun b =>
          (getSn b n).reachWait = false ∧ (getSn b n).holdLast = BitVec.ofNat 32 (snNow s.blk n - x.raisedAt) ∧
          told b (.note (.holdAck (snNow s.blk n - x.raisedAt)))) ∧
        (x.reachWait = false → Answers (.holdAck n .none ns) s fun b => b = s.blk)) ∧
      (∀ u fence, Answers (.trimAck n .none u fence) s fun b =>
        (getSn b n).trimWait = x.trimWait.filter (fun y => !(y.1 == u.toNat && y.2.1 == fence)) ∧
        told b (.note (.trimAck u fence))) ∧
      (∀ k : Fin 64, (k.val ∉ x.inReset → Answers (.resetNote n .none k true) s fun b =>
          k.val ∈ (getSn b n).inReset ∧ tabGet 0 (getSn b n).editions k = tabGet 0 x.editions k + 1 ∧
          (∀ i, i ≠ k.val → tabGet 0 (getSn b n).editions i = tabGet 0 x.editions i) ∧
          told b (.note (.edition k (tabGet 0 x.editions k + 1))) ∧
          ∀ u ∈ fencedIn x k, Sent s.blk b (.hinge n (.trimSet (BitVec.ofNat 12 u) true))) ∧
        Answers (.resetNote n .none k false) s fun b =>
          k.val ∉ (getSn b n).inReset ∧ (getSn b n).editions = x.editions ∧ told b (.note (.resetDone k))) ∧
      (∀ tag w rest, x.restore = w :: rest →
        (tag ∈ w.tags → Answers (.wack n .none tag) s fun b =>
          (getSn b n).restore = { w with tags := w.tags.erase tag } :: rest ∧
          (w.tags.erase tag = [] → Sent s.blk b (.hinge n (.mrd x.nextTag w.push.addr 4096)))) ∧
        (tag ∉ w.tags → Answers (.wack n .none tag) s fun b => b = s.blk)) ∧
      (∀ g round, x.tetherUp = false → Answers (.arrive n .none g round) s fun b =>
        told b (.arrive g round) ∧ b.tenants = s.blk.tenants) ∧
      (∀ (g : Fin 4) (round : W16) t k j, x.tetherUp = true → slotTenant? s.blk n = some t →
        slotRank? s.blk (getTen s.blk t) n = some k → barConfigured s.blk t g = true → k ∈ barLocal s.blk t g →
        (getBar s.blk t g).round % 65536 = round.toNat → (getBar s.blk t g).lap = {} → (getLink s.blk (8 + n)).slotPending = false →
        j ∈ barLocal s.blk t g → j ≠ k → j ∉ (getBar s.blk t g).arrived →
        Answers (.arrive n .none g round) s fun b =>
          told b (.arrive g round) ∧ (getBar b t g).arrived = withEntry (getBar s.blk t g).arrived k))

/-- R231, R232, R238, R244, R246-R248, R250, R255, Table 9.11: a sentinel's power, its links, its hold line and its
watches. Choices of the model: log entries 8, 93. -/
def Obligations.SentinelEvents : Prop :=
  ∀ (n : Fin 16) (s : State),
    let x := getSn s.blk n
    let told (b : Block) (m : TetherMsg) : Prop := Sent s.blk b (.toGlt n m)
    (x.powered = false → (getSlot s.blk n).pwren = true → Answers (.sentinelPor n) s fun b =>
      (getSn b n).powered = true ∧ (getSn b n).phase = .rom ∧ (getSn b n).decl = none ∧ (getSn b n).trimBits = [] ∧
      (getSn b n).editions = [] ∧ (getSn b n).margins = [] ∧ (getSn b n).fwMinSvn = x.fwMinSvn) ∧
    (Answers (.sentinelPowerLoss n) s fun b => getSn b n = freshSn x ∧ (getSlot b n).stale = true) ∧
    (∀ w r, x.powered = true → Answers (.ucieLinkUp n w r) s fun b =>
      (getSn b n).ucieWidth = w ∧ (getSn b n).ucieRate = r ∧ (getSn b n).decl = none ∧
      (snFirmware x = true → (getSn b n).phase = .waitDeclare) ∧ (∀ d, x.decl = some d → (getSn b n).lastDecl = some d)) ∧
    (Answers (.ucieLinkDown n) s fun b =>
      (getSn b n).ucieWidth = 0 ∧ (getSn b n).decl = none ∧ (getSn b n).fetches = [] ∧ (getSn b n).reqs = [] ∧
      (getSn b n).tapOut = 0 ∧ (getSn b n).copied = x.copied ∧ (getSn b n).armed = x.armed ∧
      (x.tetherUp = true → urgentFirst x = false → x.shipQ = x.fetches.map (fun f => SnItem.fetching f.hdr.tapSeq) →
        (∀ f ∈ x.fetches, f.lost = false) → ∀ f ∈ x.fetches, told b (.tileVoid (voidOf f.hdr .clockAccel)))) ∧
    (∀ t, (x.holdPending.find? fun u => decide (u ≤ snNow s.blk n)) = some t → x.sntHold = false → Answers (.sntHoldRaise n) s fun b =>
      (getSn b n).sntHold = true ∧ (getSn b n).raisedAt = snNow s.blk n ∧
      (getSn b n).holdPending = x.holdPending.filter (fun u => decide (snNow s.blk n < u)) ∧
      (getSn b n).holdTime = some t ∧ (x.tetherUp = true → x.shipQ = [] → urgentFirst x = false → told b (.note (holdMarkOf x)))) ∧
    (∀ t, x.releaseDue = some t → t ≤ snNow s.blk n → Answers (.sntHoldLower n) s fun b =>
      (getSn b n).sntHold = false ∧ (getSn b n).releaseDue = none ∧ (x.sntHold = true → (getSn b n).reachWait = false)) ∧
    (∀ d, x.decl = some d → x.reachWait = true → x.raisedAt + d.holdReach + 5000 ≤ snNow s.blk n →
      Answers (.reachTimeout n) s fun b =>
        (getSn b n).holdLast = 0xFFFFFFFF ∧ (getSn b n).reachWait = false ∧ leafBit b (.sn n) 6 = true ∧
        told b (.report .reach)) ∧
    (x.powered = true → x.holdOnLossEn = true → x.tetherUp = false → x.tetherDownAt + 100000000 ≤ nowNs s.blk →
      Answers (.holdOnLoss n) s fun b => (getSn b n).sntHold = true ∧ (getSn b n).releaseDue = none) ∧
    (∀ t : Ns, x.tetherUp = true → (getLink s.blk (8 + n)).width = 4 → Answers (.sentinelTimeExchange n t) s fun b =>
      getSn b n = { x with timeSkew := (t : Int) - nowNs s.blk } ∧ snNow b n = t) ∧
    (∀ e : Fin 256, let g := tabGet {} x.engines e
      x.hangEn = true → g.busy = true → g.hung = false → x.sntHold = false → g.unit.toNat ∉ x.trimBits →
      g.changedAt + x.hangLimitMs * 1000000 ≤ nowNs s.blk → Answers (.hangDetect n e) s fun b =>
        tabGet {} (getSn b n).engines e = { g with hung := true } ∧ leafBit b (.sn n) 5 = true ∧
        told b (.report (.hang g.unit e))) ∧
    (∀ (u : BitVec 12) fence at', (x.trimWait.find? fun y => y.1 == u.toNat) = some (u.toNat, fence, at') →
      at' + 1000000 ≤ nowNs s.blk → Answers (.trimAckTimeout n u) s fun b =>
        (getSn b n).trimBits = x.trimBits ∧ leafBit b (.sn n) 7 = true ∧ told b (.report (.trim u))) ∧
    (∀ t i, x.fwSwitchAt = some t → x.fwSecond = some i → t ≤ snNow s.blk n → Answers (.sentinelFwSwitch n) s fun b =>
      (getSn b n).fwImage = i ∧ (getSn b n).fwSecond = none ∧ (getSn b n).fwBank = !x.fwBank) ∧
    (∀ (d : Fin 8) (r : Int), Answers (.sentinelThermal n d r) s fun b =>
      nthD 0 (getSn b n).temps d = r ∧
      (x.powered = true → 400 ≤ r → leafBit b (.sn n) 9 = true ∧ told b (.report .thermal)))


/-! ## Control cells and rings (chapter 5) -/

/-- R113, R120-R123, R126: the first copy of a control cell in order of SEQ is handed to its handler, a later copy is dropped and
counted, one beyond a missing cell waits; reserved cells, censuses, folds and unfolds, and a folded hop's own times.
Choices of the model: log entries 40, 41, 42, 44, 157. -/
def Obligations.CellsRingsAndFolds : Prop :=
  (∀ (s : State) (p : Fin 8) (h : CellHdr) (body : CellBody) (stamp : Nat) (i : Instr),
    exec i s = act s (receiveCell p h body stamp) → hasSeq h body = true →
    let hop := getHop s.blk (portHop p)
    (nextCell s.blk p h → Answers i s fun b => b = onCell p h body stamp (afterSeq s.blk p h)) ∧
    (hop.rxAny = true → seqAhead hop h.seq = 0 ∨ 32768 ≤ seqAhead hop h.seq → Answers i s fun b =>
      b.spine.hops = s.blk.spine.hops ∧ b.spine.dupCount = s.blk.spine.dupCount + 1 ∧
      tabGet 0 b.obs.counters (portCounter p 11) = tabGet 0 s.blk.obs.counters (portCounter p 11) + 1) ∧
    (hop.rxAny = true → 1 < seqAhead hop h.seq → seqAhead hop h.seq < 32768 →
      (∀ w ∈ hop.waiting, w.hdr.seq ≠ h.seq) → Answers i s fun b =>
      b = setHop s.blk (portHop p) { hop with waiting := hop.waiting ++ [{ port := p, hdr := h, body := body, stamp := stamp }] })) ∧
  (∀ (s : State),
    (∀ (p : Fin 8) frame, Answers (.reservedCell p frame) s fun b =>
      b.spine.dropCount = s.blk.spine.dropCount + 1 ∧ leafBit b .sp 9 = true ∧
      tabGet 0 b.obs.counters (portCounter p 10) = tabGet 0 s.blk.obs.counters (portCounter p 10) + 1) ∧
    (∀ (p : Fin 8) (h : CellHdr), nextCell s.blk p h → ringMember s.blk h.level = true → portRing s.blk p = h.level.val →
      let k := h.level.val
      (∀ map e, h.lap2 = false → map.getLsbD (memberNo k (ownPlace s.blk)) = false → hopUsable s.blk (eastHop k) = true →
        Answers (.census p h map e) s fun b =>
          CellSent s.blk b (eastHop k) { level := h.level } (.census (putBit map (memberNo k (ownPlace s.blk)) true) e) ∧
          b.spine.rings = s.blk.spine.rings) ∧
      (∀ map e, h.lap2 = true → ¬((getRing s.blk k).map = map ∧ (getRing s.blk k).epoch = e) →
        Answers (.census p h map e) s fun b =>
          (getRing b k).map = map ∧ (getRing b k).epoch = e ∧ (getRing b k).member = true ∧
          (getRing b k).present = (setBits 64 map.toNat).length) ∧
      (∀ gap : Fin 64, Answers (.fold p ⟨h, gap⟩) s fun b => (getRing b k).folded = true ∧ (getRing b k).gap = some gap.val) ∧
      (∀ gap : Fin 64, gap.val ≠ memberNo k (ownPlace s.blk) → hopUsable s.blk (eastHop k) = true → Answers (.fold p ⟨h, gap⟩) s fun b =>
        CellSent s.blk b (eastHop k) { level := h.level, lap2 := h.lap2 || isHead s.blk k } (.fold gap)) ∧
      (∀ t (gap : Fin 64), h.lap2 = true → gap.val ≠ memberNo k (ownPlace s.blk) → hopUsable s.blk (eastHop k) = true →
        Answers (.unfold p ⟨h, gap⟩ t) s fun b =>
          (getRing b k).gap ≠ some gap.val ∧
          CellSent s.blk b (eastHop k) { level := h.level, lap2 := true } (.unfold 0 gap) ∧
          (isHead s.blk k = true → ∃ hd, Queued s.blk b (hopPort s.blk (eastHop k)) (.cell hd (.census
            (BitVec.ofNat 64 (2 ^ memberNo k (ownPlace s.blk))) ((getRing s.blk k).epoch + 1)))
            (.cell (hopPort s.blk (eastHop k)) hd (.census
              (BitVec.ofNat 64 (2 ^ memberNo k (ownPlace s.blk))) ((getRing s.blk k).epoch + 1)))))) ∧
    (∀ (p : Fin 8) (h : CellHdr) t (gap : Fin 64), h.lap2 = false → (getHop s.blk (portHop p)).folded = true →
      let hop := getHop s.blk (portHop p)
      let mine := Nat.max t (nowNs s.blk + 1000000)
      let hd : CellHdr := { level := Fin.ofNat 4 (hopRing s.blk (portHop p)) }
      (t = 0 → Answers (.unfold p ⟨h, gap⟩ t) s fun b =>
        (getHop b (portHop p)).unfoldAt = none ∧ (getHop b (portHop p)).unfoldOffer = none) ∧
      (t ≠ 0 → foldIsHeld s.blk (portHop p) = true → Answers (.unfold p ⟨h, gap⟩ t) s fun b => b = s.blk) ∧
      (∀ o, t ≠ 0 → foldIsHeld s.blk (portHop p) = false → hop.unfoldOffer = some o → Answers (.unfold p ⟨h, gap⟩ t) s fun b =>
        (getHop b (portHop p)).unfoldAt = some (Nat.max t o)) ∧
      (t ≠ 0 → foldIsHeld s.blk (portHop p) = false → hop.unfoldOffer = none → Answers (.unfold p ⟨h, gap⟩ t) s fun b =>
        (getHop b (portHop p)).unfoldAt = some mine ∧
        Queued s.blk b p (.cell hd (.unfold mine 0)) (.cell p hd (.unfold mine 0)))) ∧
    (∀ (h : Fin 4), (getHop s.blk h).folded = true → foldIsHeld s.blk h = false →
      (∀ p, (getHop s.blk h).unfoldOffer = none → (hopPorts h).find? (goodFor10 s.blk) = some p →
        let t := nowNs s.blk + 1000000
        let hd : CellHdr := { level := Fin.ofNat 4 (hopRing s.blk h) }
        Answers (.unfoldCleanTimer h) s fun b =>
          (getHop b h).unfoldOffer = some t ∧ Queued s.blk b p (.cell hd (.unfold t 0)) (.cell p hd (.unfold t 0))) ∧
      (∀ t, (getHop s.blk h).unfoldAt = some t → t ≤ nowNs s.blk → Answers (.unfoldAt h) s fun b =>
        (getHop b h).folded = false ∧ (getHop b h).unfoldAt = none)))

/-- R124-R127, Table 5.13: grades, failover, its window, failback and SP_CTRL.
Choices of the model: log entries 40, 43, 56, 157, 163. -/
def Obligations.RailsAndFailover : Prop :=
  ∀ (s : State),
    (∀ (p : Fin 8) ber, (getPort s.blk p).state = .active ∨ (getPort s.blk p).state = .standby →
      (getPort s.blk p).lastUncorr = none → (Answers (.railGradeUpdate p ber false) s fun b =>
          (getPort b p).grade = if ber < 1000000 then .good else .marginal) ∧
        (hopPort s.blk (portHop p) ≠ p.val → (getHop s.blk (portHop p)).folded = false → (getPort s.blk p).grade ≠ .failed →
          Answers (.railGradeUpdate p ber true) s fun b => (getPort b p).grade = .failed ∧ leafBit b .sp 4 = true) ∧
        (∀ h : CellHdr, (getPort s.blk p).selftest = true → (getPort s.blk p).state = .standby → Answers (.selftest p h ber) s fun b =>
          (getPort b p).grade = if ber < 1000000 then .good else .marginal)) ∧
    (∀ (p : Fin 8) hd, let h := portHop p
      (getHop s.blk h).folded = false →
      (hopPort s.blk h = p.val → (getHop s.blk h).failoverSent = true → Answers (.failover p ⟨hd, none⟩) s fun b =>
        (getHop b h).dualUntil = none ∧ (getHop b h).failoverSent = false ∧ hopPort b h = p.val) ∧
      (hopPort s.blk h ≠ p.val → standbyOk s.blk h = true → Answers (.failover p ⟨hd, none⟩) s fun b =>
        hopPort b h = p.val ∧ (getPort b p).state = .active ∧ leafBit b .sp 3 = true) ∧
      (∀ t o, (getHop s.blk h).railB = true → s.blk.spine.failbackAuto = true → (getHop s.blk h).failbackOffer = some o →
        Answers (.failover p ⟨hd, some t⟩) s fun b => (getHop b h).failbackAt = some (Nat.max t o)) ∧
      (∀ (pf : Fin 4), s.blk.ident.adminPf = pf.val → standbyOk s.blk h = true → Answers (.spForceOther pf p) s fun b =>
        hopPort b h = otherPort s.blk h ∧ (getPort b (otherPort s.blk h)).state = .active ∧ leafBit b .sp 3 = true ∧
        (getHop b h).dualUntil = some (nowNs s.blk + 20000) ∧ ∃ hdr, Queued s.blk b (otherPort s.blk h) (.cell hdr (.failover none)) (.cell (otherPort s.blk h) hdr (.failover none)))) ∧
    (∀ (pf : Fin 4) v, s.blk.ident.adminPf = pf.val → Answers (.spCtrlWrite pf v) s fun b =>
      b.spine.enable = v.getLsbD 0 ∧ b.spine.failoverAuto = v.getLsbD 1 ∧ b.spine.failbackAuto = v.getLsbD 2 ∧
      b.spine.unfoldAuto = v.getLsbD 3) ∧
    (∀ (h : Fin 4) t, (getHop s.blk h).dualUntil = some t → t ≤ nowNs s.blk →
      ((getHop s.blk h).waiting = [] → Answers (.dualWindowExpiry h) s fun b =>
        (getHop b h).dualUntil = none ∧ (getHop b h).folded = (getHop s.blk h).folded) ∧
      ((getHop s.blk h).waiting ≠ [] → Answers (.dualWindowExpiry h) s fun b =>
        (getHop b h).dualUntil = none ∧ (getHop b h).folded = true)) ∧
    (∀ (h : Fin 4), s.blk.spine.failbackAuto = true → (getHop s.blk h).railB = true → (getHop s.blk h).folded = false →
      (getHop s.blk h).dualUntil = none → (getHop s.blk h).failbackOffer = none →
      (getPort s.blk (hopRail h false)).state = .standby → goodFor10 s.blk (hopRail h false) = true →
      let t := nowNs s.blk + 1000000
      let hd : CellHdr := { level := Fin.ofNat 4 (hopRing s.blk h) }
      Answers (.failbackTimer h) s fun b => (getHop b h).failbackOffer = some t ∧
        Queued s.blk b (hopRail h false) (.cell hd (.failover (some t))) (.cell (hopRail h false) hd (.failover (some t)))) ∧
    (∀ (h : Fin 4) t, (getHop s.blk h).failbackAt = some t → t ≤ nowNs s.blk → (getHop s.blk h).railB = true →
      (getHop s.blk h).folded = false → standbyOk s.blk h = true → Answers (.failbackAt h) s fun b =>
        (getHop b h).railB = false ∧ (getHop b h).failbackAt = none)


/-! ## Collectives (chapter 5) -/

/-- R128-R135, R150: a post waits for the tray's other ranks; on a GLT that is the only member the round closes at once;
partials pass a member that serves no rank; the second lap completes the posts; a lap that waits too long goes on with ABORT.
Choices of the model: log entries 44, 46, 173. -/
def Obligations.Reductions : Prop :=
  ∀ (s : State),
    (∀ (iss : Issuer) (p : ReducePostP), let t := iss.tenant.val
      let n := tabGet 0 (getChan s.blk t).nextPost p.rank
      let vals := (p.operands ++ [0, 0, 0, 0]).take (p.count1.toNat + 1)
      fromTenant s.blk iss = true → postOk p = true → p.chan = 0xFF → tenantHeld s.blk t = false → (getChan s.blk t).rounds = [] →
      roundEnded (getChan s.blk t) n = false →
      p.rank ∈ localRanks s.blk (getTen s.blk t) →
      (∀ j, j ∈ localRanks s.blk (getTen s.blk t) → j ≠ p.rank → uplinkLevel s.blk = none →
        Answers (.reducePost iss p) s fun b =>
          (findRound (getChan b t) n).posts = [{ rank := p.rank, iss := iss, op := p.op, ty := p.ty, count1 := p.count1,
                                                 operands := vals, resultAddr := p.resultAddr, at' := nowNs s.blk }] ∧
          tabGet 0 (getChan b t).nextPost p.rank = n + 1 ∧ b.host.done = s.blk.host.done) ∧
      ((getTen s.blk t).places.length = 1 → loneMember s.blk → p.op ≠ 6 → Answers (.reducePost iss p) s fun b =>
        Replied iss 0x0402 stOk s.blk b ∧
        Sent s.blk b (.hostWrite iss.pf p.resultAddr (redBlock s.blk
          { round := n % 65536, tenant := iss.tenant, op := p.op, ty := p.ty, count1 := p.count1, count := 1, values := vals })))) ∧
    (∀ (p : Fin 8) (h : CellHdr) (x : RedBody) n, nextCell s.blk p h → h.level = 0 → h.abort = false → h.lap2 = false → plainMember s.blk →
      x.count1.toNat < 2 → roundOf (getChan s.blk h.chan.toNat) x.round = some n →
      (h.chan.toNat < 1024 → (getChan s.blk h.chan.toNat).rounds = [] → localRanks s.blk (getTen s.blk h.chan.toNat) = [] →
        Answers (.reduce p h x) s fun b => CellSent s.blk b 1 { chan := h.chan, abort := x.shape } (.reduce x)) ∧
      (1024 ≤ h.chan.toNat → Answers (.reduceX p h x) s fun b => CellSent s.blk b 1 { chan := h.chan } (.reduceX x))) ∧
    (∀ (p : Fin 8) (h : CellHdr) (x : RedBody) (r : RedRound) (q : RedPost), nextCell s.blk p h → h.level = 0 → h.lap2 = true → h.abort = false →
      plainMember s.blk → x.count1.toNat < 2 → roundOf (getChan s.blk h.chan.toNat) x.round = some r.round →
      (getChan s.blk h.chan.toNat).rounds = [r] → r.posts = [q] →
      let done (b : Block) : Prop := Replied q.iss 0x0402 stOk s.blk b ∧
        Sent s.blk b (.hostWrite q.iss.pf q.resultAddr (redBlock s.blk x)) ∧ (getChan b h.chan.toNat).rounds = []
      (h.chan.toNat < 1024 → localRanks s.blk (getTen s.blk h.chan.toNat) ≠ [] → Answers (.reduce p h x) s done) ∧
      (1024 ≤ h.chan.toNat → Answers (.reduceX p h x) s done)) ∧
    (∀ (c : BitVec 11) (r : RedRound) (hd : CellHdr) (x : RedBody) t, c.toNat < 1024 → plainMember s.blk → (getChan s.blk c.toNat).rounds = [r] →
      r.waitSince = some t → t + redTimeoutNs s.blk ≤ nowNs s.blk → r.lap = { waiting := [(hd, x)] } → hd.level = 0 →
      x.count1.toNat < 2 → Answers (.redTimeout c r.round) s fun b =>
        CellSent s.blk b 1 { chan := c, abort := true } (.reduce { x with timeout := true })) ∧
    (∀ (c : BitVec 11) (r : RedRound) (q : RedPost), (getChan s.blk c.toNat).rounds = [r] → r.posts = [q] → r.lap.waiting = [] →
      q.at' + 2 * redTimeoutNs s.blk ≤ nowNs s.blk → Answers (.redWatchdog c r.round) s fun b =>
        ∃ b1, Replied q.iss 0x0402 stTimeout s.blk b1 ∧ leafBit b1 .sp 6 = true ∧ (getChan b1 c.toNat).rounds = [] ∧
          let tray := silentTray b1 (participants (getTen b1 (chanTenant s.blk c.toNat)))
          b = if tray = 0 then b1 else fileReport b1 .spineSilent tray false)

/-- R136-R140, R151: barrier groups are set and removed, arrivals are counted once, partials pass a tray without a member,
the second lap brings T_r, and at T_r the arrivals complete and the next round begins.
Choices of the model: log entries 47, 173. -/
def Obligations.Barriers : Prop :=
  ∀ (s : State),
    (∀ (iss : Issuer) (p : BarrierArmP), let t := iss.tenant.val
      let g := p.group
      p.rsv = false → p.group ≤ 3 →
      (isPf iss = true → iss.pf.val = (getTen s.blk t).creatingPf → g ≠ 0 → barBusy s.blk t g = false →
        (p.action = 0 → within 1 32768 p.membersLen = true → (∀ k ∈ p.members, k < (getTen s.blk t).ranks) →
          Answers (.barrierArm iss p) s fun b =>
            (getBar b t g).configured = true ∧ (getBar b t g).members = p.members ∧ Replied iss 0x0401 stOk s.blk b) ∧
        (p.action = 2 → Answers (.barrierArm iss p) s fun b =>
            (getBar b t g).configured = false ∧ (getBar b t g).members = [] ∧ Replied iss 0x0401 stOk s.blk b)) ∧
      (∀ j, p.action = 1 → fromTenant s.blk iss = true → p.resultAddr % 16 = 0 → p.rank ∈ barLocal s.blk t g →
        tenantHeld s.blk t = false → (getBar s.blk t g).lap = {} → uplinkLevel s.blk = none → j ∈ barLocal s.blk t g → j ≠ p.rank →
        j ∉ (getBar s.blk t g).arrived → Answers (.barrierArm iss p) s fun b =>
          (getBar b t g).arrived = withEntry (getBar s.blk t g).arrived p.rank ∧
          (getBar b t g).arriveIss = (getBar s.blk t g).arriveIss ++ [(p.rank, iss, p.resultAddr)] ∧
          b.host.done = s.blk.host.done)) ∧
    (∀ (p : Fin 8) (h : CellHdr) (x : BarBody), let t := x.tenant.val
      let g := h.group.val
      nextCell s.blk p h → h.level = 0 → h.abort = false → plainMember s.blk → (getTen s.blk t).exists' = true →
      x.round = (getBar s.blk t g).round % 65536 → (getBar s.blk t g).lap = {} → (getBar s.blk t g).release = none →
      (h.lap2 = false → localRanks s.blk (getTen s.blk t) = [] → isParticipant s.blk (getTen s.blk t) = false →
        Answers (.barrier p h x) s fun b => CellSent s.blk b 1 { chan := BitVec.ofNat 11 t, group := h.group } (.barrier x)) ∧
      (h.lap2 = true → barLocal s.blk t g ≠ [] → nowNs s.blk < x.release → Answers (.barrier p h x) s fun b =>
        (getBar b t g).release = some x.release ∧ (getBar b t g).round = (getBar s.blk t g).round)) ∧
    (∀ (t : Fin 1024) (g : Fin 4) tr k iss addr, let bar := getBar s.blk t g
      bar.release = some tr → tr ≤ nowNs s.blk → bar.withheld = false → heldBack (getTen s.blk t).hold tr = false →
      bar.early = [] → bar.arriveIss = [(k, iss, addr)] → barLocal s.blk t g ≠ [] → uplinkLevel s.blk = none →
      g ≠ 0 ∨ (getTen s.blk t).s = 0 →
      let step := if g = 0 then (getTen s.blk t).step + 1 else (getTen s.blk t).step
      Answers (.barrierRelease t g) s fun b =>
        (getBar b t g).round = bar.round + 1 ∧ (getBar b t g).arrived = [] ∧ (getBar b t g).release = none ∧
        (getTen b t).step = step ∧ Replied iss 0x0401 stOk s.blk b ∧
        Sent s.blk b (.hostWrite iss.pf addr (arriveBlock t bar.round (if g = 0 then step else 0) tr)))

/-- R15, R141-R144, R152: sew votes: a pass is posted when this GLT can pass, a lap waits for this GLT's vote, a fail vote
ends the round, SEWN makes the gathering sewn; SEW_VOTE reads a vote or vetoes it.
Choices of the model: log entries 44, 160. -/
def Obligations.SewVotes : Prop :=
  ∀ (s : State),
    (∀ (t : Fin 1024) n rest, unposted s.blk t = n :: rest → isParticipant s.blk (getTen s.blk t) = true →
      prevEnded s.blk t n = true → (getG s.blk t n).failDue = false → canPass s.blk t n = true → plainMember s.blk →
      (getG s.blk t n).lap = {} → Answers (.sewVotePost t) s fun b => (getG b t n).localVote = .pass) ∧
    (∀ (p : Fin 8) (h : CellHdr) (x : VoteBody), let t := h.chan.toNat % 1024
      let n := x.gathering
      nextCell s.blk p h → h.level = 0 → plainMember s.blk →
      (h.abort = false → h.lap2 = false → (getTen s.blk t).exists' = false → Answers (.vote p h x) s fun b =>
        CellSent s.blk b 1 h (.vote x)) ∧
      (h.abort = false → h.lap2 = false → (getTen s.blk t).exists' = true → isParticipant s.blk (getTen s.blk t) = true →
        (getG s.blk t n).localVote = .notPosted → (getG s.blk t n).lap = {} → Answers (.vote p h x) s fun b =>
        (getG b t n).lap = { waiting := [(h, x)] } ∧ b.out = s.blk.out) ∧
      (h.abort = true → isParticipant s.blk (getTen s.blk t) = true → hasG s.blk t n = true →
        (getG s.blk t n).round = .pending → (getG s.blk t n).rolledBack = false → Answers (.vote p h x) s fun b =>
        (getG b t n).round = .failed ∧ (getG b t n).phase = .failed) ∧
      (isParticipant s.blk (getTen s.blk t) = true → hasG s.blk t n = true → (getG s.blk t n).rolledBack = false →
        (getG s.blk t n).round ≠ .sewn → (getTen s.blk t).coldEvery = 0 → (getTen s.blk t).rec'.candidates = [] →
        (getBar s.blk t 0).lap = {} → Answers (.sewn p h x) s fun b =>
        (getG b t n).round = .sewn ∧ (getG b t n).completion = x.completion ∧ (getG b t n).tag = x.tag ∧
        (getTen b t).lastSewn = Nat.max (getTen s.blk t).lastSewn n)) ∧
    (∀ (iss : Issuer) (p : SewVoteP), let t := iss.tenant.val
      p.rsv = false →
      (p.action = 0 → fromTenant s.blk iss = true → p.resultAddr % 32 = 0 → hasG s.blk t p.gathering = true →
        Answers (.sewVote iss p) s fun b =>
          Replied iss 0x0403 stOk s.blk b ∧
          Sent s.blk b (.hostWrite iss.pf p.resultAddr (voteBlock (getG s.blk t p.gathering)))) ∧
      (p.action = 1 → isPf iss = true → iss.pf.val = (getTen s.blk t).creatingPf → openGathering s.blk t = some p.gathering →
        (getG s.blk t p.gathering).round = .pending → (getG s.blk t p.gathering).rolledBack = false → isParticipant s.blk (getTen s.blk t) = true → (getG s.blk t p.gathering).localVote = .notPosted →
        (getG s.blk t p.gathering).lap = {} → plainMember s.blk → Answers (.sewVote iss p) s fun b =>
          (getG b t p.gathering).localVote = .vetoed ∧ (getG b t p.gathering).round = .failed ∧
          Replied iss 0x0403 stOk s.blk b))


/-- R112, R145, R146, R153: a broadcast goes out with the next stream number and completes once every target has acknowledged it;
a target forwards it, checks its trailer, writes it and answers. Choices of the model: log entries 44, 45, 156, 159, 162. -/
def Obligations.Broadcasts : Prop :=
  ∀ (s : State), s.blk.spine.bcastWait = [] →
    (∀ (iss : Issuer) (p : BroadcastP), let t := iss.tenant.val
      let ty := FrameType.bcast { tenantOnly := true, use := .loadArea p.destOffset }
      p.scope = 0 → fromCreator s.blk iss = true → p.rsv = false → p.sourceKind = 0 → p.source % 64 = 0 → p.length % 64 = 0 →
      p.length ≤ 64 * gib → p.resultAddr % 16 = 0 → s.blk.spine.bcasts = [] →
      (tenantHeld s.blk t = true → Answers (.broadcast iss p) s fun b => b.spine = s.blk.spine ∧ Replied iss 0x0404 stHeld s.blk b) ∧
      (tenantHeld s.blk t = false →
        (Answers (.broadcast iss p) s fun b =>
          b.spine.nextStream = s.blk.spine.nextStream + 1 ∧
          (uplinkLevel s.blk = none → hopUsable s.blk 1 = true → nextMember s.blk 0 true ≠ placeTray (ownPlace s.blk) → ∀ g,
            cutFrames ty (frameOf s.blk iss.tenant (tenantScope s.blk t) s.blk.spine.nextStream) p.hostBytes = [g] →
            FrameSent s.blk b 1 ty g)) ∧
        (∀ b1, writeLoad s.blk t p.destOffset p.hostBytes = some b1 → participants (getTen s.blk t) = [ownPlace s.blk] →
          Answers (.broadcast iss p) s fun b => b.bd = b1.bd ∧ b.spine.bcasts = [] ∧ Replied iss 0x0404 stOk s.blk b))) ∧
    (∀ (p : Fin 8) (info : BcastInfo) (c : DataFrame), freshFrame s.blk p c → c.src ≠ ownPlace s.blk →
      (portHop p = 0 → uplinkLevel s.blk = none → hopUsable s.blk 1 = true → nextMember s.blk 0 true ≠ bcastEntry 0 (ownPlace s.blk) c.src →
        Answers (.bcast p info c) s fun b => FrameSent s.blk b 1 (.bcast info) c) ∧
      (bcastTarget s.blk info c = true → c.crc ≠ frameCrc (.bcast info) c → Answers (.bcast p info c) s fun b =>
        b.spine.dropCount = s.blk.spine.dropCount + 1 ∧ leafBit b .sp 9 = true ∧ b.bd = s.blk.bd) ∧
      (∀ off, bcastTarget s.blk info c = true → wholeFrame s.blk (.bcast info) c → info.use = .loadArea off →
        (∀ b1, writeLoad s.blk c.tenant off c.payload = some b1 → Answers (.bcast p info c) s fun b =>
          b.bd = b1.bd ∧ TransferSent s.blk b .bcastAck c.tenant c.src c.stream [0]) ∧
        (writeLoad s.blk c.tenant off c.payload = none → Answers (.bcast p info c) s fun b =>
          b.bd = s.blk.bd ∧ TransferSent s.blk b .bcastAck c.tenant c.src c.stream [1]))) ∧
    (∀ (x : BcastSrc), s.blk.spine.bcasts = [x] →
      (∀ (p : Fin 8) (c : DataFrame), arrives s.blk p .bcastAck c → c.stream = x.stream → c.src ∈ x.expected →
        (nthD 0 c.payload 0 = 0 → (∀ q ∈ x.expected, q = c.src ∨ q ∈ x.acked) → x.isCommand = true →
          Answers (.bcastAck p c.toFrameHdr c.toFrameBody) s fun b =>
            b.spine.bcasts = [] ∧ Replied x.iss 0x0404 stOk s.blk b ∧
            Sent s.blk b (.hostWrite x.iss.pf x.resultAddr (bcastBlock s.blk { x with acked := withEntry x.acked c.src }))) ∧
        (nthD 0 c.payload 0 ≠ 0 → c.src ∉ x.acked → Answers (.bcastAck p c.toFrameHdr c.toFrameBody) s fun b =>
          b.spine.bcasts = [{ x with nacked := withEntry x.nacked c.src }] ∧ b.host.done = s.blk.host.done)) ∧
      (x.deadline ≤ nowNs s.blk → x.isCommand = true → Answers (.bcastTimeout x.stream) s fun b =>
        ∃ b1, Replied x.iss 0x0404 stTimeout s.blk b1 ∧ b1.spine.bcasts = [] ∧
          b = each (x.expected.filter fun q => !x.acked.contains q && !x.nacked.contains q)
            (fun q b => fileReport b .spineSilent q false) b1))

/-! ## Spine time (chapter 6) -/

/-- R155-R160, R175, R176: reads, loads, rate and phase of the counter.  An immediate load waits for the next tick.  After a load
every scheduled action whose time has passed fires (R172): `fireOverdue`. Choices of the model: log entries 23, 51. -/
def Obligations.TimeCounter : Prop :=
  ∀ (s : State),
    let x := s.blk.time
    let loaded (b : Block) : Prop := ∃ b1, b = fireOverdue b1 ∧ b1.time.sec = x.setSec ∧ b1.time.nsec = x.setNsec.toNat ∧
      b1.time.frac = BitVec.ofNat 32 (x.setSub.toNat * 65536) ∧ b1.time.stepCount = x.stepCount + 1 ∧ b1.time.adjRem = 0 ∧
      b1.time.loadPending = false ∧ leafBit b1 .st 7 = true
    (∀ r, Answers (.stNsecRead r) s fun b =>
      (getShadow b r).sec = x.sec ∧ (getShadow b r).sub = x.frac.extractLsb' 16 16 ∧ (getShadow b r).ppsHi = (getShadow s.blk r).ppsHi) ∧
    (∀ (pf : Fin 4) v, s.blk.ident.adminPf = pf.val → v.getLsbD 2 = false → x.setNsec.toNat ≤ 999999999 →
      (v.getLsbD 1 = false → Answers (.stLoad pf v) s fun b =>
        b.time.loadNow = some (stagedTime s.blk, none) ∧ counter b = counter s.blk ∧
        (∀ u iss, x.loadNow = some (u, some iss) → Replied iss 0x0701 stWithdrawn s.blk b)) ∧
      (v.getLsbD 1 = true → Answers (.stLoad pf v) s fun b => b.time.loadPending = true ∧ counter b = counter s.blk)) ∧
    (∀ (pf : Fin 4) v, s.blk.ident.adminPf = pf.val → v.getLsbD 0 = false →
      Answers (.stCancel pf v) s fun b => b.time.loadPending = false ∧ b.time.loadNow = none ∧ counter b = counter s.blk ∧
        (∀ iss, x.loadIss = some iss → x.loadNow = none → Replied iss 0x0701 stWithdrawn s.blk b) ∧
        (∀ u iss, x.loadIss = none → x.loadNow = some (u, some iss) → Replied iss 0x0701 stWithdrawn s.blk b)) ∧
    (timeRuns s.blk = true → x.loadPending = true → rollsOver s.blk = true → x.setNsec.toNat ≤ 999999999 →
      Answers .stBoundaryLoad s loaded) ∧
    (∀ (pf : Fin 4) (v : W64), s.blk.ident.adminPf = pf.val →
      (within incrLow incrHigh (field v 0 40) = true → Answers (.stIncrWrite pf 8 v) s fun b =>
        b.time.incr = BitVec.ofNat 40 (field v 0 40)) ∧
      (within incrLow incrHigh (field v 0 40) = false → Answers (.stIncrWrite pf 8 v) s fun b =>
        b.time.incr = x.incr ∧ leafBit b .st 0 = true) ∧
      (within incrLow incrHigh (field v 0 8 * 2 ^ 32 + x.incrLoHeld.toNat) = true → Answers (.stIncrWrite pf 4 v) s fun b =>
        b.time.incr = BitVec.ofNat 40 (field v 0 8 * 2 ^ 32 + x.incrLoHeld.toNat))) ∧
    (∀ (pf : Fin 4) (v : W32), s.blk.ident.adminPf = pf.val →
      (mayAdd s.blk v.toInt x.adjSpan = true → Answers (.stAdjWrite pf v) s fun b =>
        b.time.adjRem = x.adjRem + v.toInt * 2 ^ 32 ∧ b.time.spanLeft = x.adjSpan ∧ counter b = counter s.blk) ∧
      (mayAdd s.blk v.toInt x.adjSpan = false → Answers (.stAdjWrite pf v) s fun b =>
        b.time.adjRem = x.adjRem ∧ leafBit b .st 0 = true)) ∧
    (x.spanLeft = 1 → 0 ≤ (counter s.blk : Int) + x.adjRem → (counter s.blk : Int) + x.adjRem < 2 ^ 80 * (nsPerSec : Int) →
      Answers .slewComplete s fun b =>
        (counter b : Int) = (counter s.blk : Int) + x.adjRem ∧ b.time.adjRem = 0 ∧ b.time.spanLeft = 0 ∧ b.time.slewIss = [] ∧
        ∀ iss, x.slewIss = [iss] → Replied iss 0x0701 stOk s.blk b) ∧
    (∀ (iss : Issuer) (p : TimeSetP), isAdmin s.blk iss = true → p.rsv = false → x.state = .root →
      (p.action = 2 → nsPerSec ≤ p.nsec → Answers (.timeSet iss p) s fun b =>
        b.time = x ∧ Replied iss 0x0701 stBadParam s.blk b) ∧
      (p.action = 2 → p.nsec < nsPerSec → mayAdd s.blk p.adj p.span = true → Answers (.timeSet iss p) s fun b =>
        b.time.adjRem = x.adjRem + p.adj * 2 ^ 32 ∧ b.time.spanLeft = p.span ∧ b.time.slewIss = x.slewIss ++ [iss] ∧
        b.host.done = s.blk.host.done) ∧
      (liveTenants s.blk = [] → x.loadPending = false → p.nsec < nsPerSec →
        (p.action = 0 → x.loadNow = none → Answers (.timeSet iss p) s fun b =>
          b.time.loadNow =
            some (((BitVec.ofNat 48 p.sec).toNat * nsPerSec + p.nsec) * 65536 + p.sub.toNat, some iss) ∧
          counter b = counter s.blk ∧ b.host.done = s.blk.host.done) ∧
        (p.action = 1 → Answers (.timeSet iss p) s fun b =>
          b.time.loadPending = true ∧ b.time.loadIss = some iss ∧ counter b = counter s.blk ∧ b.host.done = s.blk.host.done)))

/-- R162-R167, Table 6.2: SYNC goes to the neighbours that take time from here and comes from the upstream; an exchange gives
offset and delay; the states follow. Choices of the model: log entry 50. -/
def Obligations.SyncExchanges : Prop :=
  ∀ (s : State),
    let x := s.blk.time
    (Answers .syncInterval s fun b =>
      b.time.syncSeen = false ∧ b.time.missedSync = (if x.syncSeen then 0 else x.missedSync + 1) ∧
      (∀ h : Fin 4, x.syncEn = true → hopUsable s.blk h = true → takesFromUs s.blk h = true →
        CellSent s.blk b h { level := Fin.ofNat 4 (hopRing s.blk h) } (.sync (syncBody s.blk))) ∧
      (x.state = .locked → x.syncSeen = false → 3 ≤ x.missedSync → b.time.state = .holdover ∧ leafBit b .st 3 = true)) ∧
    (∀ (p : Fin 8) (h : CellHdr), nextCell s.blk p h → x.syncEn = true →
      let hd : CellHdr := { level := Fin.ofNat 4 (hopRing s.blk (portHop p)) }
      (∀ (y : SyncBody) t2, x.upValid = true → x.upPort = p.val → Answers (.sync p h y t2) s fun b =>
        b.time.exchange = some { reqId := x.reqId, t1 := y.t1, t2 := t2, t3 := nowSub s.blk } ∧ b.time.syncSeen = true ∧
        b.time.depth = y.depth + 1 ∧ b.time.rootPlace = y.root ∧
        b.time.state = (if x.state = .locked then .locked else .acquiring) ∧
        CellSent s.blk b (portHop p) hd (.delayReq (nowSub s.blk) x.reqId)) ∧
      (∀ t3 id t4, Answers (.delayReq p h t3 id t4) s fun b => CellSent s.blk b (portHop p) hd (.delayResp t4 id))) ∧
    (∀ (p : Fin 8) (h : CellHdr) (e : Exchange) t4, nextCell s.blk p h → x.syncEn = true → x.exchange = some e → x.upValid = true → x.upPort = p.val →
      (∀ k, x.discard = k + 1 → Answers (.delayResp p h t4 e.reqId) s fun b =>
        b.time.discard = k ∧ b.time.offset = x.offset ∧ b.time.exchange = none) ∧
      (x.discard = 0 → x.followDue = false →
        let out : Int := (e.t2 : Int) - e.t1
        let home : Int := (t4 : Int) - e.t3
        let offset := (out - home) / 2 - tabGet 0 x.asym p
        Answers (.delayResp p h t4 e.reqId) s fun b =>
          b.time.offset = offset ∧ b.time.pdelay = BitVec.ofInt 32 ((out + home) / 2) ∧ b.time.exch = x.exch + 1 ∧
          (x.state = .acquiring → offset.natAbs ≤ 655360 → 15 ≤ x.goodRun → b.time.state = .locked) ∧
          (x.state = .locked → 1638400 < offset.natAbs → 3 ≤ x.badRun → b.time.state = .acquiring) ∧
          (x.state = .locked → offset.natAbs ≤ 1638400 → b.time.state = .locked))) ∧
    (x.state = .holdover → x.holdoverAt + x.holdoverLimitS * nsPerSec ≤ nowNs s.blk → Answers .holdoverLimit s fun b =>
      b.time.state = .freeRun ∧ leafBit b .st 4 = true)

/-- R169-R174, R177: timed cells, launches and the SYNC pins. Choices of the model: log entries 8, 52. -/
def Obligations.TimedEvents : Prop :=
  ∀ (s : State),
    let x := s.blk.time
    (∀ (p : Fin 8) h launch id pay arr, nextCell s.blk p h →
      (x.rxq.length < 16 → Answers (.timed p h launch id pay arr) s fun b =>
        b.time.rxq = x.rxq ++ [{ id := id, payload := pay, launch := launch, arrival := arr }] ∧
        ∀ pf : Fin 4, (getPf b pf).intPend.getLsbD 5 = true) ∧
      (16 ≤ x.rxq.length → Answers (.timed p h launch id pay arr) s fun b => b.time.rxq = x.rxq ∧ leafBit b .st 2 = true)) ∧
    (∀ pf : Fin 4, s.blk.ident.adminPf = pf.val →
      (Answers (.stTsqPop pf) s fun b => b = { s.blk with time := { x with tsq := x.tsq.drop 1 } }) ∧
      (Answers (.stRxqPop pf) s fun b => b = { s.blk with time := { x with rxq := x.rxq.drop 1 } })) ∧
    (∀ (iss : Issuer) (p : TimeLaunchP), isAdmin s.blk iss = true → p.rsv = false →
      (p.action = 0 → p.kind.toNat ≤ 2 → timeOk p.nsec p.sec = true → nowNs s.blk + 1000 ≤ secNs p.sec p.nsec →
        x.launches.length < 64 → Answers (.timeLaunch iss p) s fun b =>
          b = { s.blk with time := { x with launches := x.launches ++
            [{ iss := iss, kind := p.kind, port := p.port, stamp := p.stamp, id := p.id, at' := secNs p.sec p.nsec,
               payload := p.payload }] } }) ∧
      (p.action = 0 → p.kind.toNat ≤ 2 → timeOk p.nsec p.sec = true → secNs p.sec p.nsec < nowNs s.blk + 1000 →
        Answers (.timeLaunch iss p) s fun b => b.time = x ∧ Replied iss 0x0702 stRefused s.blk b) ∧
      (∀ y, p.action = 1 → (x.launches.find? fun z => z.id == p.id && z.iss.pf == iss.pf) = some y →
        Answers (.timeLaunch iss p) s fun b => b.time.launches = x.launches.erase y ∧
          ∃ b1, Replied y.iss 0x0702 stWithdrawn s.blk b1 ∧ Replied iss 0x0702 stOk b1 b)) ∧
    (∀ y : Launch, x.launches = [y] → y.at' ≤ nowNs s.blk →
      (y.kind = 0 → Answers .launchFire s fun b => b.time.launches = [] ∧ Replied y.iss 0x0702 stOk s.blk b ∧
        ∀ pf : Fin 4, (getPf b pf).intPend.getLsbD 5 = true) ∧
      (y.kind = 1 → x.ppsOutMode = 2 → Answers .launchFire s fun b => b.time.launches = [] ∧
        Replied y.iss 0x0702 stOk s.blk b ∧ b.time.syncOut = true ∧
        b.time.syncOutEnd = nowNs s.blk + x.ppsOutWidth * 1000000) ∧
      (y.kind = 2 → (getPort s.blk y.port).state = .active → tooClose s.blk y.port (nowNs s.blk) = false →
        y.stamp = true → x.tsq.length < 16 → Answers .launchFire s fun b =>
          CellSent s.blk b (portHop y.port) { level := Fin.ofNat 4 (hopRing s.blk (portHop y.port)) }
            (.timed (nowSub s.blk) y.id y.payload) ∧
          b.time.tsq = x.tsq ++ [{ id := y.id, port := y.port, stamp := nowSub s.blk }])) ∧
    (∀ stamp, x.ppsInEn = true →
      (x.ppsAny = false → Answers (.syncInEdge stamp) s fun b => b.time.ppsIn = stamp ∧ b.time.ppsAny = true ∧ b.time.ppsSince = stamp ∧
        (x.state = .root → x.ppsDiscipline = true → b.time.ext = true)) ∧
      (x.ppsAny = true → stamp - x.ppsIn < 900000000 * 65536 ∨ 1100000000 * 65536 < stamp - x.ppsIn → Answers (.syncInEdge stamp) s fun b =>
        b.time.ppsIn = x.ppsIn ∧ leafBit b .st 9 = true)) ∧
    (x.state = .root → x.ppsInEn = true ∨ x.ext = true → x.ppsSince + 2 * nsPerSec * 65536 ≤ nowSub s.blk → Answers .ppsMiss s fun b =>
      leafBit b .st 8 = true ∧ b.time.ext = false) ∧
    (x.ppsOutMode = 1 → sincePulse (counter s.blk) x.ppsOffset < tickIncr s.blk → Answers .syncOutPulse s fun b =>
      b.time.syncOut = true ∧ b.time.syncOutEnd = nowNs s.blk + x.ppsOutWidth * 1000000) ∧
    (x.syncOut = true → x.syncOutEnd ≤ nowNs s.blk → Answers .syncOutPulseEnd s fun b =>
      b = { s.blk with time := { x with syncOut := false } })


/-! ## Gathering (chapter 7) -/

/-- R93, R94, R178, R180, R184, R186, R188: a release at the sentinel, first-write requests, page pushes and their credits.
Choices of the model: log entries 75, 80. -/
def Obligations.GatheringAtTheSentinel : Prop :=
  ∀ (n : Fin 16) (s : State),
    let x := getSn s.blk n
    (∀ r : ReleaseMsg, (r.arm = false → Answers (.releaseMessage n r) s fun b =>
        getSn b n = (if r.group = 0 then { x with step := r.step } else x) ∧
        b.out = s.blk.out ++ [.hinge n (.release r.group false r.step r.gathering)]) ∧
      (r.arm = true → Answers (.releaseMessage n r) s fun b =>
        (getSn b n).armed = true ∧ (getSn b n).gathering = r.gathering ∧ (getSn b n).regions = r.regions ∧
        (getSn b n).copied = [] ∧ (r.group = 0 → (getSn b n).step = r.step) ∧
        Sent s.blk b (.hinge n (.release r.group true r.step r.gathering)) ∧
        (x.tetherUp = true → x.shipQ = [] → x.fetches = [] → urgentFirst x = false → Sent s.blk b (.toGlt n (.intervalClose r.gathering))))) ∧
    (∀ tag addr, (pageAt x.regions addr = none → Answers (.fwReq n .none tag addr) s fun b =>
        b = { s.blk with out := s.blk.out ++ [.hinge n (.fwGrant tag addr)] }) ∧
      (∀ r p d, pageAt x.regions addr = some (r, p) → x.decl = some d → uncopied x (r, p) = false →
        Answers (.fwReq n .none tag addr) s fun b => b = { s.blk with out := s.blk.out ++ [.hinge n (.fwGrant tag addr)] }) ∧
      (∀ r p d, pageAt x.regions addr = some (r, p) → x.decl = some d → uncopied x (r, p) = true →
        Answers (.fwReq n .none tag addr) s fun b =>
          ({ tag := tag, addr := addr, region := r, page := p, at' := nowNs s.blk } : FwWait) ∈ (getSn b n).fwWait ∧
          (getSlot b n).holds = (getSlot s.blk n).holds + 1 ∧
          tabGet 0 b.obs.counters (slotCounter n 10) = tabGet 0 s.blk.obs.counters (slotCounter n 10) + 1)) ∧
    (∀ p, x.tetherUp = true → nextPush x = some p → Answers (.pagePushStart n) s fun b =>
      (∃ m : PagePush, Sent s.blk b (.toGlt n (.pagePush m)) ∧ m.gathering = p.gathering ∧ m.region = Fin.ofNat 64 p.region ∧
        m.page = p.page ∧ m.urgent = p.urgent ∧ m.data = p.data ∧ m.crc = crc32c p.data ∧ m.edition = p.edition) ∧
      (getSn b n).urgentCredit = (if p.urgent then x.urgentCredit - 1 else x.urgentCredit) ∧
      (getSn b n).preCredit = (if p.urgent then x.preCredit else x.preCredit - 1)) ∧
    (∀ c : CreditMsg, Answers (.credit n c) s fun b =>
      (getSn b n).urgentCredit = x.urgentCredit + c.urgent ∧ (getSn b n).preCredit = x.preCredit + c.pre ∧
      (getSn b n).paceMBs = c.paceMBs ∧ (getSn b n).pregatherEn = c.pregatherEn)

/-- R190, R191, R194-R196, R199, R200: what a GLT does with page pushes and staged pages, with digests of other members, and
GATHER_ARM and GATHER_START. Choices of the model: log entry 81. -/
def Obligations.GatheringAtTheGlt : Prop :=
  ∀ (s : State),
    (∀ (n : Fin 16) (stream : W16) (p : PagePush), let x := getSlot s.blk n
      (pushStale x p = true → Answers (.pagePushReceived n stream p) s fun b =>
        b.gt.dropCount = s.blk.gt.dropCount + 1 ∧ leafBit b .gt 8 = true ∧ b.gt.staging = s.blk.gt.staging ∧
        Sent s.blk b (.toSentinel n (.ack .stale stream 0))) ∧
      (pushStale x p = false → (p.region.val, p.page) ∉ x.staged →
        (crc32c p.data = p.crc → Answers (.pagePushReceived n stream p) s fun b =>
          b.gt.staging = s.blk.gt.staging ++ [{ slot := n, tenant := x.tenant, gathering := x.gathering, region := p.region,
                                                page := p.page, data := p.data }] ∧
          (getSlot b n).staged = x.staged ++ [(p.region.val, p.page)] ∧ Sent s.blk b (.toSentinel n (.ack .ack stream 0))) ∧
        (crc32c p.data ≠ p.crc → crcFailed x p.region p.page < 3 → Answers (.pagePushReceived n stream p) s fun b =>
          b.gt.staging = s.blk.gt.staging ∧ (getSlot b n).staged = x.staged ∧ leafBit b .gt 9 = true ∧
          Sent s.blk b (.toSentinel n (.ack .nak stream 0))))) ∧
    (∀ (p : StagedPage) rest (w : SigWork) idx (e : Extent), s.blk.gt.staging = p :: rest → sigOfPage s.blk p = some w →
      let g := getG s.blk p.tenant p.gathering
      let k := p.page % (2 ^ g.sigShift / 65536)
      w.owned = true → g.bindStopped = false → g.noMap = false → sigIndex s.blk p.tenant g w = some idx →
      sigExtent s.blk p.tenant p.gathering (mkHandle p.tenant p.gathering idx) = some e →
      (tabPut w.digests k (sha256 p.data)).length ≠ w.pages → Answers .pageDigested s fun b =>
        b.gt.staging = rest ∧ (∃ y ∈ b.bd.extents, y.offset = e.offset ∧ y.bytes = patchBytes e.bytes (k * 65536) p.data) ∧
        ∃ v ∈ (getG b p.tenant p.gathering).sigs, isSig w v = true ∧ tabGet 0 v.digests k = sha256 p.data) ∧
    (∀ (p : Fin 8) (c : DataFrame), (freshFrame s.blk p c → trayOf c.dest = ownPlace s.blk → c.crc ≠ frameCrc .digest c →
        Answers (.digest p c.toFrameHdr c.payload c.crc) s fun b => b.spine.dropCount = s.blk.spine.dropCount + 1 ∧ b.tenants = s.blk.tenants) ∧
      (∀ (w : SigWork) d, let m := digestOf c.payload
        let t := c.tenant.val
        let n := handleGathering m.handle
        let g := getG s.blk t n
        arrives s.blk p .digest c → hasG s.blk t n = true → g.rolledBack = false → g.released = false → handleTenant m.handle = t →
        g.sigs = [w] → w.owned = true → sigIndex s.blk t g w = some (handleIndex m.handle) → sigRegion s.blk t w = some d →
        d.region = m.region → d.length = m.length → d.groupSize = m.groupSize → tabHas w.others m.member = false →
        w.others.length + 2 < w.groupSize → Answers (.digest p c.toFrameHdr c.payload c.crc) s fun b =>
          (getG b t n).sigs = [{ w with others := tabPut w.others m.member m.digest }])) ∧
    (∀ (t : Fin 1024) (h : W64) (w : SigWork), let n := handleGathering h
      let g := getG s.blk t n
      (g.sigs.find? fun w => w.owned && sigIndex s.blk t g w == some (handleIndex h)) = some w → w.digest.isSome = true →
      w.matched = false → w.others.length + 1 < w.groupSize → g.rolledBack = false → g.released = false →
      w.digestedAt + s.blk.gt.digestTimeoutMs * 1000000 ≤ nowNs s.blk → Answers (.digestTimeout t h) s fun b =>
        ∃ b1, leafBit b1 .gt 5 = true ∧ b1.tenants = s.blk.tenants ∧ b = failVote b1 t n false) ∧
    (∀ (iss : Issuer) (p : GatherArmP) m, let r := getTen s.blk iss.tenant
      let slot := placeSlot (nthD 0 r.places p.rank)
      fromCreator s.blk iss = true → p.rsv = false → p.rank ∈ localRanks s.blk r → notStarted r p.fromGathering = true →
      (getSn s.blk slot).decl.isSome = true → (getSlot s.blk slot).decl = some m → (p.action = 0 → within 1 64 p.count = true ∧ p.list.length = p.count ∧
        p.list.all (regionOk p.rank m) = true ∧ regionsApart p.list = true) → p.action.toNat ≤ 1 →
      Answers (.gatherArm iss p) s fun b => Replied iss 0x0501 stOk s.blk b ∧
        ({ slot := slot, from' := p.fromGathering, list := if p.action = 0 then p.list else [] } : PendList) ∈
          (getTen b iss.tenant).pendLists) ∧
    (∀ (iss : Issuer) (p : GatherStartP), let r := getTen s.blk iss.tenant
      fromCreator s.blk iss = true → p.rsv = false → r.started < p.gathering →
      (p.action = 0 → r.deepMark = 0 ∨ r.deepMark = p.gathering → Answers (.gatherStart iss p) s fun b =>
        (getTen b iss.tenant).deepMark = p.gathering ∧ Replied iss 0x0502 stOk s.blk b) ∧
      (p.action = 1 → Answers (.gatherStart iss p) s fun b =>
        (getTen b iss.tenant).deepMark = (if r.deepMark = p.gathering then 0 else r.deepMark) ∧
        Replied iss 0x0502 stOk s.blk b))


/-! ## Binding and restore (chapter 8) -/

/-- R112, R119, R210-R213: data frames go on toward their DEST, and one whose trailer fails there is dropped; a binding transfer is
applied once and acknowledged, sent again and given up; reads are answered, delivered and sent again.
Choices of the model: log entries 83, 159, 165, 177. -/
def Obligations.BindingTransfers : Prop :=
  ∀ (s : State),
    (∀ (p : Fin 8) (c : DataFrame) i ty, (i, ty) ∈ [(Instr.bindWrite p c, FrameType.bindWrite), (.bindRead p c, .bindRead),
        (.bindData p c, .bindData), (.digest p c.toFrameHdr c.payload c.crc, .digest), (.bcastAck p c.toFrameHdr c.toFrameBody, .bcastAck)] → freshFrame s.blk p c →
      (∀ h, trayOf c.dest ≠ ownPlace s.blk → nextHop s.blk (trayOf c.dest) = some h → hopUsable s.blk h = true →
        Answers i s fun b => FrameSent s.blk b h ty c ∧ b.bd = s.blk.bd ∧ b.tenants = s.blk.tenants) ∧
      (trayOf c.dest = ownPlace s.blk → c.crc ≠ frameCrc ty c → Answers i s fun b =>
        b.spine.dropCount = s.blk.spine.dropCount + 1 ∧ leafBit b .sp 9 = true ∧ b.bd = s.blk.bd ∧ b.tenants = s.blk.tenants)) ∧
    (∀ (p : Fin 8) (c : DataFrame), arrives s.blk p .bindWrite c →
      (xferOf c.payload c.tenant c.src (ownPlace s.blk) c.stream = none → Answers (.bindWrite p c) s fun b =>
        b.spine.dropCount = s.blk.spine.dropCount + 1 ∧ b.bd = s.blk.bd) ∧
      (∀ x, xferOf c.payload c.tenant c.src (ownPlace s.blk) c.stream = some x →
        let t := c.tenant.val
        let g := getG s.blk t x.gathering
        let seen := (c.src, c.stream) ∈ s.blk.bd.xfersSeen
        let acked (b : Block) : Prop := TransferSent s.blk b .bindData c.tenant c.src c.stream
          (xferBytes { kind := .ack, status := .ok, gathering := x.gathering, handle := x.handle })
        (seen → g.bindStopped = false → Answers (.bindWrite p c) s fun b =>
          acked b ∧ b.bd = s.blk.bd ∧ b.tenants = s.blk.tenants) ∧
        (¬seen → x.kind = .restorePush ∨ x.kind = .readReply ∨ x.kind = .ack → Answers (.bindWrite p c) s fun b =>
          acked b ∧ b.bd.xfersSeen = s.blk.bd.xfersSeen ++ [(c.src, c.stream)] ∧ b.bd.extents = s.blk.bd.extents) ∧
        (¬seen → x.kind = .parityIn → x.length = 0 → hasG s.blk t x.gathering = true → g.rolledBack = false →
          g.bindStopped = false → Answers (.bindWrite p c) s fun b =>
          acked b ∧ b.bd.xfersSeen = s.blk.bd.xfersSeen ++ [(c.src, c.stream)] ∧
          ∃ r ∈ (getG b t x.gathering).rowCounts, r.2 = (x.member, x.row)) ∧
        (∀ q, ¬seen → x.kind = .entries → isLead s.blk (getTen s.blk t) = true → sha256 x.bytes = x.digest →
          hasG s.blk t x.gathering = true → g.rolledBack = false → g.round = .pending → g.colophon = none →
          q ∈ participants (getTen s.blk t) → q ≠ c.src → (∀ y ∈ g.entries, y.1 ≠ q) → Answers (.bindWrite p c) s fun b =>
          acked b ∧ (getG b t x.gathering).entries =
            (g.entries.filter fun y => y.1 != c.src) ++ [(c.src, (entriesOf x).1, (entriesOf x).2)]))) ∧
    (∀ stream, ((s.blk.bd.xfersOut.find? fun y => y.x.stream == stream) = none → Answers (.bindXferTimeout stream) s fun b =>
        b.spine.partials = s.blk.spine.partials.filter (fun q => !partialStale s.blk stream q) ∧ b.bd = s.blk.bd) ∧
      (∀ (o : XferOut), (s.blk.bd.xfersOut.find? fun y => y.x.stream == stream) = some o →
        (nowNs s.blk < o.deadline → Answers (.bindXferTimeout stream) s fun b => b.bd = s.blk.bd ∧ b.out = s.blk.out) ∧
        (o.deadline ≤ nowNs s.blk → o.sent < 3 → Answers (.bindXferTimeout stream) s fun b =>
          TransferSent s.blk b .bindWrite o.x.tenant o.x.dest o.x.stream (xferBytes o.x) ∧
          ∃ y ∈ b.bd.xfersOut, y.x = o.x ∧ y.sent = o.sent + 1) ∧
        (o.deadline ≤ nowNs s.blk → 3 ≤ o.sent → Answers (.bindXferTimeout stream) s fun b =>
          b.bd.xfersOut = s.blk.bd.xfersOut.filter (fun y => y.x.stream != stream) ∧ b.out = s.blk.out))) ∧
    (∀ (p : Fin 8) (c : DataFrame), arrives s.blk p .bindRead c →
      let r := readOf c.payload c.tenant c.src
      let shape := r.offset % 65536 = 0 ∧ r.length % 65536 = 0 ∧ r.length ≤ 4 * gib
      let reply (st : XferStatus) (l : List Byte) (b : Block) : Prop :=
        TransferSent s.blk b .bindData c.tenant c.src r.replyStream
          (xferBytes { kind := .readReply, status := st, gathering := r.gathering, handle := r.handle, length := l.length,
                       digest := if l.isEmpty then 0 else listDigest (pageDigestsOf l), bytes := l })
      (¬shape ∨ readExtent s.blk r = none → Answers (.bindRead p c) s fun b =>
        reply .notPopulated [] b ∧ b.bd.reads = s.blk.bd.reads) ∧
      (∀ e, shape → readExtent s.blk r = some e →
        let bad := badIn e (r.offset - e.offset) (min r.length (e.length - (r.offset - e.offset)))
        (bad = [] → Answers (.bindRead p c) s fun b =>
          reply .ok (readBytes (extentImage e) (r.offset - e.offset) r.length) b ∧ b.bd.reads = s.blk.bd.reads + 1) ∧
        (bad ≠ [] → Answers (.bindRead p c) s fun b =>
          reply .lost [] b ∧ b.bd.reads = s.blk.bd.reads + 1 ∧ ∀ i ∈ bad, (e.offset, i) ∈ b.bd.repairDue))) ∧
    (∀ (p : Fin 8) (c : DataFrame) x, arrives s.blk p .bindData c →
      xferOf c.payload c.tenant c.src (ownPlace s.blk) c.stream = some x →
      (s.blk.bd.staleStreams.contains c.stream = true → Answers (.bindData p c) s fun b =>
        b.bd = { s.blk.bd with staleStreams := s.blk.bd.staleStreams.erase c.stream }) ∧
      (s.blk.bd.staleStreams.contains c.stream = false →
        (x.kind = .parityIn ∨ x.kind = .entries ∨ x.kind = .restorePush → Answers (.bindData p c) s fun b => b.bd = s.blk.bd) ∧
        (x.kind = .ack → Answers (.bindData p c) s fun b =>
          b.bd = { s.blk.bd with xfersOut := s.blk.bd.xfersOut.filter fun o => o.x.stream != c.stream }) ∧
        (x.kind = .readReply → (s.blk.bd.readsOut.find? fun o => o.req.replyStream == c.stream) = none →
          Answers (.bindData p c) s fun b => b.bd = s.blk.bd) ∧
        (∀ (o : ReadOut) (j : RestoreJob) d, x.kind = .readReply →
          (s.blk.bd.readsOut.find? fun o => o.req.replyStream == c.stream) = some o → replyEnd o x = .bytes x.bytes →
          digestIs x.bytes d.digest = true → o.use = .job j.id → s.blk.bd.jobs = [j] → j.cur = some d → j.action = 0 →
          j.group = false → j.page = 0 → j.tries = 0 → x.bytes ≠ [] → Answers (.bindData p c) s fun b =>
            let data := readBytes x.bytes 0 65536
            ∃ addr, Sent s.blk b (.toSentinel j.slot (.restorePush { addr := addr, crc := crc32c data, data := data }))))) ∧
    (∀ stream, ((s.blk.bd.readsOut.find? fun o => o.req.replyStream == stream) = none →
        Answers (.bindReadTimeout stream) s fun b => b = s.blk) ∧
      (∀ (o : ReadOut), (s.blk.bd.readsOut.find? fun o => o.req.replyStream == stream) = some o →
        (nowNs s.blk < o.deadline → Answers (.bindReadTimeout stream) s fun b => b = s.blk) ∧
        (o.deadline ≤ nowNs s.blk → o.tries < 3 → Answers (.bindReadTimeout stream) s fun b =>
          b.spine.nextStream = s.blk.spine.nextStream + 1 ∧
          TransferSent s.blk b .bindRead o.req.tenant o.dest s.blk.spine.nextStream
            (readPayload { o.req with replyStream := s.blk.spine.nextStream })) ∧
        (o.deadline ≤ nowNs s.blk → 3 ≤ o.tries → Answers (.bindReadTimeout stream) s fun b =>
          b = readDone (fileReport s.blk .spineSilent o.dest false) o .absent)))

/-- R214, R216, R228, R230: a participant's entries go to the lead, a colophon that is late fails the vote, a displaced binding is
freed; SEW and COLOPHON_READ. Choices of the model: log entries 82, 87, 159, 161. -/
def Obligations.BindingsAndColophons : Prop :=
  ∀ (s : State),
    (∀ (t : Fin 1024) g, ((getTen s.blk t).gatherings.find? fun g => decide (g.round = .pending) && !g.rolledBack &&
        !g.entriesSent && decide (g.localVote = .notPosted) && !g.bindStopped && !g.noMap) = some g → getG s.blk t g.n = g →
      isParticipant s.blk (getTen s.blk t) = true → g.countsSent = true → entriesReady s.blk t g.n = true →
      isLead s.blk (getTen s.blk t) = false → Answers (.entriesSend t) s fun b =>
        (getG b t g.n).entriesSent = true ∧ (getG b t g.n).phase = .signing ∧
        ∃ o : XferOut, b.bd.xfersOut = s.blk.bd.xfersOut ++ [o] ∧ o.x.kind = .entries ∧ o.x.gathering = g.n ∧
          o.x.dest = leadPlace (getTen s.blk t) ∧ o.x.row = (ownRegions s.blk t g.n).length ∧
          o.x.bytes = (ownRegions s.blk t g.n).flatMap regionEntryBytes ++
            (ownData s.blk t g.n ++ ownParity s.blk t g.n).flatMap dataEntryBytes ∧
          TransferSent s.blk b .bindWrite t o.x.dest o.x.stream (xferBytes o.x)) ∧
    (∀ (t : Fin 1024) g, ((getTen s.blk t).gatherings.find? fun g => decide (g.round = .pending) && !g.rolledBack &&
        g.entriesSent && g.colophon.isNone) = some g → isLead s.blk (getTen s.blk t) = true → g.localVote = .notPosted →
      g.failDue = false → g.entriesAt + s.blk.bd.colophonTimeoutMs * 1000000 ≤ nowNs s.blk →
      Answers (.colophonTimeout t) s fun b =>
        ∃ b1, leafBit b1 .bd 5 = true ∧ b1.tenants = s.blk.tenants ∧ b = failVote b1 t g.n false) ∧
    (∀ (t : Fin 1024) n, hasG s.blk t n = true → (getG s.blk t n).displaced = true → (getG s.blk t n).released = false →
      bindingBusy s.blk t n = false → Answers (.bindingFree t n) s fun b =>
        (getG b t n).released = true ∧ (∀ e ∈ b.bd.extents, ofGathering t n e = false) ∧
        ∀ e ∈ s.blk.bd.extents, ofGathering t n e = false → e ∈ b.bd.extents) ∧
    (∀ (iss : Issuer) (p : SewP), let r := getTen s.blk iss.tenant
      fromCreator s.blk iss = true → p.rsv = false →
      (p.action = 0 → sewPolicyOk s.blk p = true → notStarted r p.fromGathering = true → p.loadArea = r.loadAreaGib →
        Answers (.sew iss p) s fun b => (getTen b iss.tenant).retain = p.retain ∧
          (getTen b iss.tenant).pendPolicy =
            pendAt r.pendPolicy (fromStart r p.fromGathering, p.sigShift, p.k, p.m, p.coldEvery, p.protectRepl) ∧
          Replied iss 0x0503 stOk s.blk b) ∧
      (p.action = 1 → p.mapAddr % 16 = 0 → within 1 1048576 p.mapCount = true → p.map.length = p.mapCount → p.map.all mapEntryOk = true →
        mapDistinct p.map = true → notStarted r p.fromGathering = true → Answers (.sew iss p) s fun b =>
          (getTen b iss.tenant).pendMap = pendAt r.pendMap (fromStart r p.fromGathering, p.map) ∧ Replied iss 0x0503 stOk s.blk b) ∧
      (p.action = 2 → ((retained r).any fun g => g.n == p.gathering) = true → coldFree s.blk = true →
        Answers (.sew iss p) s fun b =>
          (∃ c, b.bd.cold = some c ∧ c.tenant = iss.tenant.val ∧ c.gathering = p.gathering ∧ c.drives = coldDrives s.blk) ∧
          Replied iss 0x0503 stOk s.blk b)) ∧
    (∀ (iss : Issuer) (p : ColophonReadP) c, fromTenant s.blk iss = true → p.rsv = false → p.offset % 64 = 0 →
      p.length % 64 = 0 → p.length ≤ gib → p.dest % 64 = 0 → colophonOf s.blk iss.tenant p.gathering = some c →
      p.offset ≤ (colophonBytes c).length →
      let l := ((colophonBytes c).drop p.offset).take p.length
      Answers (.colophonRead iss p) s fun b =>
        (l ≠ [] → b.out = s.blk.out ++ [.hostWrite iss.pf p.dest l]) ∧ Replied iss 0x0505 stOk s.blk b ∧
        (b.host.done.getLast?.map fun r => (r.r0, r.r1)) =
          some (BitVec.ofNat 64 l.length, BitVec.ofNat 64 (colophonBytes c).length))

/-- R218-R226, R229, R243: a restore takes each signature from the GLT that holds it, writes it page by page, and ends; NVMe
completions move a cold copy on. Choices of the model: log entries 84, 85, 161, 177. -/
def Obligations.Restores : Prop :=
  ∀ (s : State),
    let asks (t : Fin 1024) (d : DataEntry) (n : Nat) (b : Block) : Prop := ∃ r : BindReadReq,
      TransferSent s.blk b .bindRead t d.place r.replyStream (readPayload r) ∧ r.offset = d.offset ∧ r.length = d.length ∧
      r.gathering = n ∧ ∃ o ∈ b.bd.readsOut, o.req = r ∧ o.dest = d.place
    (∀ (iss : Issuer) (p : BindRestoreP) c, let t := iss.tenant.val
      let slot := placeSlot (nthD 0 (getTen s.blk t).places p.rank)
      (fromCreator s.blk iss = false → Answers (.bindRestore iss p) s fun b =>
        b.bd = s.blk.bd ∧ Replied iss 0x0504 stNotAuthorised s.blk b) ∧
      (fromCreator s.blk iss = true → p.rsv = true ∨ 3 < p.action.toNat ∨ p.resultAddr % 32 ≠ 0 →
        Answers (.bindRestore iss p) s fun b => b.bd = s.blk.bd ∧ Replied iss 0x0504 stBadParam s.blk b) ∧
      (fromCreator s.blk iss = true → p.rsv = false → p.action = 0 → p.resultAddr % 32 = 0 → p.gathering ≠ 0 →
      colophonOf s.blk t p.gathering = some c → p.rank ∈ localRanks s.blk (getTen s.blk t) → tenantHeld s.blk t = false →
      (getTen s.blk t).released0 = false → shapeOk s.blk t c (selected c p.rank p.classes) slot = true → s.blk.bd.jobs = [] →
      ((selected c p.rank p.classes).flatMap (regionSigs c) = [] → Answers (.bindRestore iss p) s fun b =>
        Replied iss 0x0504 stOk s.blk b ∧ b.bd.jobs = []) ∧
      (∀ d rest, (selected c p.rank p.classes).flatMap (regionSigs c) = d :: rest → p.group = false →
        d.place ≠ ownPlace s.blk → Answers (.bindRestore iss p) s fun b =>
          asks iss.tenant d p.gathering b ∧ b.host.done = s.blk.host.done)) ∧
      (fromCreator s.blk iss = true → p.rsv = false → p.action = 1 → p.resultAddr % 32 = 0 → p.gathering ≠ 0 →
        colophonOf s.blk t p.gathering = some c → BitVec.ofNat 40 p.target = ownPlace s.blk →
        placeLevel (BitVec.ofNat 40 p.place) = 2 → placeOk (BitVec.ofNat 40 p.place) = true → s.blk.bd.jobs = [] →
        (∀ d ∈ c.data ++ c.parity, d.place ≠ BitVec.ofNat 40 p.place) → Answers (.bindRestore iss p) s fun b =>
          Replied iss 0x0504 stOk s.blk b ∧ b.bd.jobs = [] ∧ ∃ l, Sent s.blk b (.hostWrite iss.pf p.resultAddr l)) ∧
      (∀ cc, fromCreator s.blk iss = true → p.rsv = false → p.action = 2 → p.resultAddr % 32 = 0 → p.gathering ≠ 0 →
        storedCopy s.blk t p.gathering = some cc → s.blk.bd.cold = none → s.blk.bd.jobs = [] → coldDrives s.blk ≠ [] →
        (getDom s.blk 19).inReset = false → (getDom s.blk 19).withdrawn = false → Answers (.bindRestore iss p) s fun b =>
          b.host.done = s.blk.host.done ∧
          ∃ j, b.bd.jobs = [j] ∧ j.action = 2 ∧ j.gathering = p.gathering ∧ j.tenant = t ∧ 1 ≤ j.left) ∧
      (∀ (e : Extent) (d : RegionDesc), fromCreator s.blk iss = true → p.rsv = false → p.action = 3 → p.resultAddr % 32 = 0 →
        loadArea s.blk t = some e → e.lost = false → p.place + p.target ≤ e.length → p.rank ∈ localRanks s.blk (getTen s.blk t) →
        ((currentList s.blk t slot).find? fun d => d.region.val == p.region) = some d → p.target % 65536 = 0 → 0 < p.target →
        p.target ≤ d.length → tenantHeld s.blk t = false → (getTen s.blk t).released0 = false → s.blk.bd.jobs = [] →
        Answers (.bindRestore iss p) s fun b =>
          let data := readBytes (readBytes e.bytes p.place (min (2 ^ (getTen s.blk t).sigShift) p.target)) 0 65536
          Sent s.blk b (.toSentinel slot (.restorePush { addr := d.base, crc := crc32c data, data := data })) ∧
          b.host.done = s.blk.host.done)) ∧
    (∀ (t : Fin 1024) k c d rest, let n := restorePoint (getTen s.blk t)
      let slot := placeSlot (nthD 0 (getTen s.blk t).places k)
      localRanks s.blk (getTen s.blk t) = [k] → colophonOf s.blk t n = some c → tenantHeld s.blk t = false →
      (getTen s.blk t).released0 = false → shapeOk s.blk t c (selected c k 0) slot = true → s.blk.bd.jobs = [] →
      (selected c k 0).flatMap (regionSigs c) = d :: rest → d.place ≠ ownPlace s.blk →
      Answers (.restoreOrder t) s (asks t d n)) ∧
    (∀ (n : Fin 16) (w : WrittenMsg) (j : RestoreJob) d, s.blk.bd.jobs = [j] → j.slot = n → j.addr = w.addr → j.tries ≠ 0 →
      j.action = 0 → j.cur = some d → j.ready = true →
      let page (k : Nat) (b : Block) : Prop := let data := readBytes j.bytes (k * 65536) 65536
        ∃ addr, Sent s.blk b (.toSentinel n (.restorePush { addr := addr, crc := crc32c data, data := data }))
      (w.status = 0 → w.crc = j.crc → (j.page + 1) * 65536 < j.bytes.length → Answers (.written n w) s fun b =>
        page (j.page + 1) b ∧
        tabGet 0 b.obs.counters (slotCounter n 12) = tabGet 0 s.blk.obs.counters (slotCounter n 12) + 65536) ∧
      (w.status = 2 → j.tries < 3 → Answers (.written n w) s (page j.page))) ∧
    (∀ (n : Fin 16) (h : W64) (j : RestoreJob) d till, s.blk.bd.jobs = [j] → j.slot = n → j.cur = some d →
      mkHandle j.tenant j.gathering d.index = h → j.pushWait = some till → till ≤ nowNs s.blk → d.place ≠ ownPlace s.blk →
      j.ready = false → Answers (.groupPushTimeout n h) s (asks (Fin.ofNat 1024 j.tenant) d j.gathering)) ∧
    (∀ (d : Fin 4) (j : RestoreJob), s.blk.bd.cold = none → s.blk.bd.jobs = [j] → j.action = 2 → 1 < j.left →
      Answers (.nvmeCompletion d .ok) s fun b => b.bd.jobs = [{ j with left := j.left - 1 }]) ∧
    (∀ (d : Fin 4) code, (∀ j ∈ s.blk.bd.jobs, j.action ≠ 2) → Answers (.nvmeCompletion d (.error code)) s fun b =>
      (getDrive b d).error = true ∧ (getDrive b d).lastErr = code ∧ b.bd.cold = none ∧
      (s.blk.bd.cold.isSome = true → leafBit b .bd 10 = true)) ∧
    (∀ (d : Fin 4) (c : ColdCopy), s.blk.bd.cold = some c → d.val ∈ c.drives →
      (1 < c.left → Answers (.nvmeCompletion d .ok) s fun b => b.bd.cold = some { c with left := c.left - 1 }) ∧
      (c.left ≤ 1 → c.step = .data → Answers (.nvmeCompletion d .ok) s fun b =>
        b.bd.cold = some { c with step := .flush1, left := c.drives.length } ∧
        ∀ e ∈ c.drives, Sent s.blk b (.nvme e 0 0 0 [])) ∧
      (c.left ≤ 1 → c.step = .flush2 → Answers (.nvmeCompletion d .ok) s fun b =>
        b.bd.cold = none ∧ (getTen b c.tenant).coldGathering = c.gathering ∧
        ∀ e ∈ c.drives, (getDrive b e).newest = some (c.tenant, c.gathering, c.half)))


/-! ## Tethers (chapter 9) -/

/-- R185, R239-R242: streams on a Tether: segments of another edition are dropped, streams open, complete, time out, and are
begun again where they are answered with a NAK. Choices of the model: log entries 11, 90, 164. -/
def Obligations.TetherStreams : Prop :=
  ∀ (n : Fin 16) (glt : Bool) (s : State),
    let x := getSn s.blk n
    let answers (k : AckKind) (stream : W16) (b : Block) : Prop :=
      Sent s.blk b (if glt then .toSentinel n (.ack k stream 0) else .toGlt n (.ack k stream 0))
    (∀ g : Segment, (g.edition ≠ x.portEdition → Answers (.streamSegment n glt g) s fun b =>
        getSn b n = { x with cntLateDrop := x.cntLateDrop + 1 } ∧ b.out = s.blk.out ∧
        tabGet 0 b.obs.counters (portCounter (8 + n) 10) = tabGet 0 s.blk.obs.counters (portCounter (8 + n) 10) + 1) ∧
      (g.edition = x.portEdition → g.start = true → g.stream ∉ brokenAt x glt → (openAt x glt).length < 8 → g.abort = false →
        (g.fin = false → g.payload.length < g.total → Answers (.streamSegment n glt g) s fun b =>
          openAt (getSn b n) glt = openAt x glt ++
            [{ stream := g.stream, kind := g.kind, got := g.payload.length, total := g.total, last := nowNs s.blk,
               bytes := g.payload }] ∧ b.out = s.blk.out) ∧
        (g.fin = true → g.kind = .control → g.payload.head? ≠ some 0x09 → Answers (.streamSegment n glt g) s fun b =>
          openAt (getSn b n) glt = openAt x glt ∧ answers .ack g.stream b)) ∧
      (∀ o : OpenStream, g.edition = x.portEdition → g.start = false → ((openAt x glt).find? fun o => o.stream == g.stream) = some o →
        nowNs s.blk < o.last + x.streamTimeoutUs * 1000 → g.abort = false → g.fin = false → o.got + g.payload.length < o.total →
        Answers (.streamSegment n glt g) s fun b => b.out = s.blk.out ∧
          openAt (getSn b n) glt = (openAt x glt).filter (fun y => y.stream != g.stream) ++
            [{ o with got := o.got + g.payload.length, last := nowNs s.blk, bytes := o.bytes ++ g.payload }]) ∧
      (g.edition = x.portEdition → g.start = false → ((openAt x glt).find? fun o => o.stream == g.stream) = none →
        Answers (.streamSegment n glt g) s fun b => getSn b n = { x with cntLateDrop := x.cntLateDrop + 1 } ∧ b.out = s.blk.out) ∧
      (g.edition = x.portEdition → g.start = true → g.stream ∉ brokenAt x glt → 8 ≤ (openAt x glt).length → glt = false →
        Answers (.streamSegment n glt g) s fun b => openAt (getSn b n) glt = openAt x glt ∧ answers .nak g.stream b)) ∧
    (∀ stream (o : OpenStream), ((openAt x glt).find? fun o => o.stream == stream) = some o →
      o.last + x.streamTimeoutUs * 1000 ≤ nowNs s.blk → glt = false ∨ o.kind = .control →
      Answers (.streamTimeout n glt stream) s fun b =>
        openAt (getSn b n) glt = (openAt x glt).filter (fun y => y.stream != stream) ∧
        brokenAt (getSn b n) glt = withEntry (brokenAt x glt) stream ∧ (getSn b n).cntBroken = x.cntBroken + 1 ∧
        leafBit b (.sn n) 4 = true ∧ answers .nak stream b) ∧
    (∀ stream m, glt = true → (x.sentG.find? fun y => y.1 == stream) = some m →
      (Answers (.streamAck n glt .ack stream) s fun b =>
        b = setSn s.blk n { x with sentG := x.sentG.filter fun y => y.1 != stream }) ∧
      (Answers (.streamAck n glt .nak stream) s fun b => Sent s.blk b (.toSentinel n m.2))) ∧
    (∀ stream, glt = false → (x.pushBuf.any fun p => p.sentAs == some stream) = true →
      (Answers (.streamAck n glt .ack stream) s fun b =>
        (getSn b n).pushBuf = x.pushBuf.filter fun p => p.sentAs != some stream) ∧
      (Answers (.streamAck n glt .nak stream) s fun b => (getSn b n).pushBuf =
        x.pushBuf.map fun p => if p.sentAs = some stream then { p with sentAs := none } else p))

/-- R90, R243-R245, R250, R252, R254-R256: what a sentinel does with the messages of its GLT.
Choices of the model: log entries 9, 93, 94. -/
def Obligations.MessagesToSentinels : Prop :=
  ∀ (n : Fin 16) (s : State),
    let x := getSn s.blk n
    (∀ p : PolicyMsg, Answers (.policy n p) s fun b =>
      b = setSn s.blk n { x with rates := p.rates, seed := p.seed, draws := 0 }) ∧
    (∀ t, (snNow s.blk n < t → ¬(x.sntHold = true ∧ x.holdTime = some t) → Answers (.holdAtMessage n t) s fun b =>
        b = setSn s.blk n { x with
          holdPending := withEntry x.holdPending t,
          releaseDue := if (x.releaseDue.map fun u => decide (t ≤ u)).getD false then none else x.releaseDue }) ∧
      (t ≤ snNow s.blk n → x.sntHold = false → Answers (.holdAtMessage n t) s fun b =>
        (getSn b n).sntHold = true ∧ (getSn b n).raisedAt = snNow s.blk n ∧ (getSn b n).holdTime = some t) ∧
      (x.sntHold = true → x.holdTime = some t → Answers (.holdAtMessage n t) s fun b => b = s.blk)) ∧
    (∀ t, (t ∈ x.holdPending → Answers (.releaseAtMessage n t) s fun b =>
        b = setSn s.blk n { x with holdPending := without x.holdPending t }) ∧
      (t ∉ x.holdPending → x.sntHold = true ∨ x.holdPending ≠ [] → snNow s.blk n < t → Answers (.releaseAtMessage n t) s fun b =>
        b = setSn s.blk n { x with releaseDue := some t }) ∧
      (x.sntHold = false → x.holdPending = [] → Answers (.releaseAtMessage n t) s fun b => b = s.blk) ∧
      (t ∉ x.holdPending → x.sntHold = true → t ≤ snNow s.blk n → Answers (.releaseAtMessage n t) s fun b =>
        (getSn b n).sntHold = false ∧ (getSn b n).reachWait = false)) ∧
    (∀ u fence, Answers (.trimMessage n u fence) s fun b =>
      (getSn b n).trimBits = (if fence then withEntry x.trimBits u.toNat else without x.trimBits u.toNat) ∧
      (getSn b n).trimChanges = x.trimChanges + 1 ∧ (u.toNat, fence, nowNs s.blk) ∈ (getSn b n).trimWait ∧
      b.out = s.blk.out ++ [.hinge n (.trimSet (BitVec.ofNat 12 u.toNat) fence)]) ∧
    (∀ d : Fin 64, (Answers (.domainMessage n d false) s fun b =>
        b = { s.blk with out := s.blk.out ++ [.hinge n (.domainReset d false)] }) ∧
      (d.val ∉ x.inReset → Answers (.domainMessage n d true) s fun b =>
        d.val ∈ (getSn b n).inReset ∧ tabGet 0 (getSn b n).editions d = tabGet 0 x.editions d + 1 ∧
        Sent s.blk b (.hinge n (.domainReset d true)) ∧
        Sent s.blk b (.toGlt n (.note (.edition d (tabGet 0 x.editions d + 1)))))) ∧
    (∀ off l, let buf := if off = 0 then l else patchBytes x.fwBuf off l
      let i : FwImage := { raw := buf }
      (x.phase = .rom ∨ x.phase = .loading → imageEnds i = false → Answers (.fwChunk n off l.length l) s fun b =>
        b = setSn s.blk n { x with fwBuf := buf, phase := .loading }) ∧
      (x.phase = .rom ∨ x.phase = .loading → imageEnds i = true → snImageOk x i = true → Answers (.fwChunk n off l.length l) s fun b =>
        (getSn b n).fwImage = i ∧ (getSn b n).phase = .waitDeclare ∧ ∃ h, Sent s.blk b (.toGlt n (.hello h)) ∧ h.phase = .waitDeclare) ∧
      (x.phase = .rom ∨ x.phase = .loading → imageEnds i = true → snImageOk x i = false → Answers (.fwChunk n off l.length l) s fun b =>
        (getSn b n).phase = .rom ∧ (getSn b n).fwImage = x.fwImage ∧ leafBit b (.sn n) 8 = true) ∧
      (x.phase = .waitDeclare ∨ x.phase = .running → imageEnds i = false → Answers (.fwChunk n off l.length l) s fun b =>
        b = setSn s.blk n { x with fwBuf := buf }) ∧
      (x.phase = .waitDeclare ∨ x.phase = .running → imageEnds i = true → snImageOk x i = true → Answers (.fwChunk n off l.length l) s fun b =>
        getSn b n = { x with fwBuf := [], fwSecond := some i } ∧ b.out = s.blk.out)) ∧
    (∀ p : RestorePush, (crc32c p.data ≠ p.crc → Answers (.restorePushReceived n p) s fun b =>
        Sent s.blk b (.toGlt n (.written { addr := p.addr, crc := 0, status := 2 })) ∧ (getSn b n).restore = x.restore) ∧
      (crc32c p.data = p.crc → x.armed = true → Answers (.restorePushReceived n p) s fun b =>
        Sent s.blk b (.toGlt n (.written { addr := p.addr, crc := 0, status := 1 })) ∧ (getSn b n).restore = x.restore) ∧
      (crc32c p.data = p.crc → x.armed = false → memBusy x = true → Answers (.restorePushReceived n p) s fun b =>
        (getSn b n).restore = x.restore ++ [{ push := p }]) ∧
      (crc32c p.data = p.crc → x.armed = false → memBusy x = false → x.ucieWidth ≠ 0 → x.decl.isSome = true → x.restore = [] →
        x.fetches = [] → p.data ≠ [] → Answers (.restorePushReceived n p) s fun b =>
        Sent s.blk b (.hinge n (.mwr x.nextTag p.addr (p.data.take 4096))))) ∧
    (snFirmware x = true →
      (∀ off, Answers (.regRd n off none) s fun b => Sent s.blk b (.toGlt n (.regData off (snLive s.blk n off)))) ∧
      (∀ v : W32, (within 2 1000 (field v 0 10) = true → Answers (.regRd n 0x24 (some v)) s fun b =>
          (getSn b n).hangLimitMs = field v 0 10) ∧
        (within 2 1000 (field v 0 10) = false → Answers (.regRd n 0x24 (some v)) s fun b =>
          (getSn b n).hangLimitMs = x.hangLimitMs ∧ leafBit b (.sn n) 0 = true)))

/-- R248, R250, R252, R254, R264, R265: what a GLT does with HELLO, notes and reports of a sentinel.
Choices of the model: log entries 9, 91. -/
def Obligations.MessagesFromSentinels : Prop :=
  ∀ (n : Fin 16) (s : State),
    let r := getSlot s.blk n
    (∀ h : HelloMsg, (h.stepping ≠ 0xA2 → Answers (.hello n h) s fun b =>
        (getLink b (8 + n)).state = .down ∧ (getSn b n).tetherUp = false ∧ (getSlot b n).stepping = h.stepping ∧ leafBit b (.lkT n) 6 = true) ∧
      (h.stepping = 0xA2 → h.phase = .waitDeclare → r.mirrorPhase = .loading → Answers (.hello n h) s fun b =>
        (getSn b n).trimBits = r.trimCopy ∧ (getSlot b n).mirrorPhase = .waitDeclare ∧
        (∀ d, d < 64 → tabGet 0 (getSn b n).editions d = tabGet 0 r.editionCopy d + 1) ∧
        (r.on = true → (getSlot b n).perstN = true)) ∧
      (h.stepping = 0xA2 → h.phase = .running → r.readmitting = false → Answers (.hello n h) s fun b =>
        (getSlot b n).decl = h.declare ∧ (getSlot b n).mirrorPhase = .running ∧ (getSlot b n).stale = false)) ∧
    (∀ (u : BitVec 12) fence iss, r.trimIss = [(u.toNat, fence, iss)] → (∀ x ∈ s.blk.hr.routes, x.2.waitSlot = none) →
      Answers (.note n (.trimAck u fence)) s fun b => (getSlot b n).trimIss = [] ∧ Replied iss 0x0603 stOk s.blk b) ∧
    (∀ (d : Fin 64) ed, r.decl = none → Answers (.note n (.edition d ed)) s fun b =>
      tabGet 0 (getSlot b n).editionCopy d = ed) ∧
    (∀ reach t, slotTenant? s.blk n = some t → Answers (.note n (.holdAck reach)) s fun b =>
      (getSlot b n).reachLast = reach ∧ (getTen b t).hold.reachMax = Nat.max (getTen s.blk t).hold.reachMax reach) ∧
    (∀ seq k eds t iss, slotTenant? s.blk n = some t → (getTen s.blk t).hold.phase = .cutting →
      (getTen s.blk t).hold.marksDue = 0 → putBit (getTen s.blk t).hold.slotsDue n false = 0 →
      holdOwners (getTen s.blk t).hold = [iss] → (getTen s.blk t).rec'.phase = .none →
      Answers (.note n (.holdMark seq k eds)) s fun b =>
        (getTen b t).hold.phase = .held ∧ Replied iss.1 0x0601 stOk s.blk b) ∧
    (∀ (u : BitVec 12) (e : Fin 256), Answers (.report n (.hang u e)) s fun b =>
      ∃ b1, tabGet 0 b1.obs.counters (slotCounter n 13) = tabGet 0 s.blk.obs.counters (slotCounter n 13) + 1 ∧
        b1.sus = s.blk.sus ∧ b = fileUnit b1 .hang n u.toNat e) ∧
    (∀ t, slotTenant? s.blk n = some t → Answers (.report n .reach) s fun b =>
      ∃ b1, leafBit b1 .rs 4 = true ∧ (getTen b1 t).hold.unbounded = putBit (getTen s.blk t).hold.unbounded n true ∧
        (getSlot b1 n).reachExceeded = true ∧ b = fileSlot b1 .reach n) ∧
    (Answers (.report n .thermal) s fun b => b = fileSlot s.blk .thermal n)

/-! ## Holds (chapter 10) -/

/-- R257-R262, R267-R269, R281, R282: a hold is scheduled, told, takes effect, is cut and released.
Choices of the model: log entries 47, 100, 101. -/
def Obligations.TenantHolds : Prop :=
  ∀ (s : State),
    (∀ (iss : Issuer) (p : HoldAtP), let t := iss.tenant.val
      let h := (getTen s.blk t).hold
      let time := secNs p.sec p.nsec
      fromOwnerPf s.blk iss = true → p.rsv = false →
      (p.action = 0 → timeOk p.nsec p.sec = true → p.resultAddr % 64 = 0 → h.phase = .none → nowNs s.blk + minLeadNs s.blk ≤ time →
        Answers (.holdAt iss p) s fun b =>
          (getTen b t).hold = (takeEarly (getTen s.blk t)
            { phase := .scheduled, collateInHold := p.collateInHold, holdId := s.blk.hr.nextHoldId, origin := ownPlace s.blk,
              time := time, isOrigin := true, iss := some iss, resultAddr := p.resultAddr }).hold ∧
          b.hr.nextHoldId = s.blk.hr.nextHoldId + 1 ∧ b.host.done = s.blk.host.done ∧
          ∀ n ∈ tenantSlots s.blk (getTen s.blk t), Sent s.blk b (.toSentinel n (.holdAt time))) ∧
      (∀ o, p.action = 1 → h.phase = .scheduled → h.holdId = p.holdId → h.isOrigin = true → nowNs s.blk + minLeadNs s.blk ≤ h.time →
        holdOwners h = [o] → Answers (.holdAt iss p) s fun b =>
          (getTen b t).hold.phase = .none ∧
          ∃ b1, Replied o.1 0x0601 stWithdrawn s.blk b1 ∧ Replied iss 0x0601 stOk b1 b)) ∧
    (∀ (p : Fin 8) (hd : CellHdr) (c : HoldBody), let t := c.tenant.val
      let h := (getTen s.blk t).hold
      nextCell s.blk p hd →
      (h.phase = .none → nowNs s.blk < c.time → Answers (.hold p hd c) s fun b =>
        (getTen b t).hold = (takeEarly (getTen s.blk t) (newHold s.blk c none [])).hold ∧
        ∀ n ∈ tenantSlots s.blk (getTen s.blk t), Sent s.blk b (.toSentinel n (.holdAt c.time))) ∧
      (h.phase = .scheduled → h.holdId = c.holdId → h.origin = c.place → Answers (.cancel p hd c) s fun b =>
        (getTen b t).hold.phase = .none) ∧
      (∀ o, h.phase = .cutting → h.holdId = c.holdId → h.time = c.time → h.marksDue &&& ~~~(hopBits (portHop p)) = 0 → h.slotsDue = 0 →
        holdOwners h = [o] → (getTen s.blk t).rec'.phase = .none → Answers (.mark p hd c) s fun b =>
        (getTen b t).hold.phase = .held ∧ Replied o.1 0x0601 stOk s.blk b) ∧
      (h.phase = .scheduled → h.holdId = c.holdId → h.time = c.time → Answers (.mark p hd c) s fun b =>
        (getTen b t).hold = { h with marksSeen := h.marksSeen ||| hopBits (portHop p) }) ∧
      (h.holdId ≠ c.holdId ∨ h.time ≠ c.time → Answers (.mark p hd c) s fun b => (getTen b t).hold = h ∧
        (getTen b t).earlyMarks = withEntry (getTen s.blk t).earlyMarks (c.holdId, c.time, portHop p)) ∧
      (holdActive h = true → h.holdId = c.holdId → h.releaseAt = none → nowNs s.blk < c.time → Answers (.release p hd c) s fun b =>
        (getTen b t).hold.releaseAt = some c.time ∧
        ∀ n ∈ lowerable s.blk (getTen s.blk t), Sent s.blk b (.toSentinel n (.releaseAt (lowerAt s.blk n c.time))))) ∧
    (∀ (t : Fin 1024), let h := (getTen s.blk t).hold
      (h.phase = .scheduled → h.time ≤ nowNs s.blk → h.marksSeen = 0 → markHops s.blk ≠ [] → Answers (.holdFire t) s fun b =>
        (getTen b t).hold.phase = .cutting ∧ ∀ k ∈ markHops s.blk, hopUsable s.blk k = true → ∃ hdr,
          let m : CellBody := .mark { holdId := h.holdId, tenant := t, time := h.time, place := ownPlace s.blk }
          Queued s.blk b (hopPort s.blk k) (.cell hdr m) (.cell (hopPort s.blk k) hdr m)) ∧
      (∀ o, h.phase = .cutting → h.time + s.blk.hr.cutTimeoutMs * 1000000 ≤ nowNs s.blk → holdOwners h = [o] →
        (getTen s.blk t).rec'.phase = .none → Answers (.cutTimeout t) s fun b =>
        (getTen b t).hold.phase = .incomplete ∧ leafBit b .rs 3 = true ∧ Replied o.1 0x0601 stOk s.blk b) ∧
      (∀ tr iss, holdActive h = true → h.releaseAt = some tr → tr ≤ nowNs s.blk → h.releaseIss = some iss → h.restored = false →
        (getTen s.blk t).rec'.phase = .none → (∀ g, g < 4 → (getBar s.blk t g).withheld = false) →
        Answers (.releaseFire t) s fun b => (getTen b t).hold.phase = .none ∧ Replied iss 0x0602 stOk s.blk b)) ∧
    (∀ (iss : Issuer) (p : ReleaseAtP), let t := iss.tenant.val
      let h := (getTen s.blk t).hold
      let time := secNs p.sec p.nsec
      fromOwnerPf s.blk iss = true → p.rsv = false → timeOk p.nsec p.sec = true → h.holdId = p.holdId → mayRelease h = true →
      h.releaseIss = none → nowNs s.blk + minLeadNs s.blk ≤ time → Answers (.releaseAt iss p) s fun b =>
        (getTen b t).hold.releaseAt = some time ∧ (getTen b t).hold.releaseIss = some iss ∧
        ∀ n ∈ lowerable s.blk (getTen s.blk t), Sent s.blk b (.toSentinel n (.releaseAt (lowerAt s.blk n time))))


/-! ## Reset domains and the Kettle path (chapter 10) -/

/-- R270-R272, Table 10.11: a domain's reset is asserted, kept, pulsed, completed, withdrawn and readmitted.
Choices of the model: log entries 26, 35, 36, 174. -/
def Obligations.ResetDomains : Prop :=
  ∀ (pf : Fin 4) (d : Fin 49) (s : State),
    let x := getDom s.blk d
    let below := d.val < 2 ∨ recentResets s.blk d < s.blk.hr.escCount
    let begun (b : Block) : Prop := (getDom b d).inReset = true ∧ (getDom b d).edition = x.edition + 1
    let serves (b : Block) : Prop := (getDom b d).inReset = false ∧ (getDom b d).edition = x.edition
    (pf.val ≠ s.blk.ident.adminPf → ∀ i ∈ [Instr.holdReset pf d true, .holdReset pf d false, .pulse pf d, .readmit pf d],
      Answers i s fun b => b = badSource s.blk pf (rsDomOff d)) ∧
    (pf.val = s.blk.ident.adminPf →
      (d = 0 → ∀ i ∈ [Instr.holdReset pf d true, .holdReset pf d false, .pulse pf d], Answers i s fun b =>
        leafBit b .rs 0 = true ∧ b.hr.domains = s.blk.hr.domains) ∧
      (d ≠ 0 → x.inReset = false → (Answers (.holdReset pf d true) s fun b => begun b ∧ (getDom b d).holdReset = true) ∧
        (Answers (.pulse pf d) s fun b => begun b ∧ (getDom b d).pulseEnd = some (nowNs s.blk + 1000))) ∧
      (d ≠ 0 → x.inReset = true → Answers (.pulse pf d) s fun b => b = s.blk) ∧
      (d ≠ 0 → x.holdReset = false → Answers (.holdReset pf d false) s fun b => b = s.blk) ∧
      (d ≠ 0 → x.inReset = true → x.holdReset = true → x.withdrawn = false → below →
        Answers (.holdReset pf d false) s fun b => serves b ∧ (getDom b d).holdReset = false) ∧
      (x.withdrawn = true → Answers (.readmit pf d) s fun b =>
        (getDom b d).inReset = false ∧ (getDom b d).withdrawn = false) ∧
      (x.withdrawn = false → Answers (.readmit pf d) s fun b => b = s.blk)) ∧
    (selfResetDue s.blk d = none →
      (x.inReset = true ∨ d = 0 → Answers (.domainResetAssert d) s fun b => b = s.blk) ∧
      (d ≠ 0 → x.inReset = false → Answers (.domainResetAssert d) s fun b => begun b ∧
        (d.val = 1 → b.fw.phase = .boot ∧ b.fw.rebind = none) ∧
        (2 ≤ d.val → d.val ≤ 17 → ∀ c ∈ clusterCores (d.val - 2), (getCore b c).pc = 0 ∧ (getCore b c).sram = []) ∧
        (d.val = 19 → b.bd.cold = none ∧ ∀ k, k < 4 → (getDrive b k).trained = false) ∧
        (20 ≤ d.val → d.val ≤ 23 → ∀ r ∈ b.host.rings, srcPf r.1 ≠ d.val - 20) ∧
        (24 ≤ d.val → d.val ≤ 39 → (getLink b (d.val - 16)).state = .down ∧ (getSn b (d.val - 24)).tetherUp = false) ∧
        (d.val = 48 → b.bd.jobs = [] ∧ b.bd.xfersOut = []))) ∧
    (x.inReset = true → x.withdrawn = false → x.holdReset = false → (∀ t, x.pulseEnd = some t → t ≤ nowNs s.blk) →
      allHeld s.blk = false →
      (below → Answers (.domainResetComplete d) s serves) ∧
      (¬below → Answers (.domainResetComplete d) s fun b => (getDom b d).withdrawn = true ∧ leafBit b .rs 1 = true)) ∧
    (x.holdReset = true ∨ allHeld s.blk = true → Answers (.domainResetComplete d) s fun b => b = s.blk)

/-- R275-R280, Tables 10.7 and 10.13: the Kettle operations, their authorisation, and the management port.
Choices of the model: log entries 102, 103, 104, 105, 106. -/
def Obligations.KettleOperations : Prop :=
  (∀ (r : Route) (args : List W32) (tok : Option Token) (s : State), (getRoute s.blk r).phase ≠ .busy →
    let a := (args ++ [0, 0, 0, 0]).take 4
    let a0 := nthD 0 a 0
    let a1 := nthD 0 a 1
    let n := a1.toNat / 4096
    let data (b : Block) : List W32 := (getRoute b r).data
    (∀ i ∈ [Instr.flyleafReadKettle r args none, .flyleafClearKettle r args none, .marginReadKettle r args none, .trim r args none,
        .slotPower r args none, .reset r args none, .kettleHold r args none],
      r ≠ .window (Fin.ofNat 4 s.blk.ident.adminPf) ∨ i = .flyleafClearKettle r args none →
      Answers i s (KettleEnds r stNotAuthorised s.blk)) ∧
    (Answers (.identity r args tok) s fun b => KettleEnds r stOk s.blk b ∧ (data b).take 6 =
      wordsOf 6 (leBytes 4 0x7216 ++ leBytes 4 0xB1 ++ leBytes 8 s.blk.ident.serial.toNat ++ leBytes 8 (ownPlace s.blk).toNat)) ∧
    (Answers (.health r args tok) s fun b => KettleEnds r stOk s.blk b ∧ (data b).take 4 =
        wordsOf 4 (leBytes 8 (domMask s.blk fun d => d.inReset) ++ leBytes 8 (domMask s.blk fun d => d.withdrawn)) ∧
      nthD 0 (data b) 7 = s.blk.fw.heartbeat) ∧
    (Answers (.time r args tok) s fun b => KettleEnds r stOk s.blk b ∧ (data b).take 5 =
      wordsOf 5 (leBytes 4 s.blk.time.nsec ++ leBytes 4 (s.blk.time.frac.extractLsb' 16 16).toNat ++
        leBytes 8 s.blk.time.sec.toNat ++ leBytes 4 (stStatus s.blk).toNat)) ∧
    (∀ x, r = .window (Fin.ofNat 4 s.blk.ident.adminPf) → (flyFind s.blk fun q => q % 2 ^ 32 == a0.toNat) = some x →
      Answers (.flyleafReadKettle r args none) s fun b => KettleEnds r stOk s.blk b ∧ data b = wordsOf 16 (flyBytes x)) ∧
    (∀ t, tokenOk s.blk (getRoute s.blk r).nonce 1 t = true → Answers (.flyleafClearKettle r args (some t)) s fun b =>
      KettleEnds r stOk s.blk b ∧ b.fly.clearing = true ∧ leafBit b .fl 3 = true ∧
      ∀ x ∈ b.fly.ring, isCleared x = true ∨ s.blk.fly.next < x.seq) ∧
    (kettleAllows s.blk r 2 tok = true → ∀ kind, kind = field a0 0 2 → (kind = 0 ∧ a1.toNat < 512) ∨ (kind = 1 ∧ a1.toNat < 24) →
      Answers (.marginReadKettle r args tok) s fun b => KettleEnds r stOk s.blk b ∧ data b =
        (let recs := ((marginRing s.blk kind 0 a1.toNat).drop (nthD 0 a 2).toNat).take 4
         wordsOf 16 (recs.flatMap id ++ zeroBytes (64 - 16 * recs.length)))) ∧
    (kettleAllows s.blk r 3 tok = true →
      (a0.getLsbD 0 = true → a1.toNat < 512 → Answers (.trim r args tok) s fun b =>
        KettleEnds r stOk s.blk b ∧ tabBit b.col.trim a1.toNat = a0.getLsbD 1) ∧
      (∀ d, a0.getLsbD 0 = false → n < 16 → (getSlot s.blk n).decl = some d → a1.toNat % 4096 < d.nUnits →
        Answers (.trim r args tok) s fun b =>
          Sent s.blk b (.toSentinel n (.trim (BitVec.ofNat 12 (a1.toNat % 4096)) (a0.getLsbD 1))) ∧
          (getRoute b r).phase = .busy ∧ (getRoute b r).waitSlot = some (n, nowNs s.blk))) ∧
    (kettleAllows s.blk r 4 tok = true → Answers (.slotPower r args tok) s fun b => KettleEnds r stOk s.blk b ∧
      let y := getSlot b (field a0 0 4)
      y.on = a0.getLsbD 4 ∧ y.perstN = false ∧ y.seqStart = some (nowNs s.blk) ∧ (a0.getLsbD 4 = true → y.pwren = true)) ∧
    (kettleAllows s.blk r 5 tok = true → field a0 1 2 ≠ 3 → a0.getLsbD 0 = false →
      (a1 = 0 → Answers (.reset r args tok) s (KettleEnds r stRefused s.blk)) ∧
      (48 < a1.toNat → Answers (.reset r args tok) s (KettleEnds r stBadParam s.blk)) ∧
      (routeDom r = some a1.toNat → field a0 1 2 ≠ 1 → Answers (.reset r args tok) s fun b =>
        KettleEnds r stOk s.blk b ∧ (getRoute b r).selfResets = (getRoute s.blk r).selfResets ++ [(field a0 1 2, nowNs s.blk + 10000)] ∧
        b.hr.domains = s.blk.hr.domains) ∧
      (a1 ≠ 0 → a1.toNat ≤ 48 → routeDom r ≠ some a1.toNat → field a0 1 2 = 0 → (getDom s.blk a1.toNat).inReset = false →
        Answers (.reset r args tok) s fun b => KettleEnds r stOk s.blk b ∧ (getDom b a1.toNat).inReset = true ∧
          (getDom b a1.toNat).holdReset = true ∧ (getDom b a1.toNat).edition = (getDom s.blk a1.toNat).edition + 1)) ∧
    (∀ w : W64, w = BitVec.ofNat 64 ((nthD 0 a 2).toNat + 2 ^ 32 * (nthD 0 a 3).toNat) → kettleAllows s.blk r 6 tok = true →
      w.toNat % 2 ^ 30 < nsPerSec → (∀ m ∈ maskSlots (field a1 0 16), (getSn s.blk m).tetherUp = true) →
      Answers (.kettleHold r args tok) s fun b => KettleEnds r stOk s.blk b ∧ ∀ m ∈ maskSlots (field a1 0 16),
        (getSlot b m).heldByKettle = !a0.getLsbD 0 ∧ (a0.getLsbD 0 = false → Sent s.blk b (.toSentinel m (.holdAt (r111Ns w)))))) ∧
  (∀ (r : Route) (args : List W32) (tok : Option Token) (s : State), (getRoute s.blk r).phase = .busy →
    ∀ i ∈ [Instr.identity r args tok, .health r args tok, .time r args tok, .flyleafReadKettle r args tok,
        .flyleafClearKettle r args tok, .marginReadKettle r args tok, .trim r args tok, .slotPower r args tok, .reset r args tok,
        .kettleHold r args tok],
      Answers i s fun b => b = setRoute s.blk r { getRoute s.blk r with overrun := true }) ∧
  (∀ (r : Route) (s : State), (∀ n t, (getRoute s.blk r).waitSlot = some (n, t) →
      (t + 500000 ≤ nowNs s.blk → Answers (.kettleSentinelTimeout r) s (KettleEnds r stTimeout s.blk)) ∧
      ((getSn s.blk n).tetherUp = false → t + 200000 ≤ nowNs s.blk →
        Answers (.kettleSentinelTimeout r) s (KettleEnds r stTimeout s.blk))) ∧
    ((getRoute s.blk r).waitSlot = none → Answers (.kettleSentinelTimeout r) s fun b => b = s.blk)) ∧
  (∀ (f : MgmtFrame) (s : State), let k := getRoute s.blk .mgmtPort
    (k.phase ≠ .busy → s.blk.hr.mgmtLastSeq = some f.seq → Answers (.mgmtPortFrame f) s fun b =>
      b = emit s.blk (.kettleReply true f.seq s.blk.hr.mgmtLastReply.1 s.blk.hr.mgmtLastReply.2)) ∧
    (k.phase ≠ .busy → s.blk.hr.mgmtLastSeq ≠ some f.seq → f.op = 0x01 → Answers (.mgmtPortFrame f) s fun b =>
      KettleEnds .mgmtPort stOk s.blk b ∧ b.hr.mgmtLastSeq = some f.seq ∧ ∃ st l, Sent s.blk b (.kettleReply true f.seq st l)) ∧
    (k.phase ≠ .busy → s.blk.hr.mgmtLastSeq ≠ some f.seq → f.op = 0x04 → Answers (.mgmtPortFrame f) s
      (KettleEnds .mgmtPort stBadOpcode s.blk)) ∧
    (k.phase = .busy → s.blk.hr.mgmtLastSeq = some f.seq → Answers (.mgmtPortFrame f) s fun b => b = s.blk)) ∧
  (∀ (n : Fin 16) (s : State) t, (getSlot s.blk n).seqStart = some t → (getSlot s.blk n).on = false → t + 1000000 ≤ nowNs s.blk →
    Answers (.slotPowerOffStep n) s fun b => b = setSlot s.blk n { getSlot s.blk n with pwren := false, seqStart := none })


/-! ## Suspects and recovery (chapter 11) -/

/-- R283-R292, R295: reports, summaries, probes and SUSPECT cells, their windows and ages.
Where the management cores stall, what their firmware decides waits for them (R361).
Choices of the model: log entries 8, 44, 168, 171. -/
def Obligations.SuspectReports : Prop :=
  (∀ (p : Fin 8) (hd : CellHdr) (r : RepBody) (s : State), nextCell s.blk p hd →
    ∀ i ∈ [Instr.reportCell p hd r, .summary p hd r],
      let mine := arbiterOf s.blk r.target = ownPlace s.blk
      (∀ k, ¬mine → findEntry s.blk r.target = none → freeEntry s.blk = some k → Answers i s fun b =>
        let e := getEntry b k
        e.state = .opened ∧ e.target = r.target ∧ e.kind = r.kind ∧ e.reporters = [r.reporter] ∧ e.count = r.count ∧
          e.windowEnd = nowNs s.blk + s.blk.sus.mergeWindowUs * 1000 ∧ b.sus.reports = s.blk.sus.reports + 1) ∧
      (∀ k, ¬mine → findEntry s.blk r.target = some k → windowOpen (getEntry s.blk k) = true → Answers i s fun b =>
        let e := getEntry s.blk k
        (getEntry b k).count = e.count + r.count ∧ (getEntry b k).merged = e.merged + r.count ∧
          (getEntry b k).reporters = withEntry e.reporters r.reporter ∧ (getEntry b k).windowEnd = e.windowEnd) ∧
      (∀ k, mine → reporterRule s.blk r = false → recordedOnly r.kind = false → findEntry s.blk r.target = none →
        freeEntry s.blk = some k → Answers i s fun b => (∀ f, f < 4 → (getPf b f).intPend.getLsbD 7 = true) ∧
          (r.conclusive = true → fwStalled s.blk = false → (getEntry b k).state = .suspect ∧ leafBit b .sr 1 = true) ∧
          (r.conclusive = false ∨ fwStalled s.blk = true → (getEntry b k).state = .opened) ∧
          (fwStalled s.blk = true → b.fw.tasks = s.blk.fw.tasks ++ [.judge k r false])) ∧
      (mine → reporterRule s.blk r = true → Answers i s fun b =>
        leafBit b .sr 4 = true ∧ b.sus.reports = s.blk.sus.reports + 2)) ∧
  (∀ (p : Fin 8) (hd : CellHdr) (q : ProbeBody) (s : State), nextCell s.blk p hd →
    (q.target = ownPlace s.blk → Answers (.probe p hd q) s fun b => b = sendSuspectCell (afterSeq s.blk p hd) q.arbiter
      (.probeAck { fwAlive := fwAlive s.blk, target := q.target, arbiter := q.arbiter, probeId := q.probeId })) ∧
    (q.target ≠ ownPlace s.blk → Answers (.probe p hd q) s fun b =>
      b = sendSuspectCell (afterSeq s.blk p hd) q.target (.probe q)) ∧
    (q.arbiter ≠ ownPlace s.blk → Answers (.probeAck p hd q) s fun b =>
      b = sendSuspectCell (afterSeq s.blk p hd) q.arbiter (.probeAck q)) ∧
    (∀ k, q.arbiter = ownPlace s.blk → findEntry s.blk q.target = some k → (getEntry s.blk k).probeUntil ≠ none →
      (getEntry s.blk k).probeId = q.probeId → (getEntry s.blk k).probed = true → (getEntry s.blk k).state ≠ .suspect →
      Answers (.probeAck p hd q) s fun b =>
        (getEntry b k).probeUntil = none ∧ (getEntry b k).silent = !q.fwAlive ∧
        (q.fwAlive = false → 2 ≤ ((getEntry s.blk k).reporters.filter fun a => !(getEntry s.blk k).aside.contains a).length →
          fwStalled s.blk = false → (getEntry b k).state = .suspect ∧ leafBit b .sr 1 = true))) ∧
  (∀ (p : Fin 8) (hd : CellHdr) (c : SuspectBody) (t : Nat) (s : State), nextCell s.blk p hd → placeLevel c.target ≤ 1 →
    tenantOfPlace s.blk c.target = some t →
    (isLeader s.blk t = false → Answers (.suspect p hd c) s fun b =>
      b = sendSuspectCell (afterSeq s.blk p hd) (leaderOf s.blk t) (.suspect c)) ∧
    (isLeader s.blk t = true → fwStalled s.blk = true → Answers (.suspect p hd c) s fun b =>
      b.fw.tasks = s.blk.fw.tasks ++ [.suspect t c.target]) ∧
    (isLeader s.blk t = true → fwStalled s.blk = false → (getTen s.blk t).rec'.phase = .none → (getTen s.blk t).hold.phase = .none →
      Answers (.suspect p hd c) s fun b => (getTen b t).rec'.phase = .holding ∧ (getTen b t).rec'.targets = [c.target] ∧
        (getTen b t).hold.phase = .scheduled ∧ (getTen b t).hold.time = nowNs s.blk + minLeadNs s.blk) ∧
    (isLeader s.blk t = true → fwStalled s.blk = false → (getTen s.blk t).rec'.phase = .holding → Answers (.suspect p hd c) s fun b =>
      (getTen b t).rec'.targets = withEntry (getTen s.blk t).rec'.targets c.target)) ∧
  (∀ (k : Fin 4096) (s : State), let e := getEntry s.blk k
    (windowOpen e = true → e.windowEnd ≤ nowNs s.blk → e.probeUntil = none → Answers (.mergeWindowClose k) s fun b =>
      getEntry b k = { e with state := if e.state = .opened then .watch else e.state, windowEnd := 0, merged := 0,
                              mergedConcl := false, probed := false } ∧
      (e.merged ≠ 0 → arbiterOf s.blk e.target ≠ ownPlace s.blk → ∃ b1 m,
        b = sendSuspectCell b1 (arbiterOf s.blk e.target) (.summary m) ∧ m.kind = e.kind ∧ m.target = e.target ∧
        m.count = min 65535 e.merged ∧ m.self = e.selfRep)) ∧
    (∀ t, e.probeUntil = some t → t ≤ nowNs s.blk → fwStalled s.blk = false →
      2 ≤ (e.reporters.filter fun a => !e.aside.contains a).length → e.state ≠ .suspect →
      Answers (.probeTimeout k) s fun b => (getEntry b k).state = .suspect ∧ (getEntry b k).silent = true) ∧
    (e.state = .watch → windowOpen e = false → e.lastTime + s.blk.sus.ageS * nsPerSec ≤ nowNs s.blk →
      Answers (.srAge k) s fun b => b = setEntry s.blk k {})) ∧
  (∀ (pf : Fin 4) (v : W32) (s : State),
    (pf.val ≠ s.blk.ident.adminPf → Answers (.srClear pf v) s fun b => b = badSource s.blk pf 0xA5044) ∧
    (pf.val = s.blk.ident.adminPf → v.getLsbD 31 = false → (getEntry s.blk (field v 0 12)).state = .suspect →
      Answers (.srClear pf v) s fun b => b = setEntry s.blk (field v 0 12) {}) ∧
    (pf.val = s.blk.ident.adminPf → v.getLsbD 31 = true → Answers (.srClear pf v) s fun b =>
      ∀ k, (getEntry b k).state ≠ .suspect)) ∧
  (∀ (n : Fin 16) (s : State) (t : Ns), (getLink s.blk (8 + n)).downSince = some t →
    t + s.blk.sus.linkGraceMs * 1000000 ≤ nowNs s.blk → Answers (.tetherLost n) s fun b => b = fileSlot s.blk .tetherLost n)

/-- R294-R298, R303-R305: the leader's recovery, its timers, and the commands that trim, withdraw, readmit and tip in.
Choices of the model: log entries 48, 110, 111, 112, 167, 171. -/
def Obligations.Recoveries : Prop :=
  (∀ (p : Fin 8) (hd : CellHdr) (t : Fin 1024) (st : Byte) (q : Place) (s : State), nextCell s.blk p hd →
    let r := (getTen s.blk t).rec'
    let missing := ∃ x ∈ participants (getTen s.blk t), x ≠ q ∧ x ∉ r.restoredBy.map Prod.fst
    (isLeader s.blk t = false → Answers (.restored p hd t st q) s fun b =>
      b = sendSuspectCell (afterSeq s.blk p hd) (leaderOf s.blk t) (.restored t st q)) ∧
    (isLeader s.blk t = true → fwStalled s.blk = false → r.phase = .restoring → r.tip = none →
      (st ≠ stOk ∨ (¬missing ∧ r.failedHost = true) → Answers (.restored p hd t st q) s fun b =>
        (getTen b t).rec'.phase = .waitHost ∧ leafBit b .sr 3 = true) ∧
      (st = stOk → missing → Answers (.restored p hd t st q) s fun b => (getTen b t).rec'.phase = .restoring ∧
        (q, st) ∈ (getTen b t).rec'.restoredBy) ∧
      (st = stOk → ¬missing → r.failedHost = false → Answers (.restored p hd t st q) s fun b =>
        (getTen b t).hold.releaseAt = some (nowNs s.blk + minLeadNs s.blk)))) ∧
  (∀ (t : Fin 1024) (s : State), let r := (getTen s.blk t).rec'
    (r.phase = .acting ∨ r.phase = .restoring → r.restoreAt ≤ nowNs s.blk → Answers (.restoreTimeout t) s fun b =>
      (getTen b t).rec'.phase = .waitHost ∧ leafBit b .sr 3 = true) ∧
    (∀ w, r.tip = some w → w.answered = false → w.until' ≤ nowNs s.blk → Answers (.restoreTimeout t) s fun b =>
      (getTen b t).rec'.tip = none ∧ Replied w.iss 0x0604 stTimeout s.blk b) ∧
    (∀ a, r.failedVoteAt = some a → a ≤ nowNs s.blk → fwStalled s.blk = false → isLeader s.blk t = true → (getTen s.blk t).hold.phase = .none →
      Answers (.failedVoteWait t) s fun b => (getTen b t).rec'.phase = .holding ∧ (getTen b t).rec'.failedVoteAt = none ∧
        (getTen b t).hold.phase = .scheduled) ∧
    (fwStalled s.blk = true → Answers (.failedVoteWait t) s fun b =>
      b = { s.blk with fw := { s.blk.fw with tasks := s.blk.fw.tasks ++ [.voteWait t] } }) ∧
    (r.failedVoteAt = none → fwStalled s.blk = false → Answers (.failedVoteWait t) s fun b => b = s.blk)) ∧
  (∀ (iss : Issuer) (p : TrimUnitP) (k : Nat) (d : Declare) (s : State), localSlot s.blk p.place = some k →
    mayRecover s.blk iss (some k) = true → p.rsv = false → placeLevel p.place = 0 → (getSlot s.blk k).decl = some d →
    placeUnit p.place < d.nUnits →
    let x := getSlot s.blk k
    let u := placeUnit p.place
    (p.action = 0 → Answers (.trimUnit iss p) s fun b => (getSlot b k).trimIss = x.trimIss ++ [(u, true, iss)] ∧
      (getSlot b k).trimCopy = withEntry x.trimCopy u ∧ Sent s.blk b (.toSentinel k (.trim (BitVec.ofNat 12 u) true))) ∧
    (p.action = 1 → x.role = roleIdle ∨ x.role = roleSpare ∨ slotHeld s.blk k = true → Answers (.trimUnit iss p) s fun b =>
      (getSlot b k).specs = x.specs ++ [(some u, some iss)] ∧ (x.specs = [] →
        Sent s.blk b (.toSentinel k (.specimen (some (BitVec.ofNat 12 u)) (specAreas s.blk k (some u)))))) ∧
    (p.action = 1 → x.role = roleActive → slotHeld s.blk k = false →
      Answers (.trimUnit iss p) s fun b => Replied iss 0x0603 stRefused s.blk b)) ∧
  (∀ (iss : Issuer) (p : WithdrawP) (k : Nat) (s : State), localSlot s.blk p.place = some k → isAdmin s.blk iss = true →
    p.rsv = false → placeLevel p.place = 1 →
    let x := getSlot s.blk k
    (p.action = 0 → slotTenant? s.blk k = none → x.role ≠ roleActive → Answers (.withdraw iss p) s fun b =>
      Replied iss 0x0605 stOk s.blk b ∧ (getSlot b k).role = roleWithdrawn ∧ (getSlot b k).heldByHold = true ∧
        Sent s.blk b (.toSentinel k (.holdAt (nowNs s.blk))) ∧ (p.powerOff = true → (getSlot b k).on = false)) ∧
    (p.action = 0 → slotTenant? s.blk k = none → x.role = roleActive →
      Answers (.withdraw iss p) s fun b => Replied iss 0x0605 stRefused s.blk b) ∧
    (p.action = 1 → x.role = roleWithdrawn → (∀ t, slotTenant? s.blk k = some t → recBusy s.blk t = false) → Answers (.withdraw iss p) s fun b => (getSlot b k).readmitIss = some iss ∧
      (getSlot b k).on = true ∧ b.host.done = s.blk.host.done ∧
      (x.mirrorPhase = .running → x.specs = [] →
        Sent s.blk b (.toSentinel k (.specimen none (specAreas s.blk k none))))) ∧
    (p.action = 1 → x.role ≠ roleWithdrawn → Answers (.withdraw iss p) s fun b => Replied iss 0x0605 stRefused s.blk b)) ∧
  (∀ (t : Fin 1024) (n : Fin 16) (failed : Place) (rank : Nat) (q : Place) (s : State), onTray s.blk failed = false →
    (warm s.blk n = false → Answers (.spareClaim t n failed rank q) s fun b => b = emit s.blk (.order q (.noResource t rank))) ∧
    (warm s.blk n = true → Answers (.spareClaim t n failed rank q) s fun b =>
      (getTen b t).places = setNth (getTen s.blk t).places rank (slotPlace s.blk n) ∧ (getSlot b n).role = roleActive ∧
        (getSlot b n).tenant = t.val)) ∧
  (∀ (t : Fin 1024) (rank : Nat) (q : Place) (s : State), (getTen s.blk t).rec'.tip = none → (getTen s.blk t).rec'.phase ≠ .acting →
    let old := nthD 0 (getTen s.blk t).places rank
    Answers (.placeListUpdate t rank q) s fun b => (getTen b t).places = setNth (getTen s.blk t).places rank q ∧
      (onTray s.blk old = true → old ≠ q → rank < (getTen s.blk t).places.length →
        (getSlot b (placeSlot old)).role = roleWithdrawn)) ∧
  (∀ (iss : Issuer) (p : TipInP) (s : State), let t := iss.tenant.val
    let x := getTen s.blk t
    let failed := accelOf (nthD 0 x.places p.rank)
    isAdmin s.blk iss = true → p.rsv = false → p.rank < x.places.length → placeLevel p.spare = 1 → placeOk p.spare = true →
    p.resultAddr % 32 = 0 →
    (tenantHeld s.blk t = false → Answers (.tipIn iss p) s fun b => Replied iss 0x0604 stRefused s.blk b) ∧
    (tenantHeld s.blk t = true → recBusy s.blk t = false → x.rec'.tip = none →
      (onTray s.blk p.spare = false → Answers (.tipIn iss p) s fun b =>
        b.out = s.blk.out ++ [.order (trayOf p.spare) (.claim t p.rank p.spare failed)] ∧ b.host.done = s.blk.host.done ∧
        ∃ w, (getTen b t).rec'.tip = some w ∧ w.iss = iss ∧ w.rank = p.rank) ∧
      (onTray s.blk p.spare = true → onTray s.blk failed = false → warm s.blk (placeSlot p.spare) = false →
        Answers (.tipIn iss p) s fun b => Replied iss 0x0604 stNoResource s.blk b) ∧
      (onTray s.blk p.spare = true → onTray s.blk failed = false → warm s.blk (placeSlot p.spare) = true → p.restore = false →
        Answers (.tipIn iss p) s fun b => Replied iss 0x0604 stOk s.blk b ∧
          (getTen b t).places = setNth x.places p.rank (slotPlace s.blk (placeSlot p.spare)))))


/-! ## Links (chapter 12) -/

/-- R309-R311: frames are acknowledged, refused, replayed, and a link without progress fails.
Choices of the model: log entries 10, 56, 158. -/
def Obligations.LinkFrames : Prop :=
  ∀ (l : Fin 24) (s : State),
    let k := getLink s.blk l
    let live := k.state = .up ∨ k.state = .retuning ∨ k.state = .changing
    let failed (b : Block) : Prop := (getLink b l).state = .training ∧ (getLink b l).trainKind = .fast ∧
      leafBit b (lkLeaf l) 5 = true ∧ (l.val < 8 → (getPort b l).grade = .failed) ∧
      (8 ≤ l.val → (getSn b (l - 8)).tetherUp = false)
    let due := k.waitFrom + k.rtt + 1000 ≤ nowNs s.blk
    (∀ f : LinkFrame, (¬live → Answers (.linkFrame l f) s fun b => b = s.blk) ∧
      (live → f.kind = 1 → f.ackValid = false → frameWhole f = true → f.fseq = k.rxFseq →
        Answers (.linkFrame l f) s fun b => (getLink b l).rxFseq = k.rxFseq + 1 ∧ (getLink b l).rxDiscard = false ∧
          b.out = s.blk.out ++ [.linkAck l false f.fseq] ∧ ∀ i n, (i, n) ∈ [(1, 1), (3, f.length), (4, f.corrected), (9, f.units)] →
            tabGet 0 b.obs.counters (portCounter l i) = tabGet 0 s.blk.obs.counters (portCounter l i) + BitVec.ofNat 64 n) ∧
      (live → f.kind = 1 → f.ackValid = false → frameWhole f = false ∨ f.fseq ≠ k.rxFseq →
        Answers (.linkFrame l f) s fun b => (getLink b l).rxFseq = k.rxFseq ∧ (getLink b l).rxDiscard = true ∧
          (k.rxDiscard = false → b.out = s.blk.out ++ [.linkAck l true (k.rxFseq - 1)]) ∧
          (k.rxDiscard = true → b.out = s.blk.out)) ∧
      (∀ i, live → f.ackValid = true → f.nak = false → frameWhole f = true →
        ackIndex k.txUnacked f.ack = some i → k.txWait = [] → Answers (.linkFrame l f) s fun b =>
          (getLink b l).txUnacked = k.txUnacked.drop (i + 1) ∧ (getLink b l).noProgress = 0 ∧
          (f.kind ≠ 1 → b.out = s.blk.out) ∧
          (l.val < 8 → ∀ hd x, TxUnit.cell hd x ∈ k.txUnits.take (i + 1) →
            ∀ c ∈ (getHop b (portHop l)).unacked, c.1.seq ≠ hd.seq ∨ c.2 ≠ x)) ∧
      (∀ x r, live → f.kind ≠ 1 → f.ackValid = true → f.nak = true → frameWhole f = true →
        k.txUnacked = x :: r → ackIndex k.txUnacked f.ack = none → k.noProgress + 1 < 8 → Answers (.linkFrame l f) s fun b =>
          b.out = s.blk.out ++ [.linkReplay l x] ∧ (getLink b l).noProgress = k.noProgress + 1)) ∧
    (∀ x r, live → due → k.txUnacked = x :: r →
      (k.noProgress + 1 < 8 → Answers (.replayTimeout l) s fun b => b.out = s.blk.out ++ [.linkReplay l x] ∧
        (getLink b l).noProgress = k.noProgress + 1 ∧ (getLink b l).replay = k.replay + 1) ∧
      (8 ≤ k.noProgress + 1 → Answers (.replayTimeout l) s failed)) ∧
    (¬live ∨ ¬due ∨ k.txUnacked = [] → Answers (.replayTimeout l) s fun b => b = s.blk) ∧
    (live → Answers (.linkFailed l) s failed) ∧ (¬live → Answers (.linkFailed l) s fun b => b = s.blk)

/-- R308, R314, R316-R318, Tables 12.4 and 12.5: bad lanes, width changes, lanes that are clean again, and module flags.
Choices of the model: log entries 24, 169. -/
def Obligations.LinkWidths : Prop :=
  ∀ (l : Fin 24) (s : State),
    let k := getLink s.blk l
    let own := formWidth (laneMask k laneReady) k.maxWidth
    let live := k.state = .up ∨ k.state = .changing
    (∀ i : Fin 4, let x := tabGet {} k.lanes i
      let recent := (x.bad.filter fun t => decide (nowNs s.blk < t + 60 * nsPerSec)) ++ [nowNs s.blk]
      let good := laneMask { k with lanes := tabPut k.lanes i { x with isBad := true } } laneReady
      let w := (formWidth good k.maxWidth).1
      (x.inUse = false ∨ k.state = .down ∨ k.state = .training ∨ k.state = .failed → Answers (.laneBad l i) s fun b => tabGet {} (getLink b l).lanes i =
        { x with bad := recent, isBad := true, clean := false, cleanFrom := nowNs s.blk, quarantined := x.quarantined || decide (3 ≤ recent.length) } ∧
        (3 ≤ recent.length → x.quarantined = false → leafBit b (lkLeaf l) 2 = true)) ∧
      (x.inUse = true → live → w ≠ 0 → Answers (.laneBad l i) s fun b => (getLink b l).state = .changing ∧
        (getLink b l).widthReqSent = some (w, good) ∧ Sent s.blk b (ownLcs s.blk l (.widthReq (BitVec.ofNat 3 w) good))) ∧
      (x.inUse = true → live → w = 0 → Answers (.laneBad l i) s fun b => (getLink b l).state = .training ∧
        leafBit b (lkLeaf l) 5 = true) ∧
      (x.selftest = true → x.inUse = false → x.quarantined = false → x.cleanFrom + 10 * nsPerSec ≤ nowNs s.blk →
        let k1 := { k with lanes := tabPut k.lanes i { x with clean := true, isBad := false, lock := true, moduleFlag := false } }
        let wide := formWidth (laneMask k1 laneReady) k.maxWidth
        Answers (.laneSelftestClean l i) s fun b => (getLink b l).lanes = k1.lanes ∧
          (k.leader = true → k.state = .up → k.width < wide.1 →
            (getLink b l).widenTo = some (wide.2, nowNs s.blk + 1000000) ∧
            b.out = s.blk.out ++ [ownLcs s.blk l (.widthGo wide.2 true ((nowNs s.blk + 1000000) % 2 ^ 48))]) ∧
          (k.leader = false → k.state = .up → k.width < wide.1 →
            b.out = s.blk.out ++ [ownLcs s.blk l (.widthReq (BitVec.ofNat 3 wide.1) (laneMask k1 laneReady))]) ∧
          (k.state ≠ .up ∨ wide.1 ≤ k.width → b.out = s.blk.out)) ∧
      (x.selftest = false ∨ x.inUse = true ∨ x.quarantined = true ∨ nowNs s.blk < x.cleanFrom + 10 * nsPerSec →
        Answers (.laneSelftestClean l i) s fun b => b = s.blk)) ∧
    (∀ (h : LcsHdr) (width : BitVec 3) (good : BitVec 4),
      let set := Lcs.widthReq width good
      let mine := k.widthReqSent.getD (own.1, laneMask k laneReady)
      let got := formWidth (mine.2 &&& good) (min mine.1 width.toNat)
      let same := got.1 = k.width ∧ got.2 = laneMask k (·.inUse) ∧ k.widthReqSent = none
      (lcsFresh s.blk l h set = false → Answers (.widthReq l h width good) s fun b => b = s.blk) ∧
      (lcsFresh s.blk l h set = true → live → k.leader = true →
        (got.1 = 0 → Answers (.widthReq l h width good) s fun b => (getLink b l).state = .training ∧
          leafBit b (lkLeaf l) 5 = true) ∧
        (got.1 ≠ 0 → got.1 ≤ k.width → ¬same → Answers (.widthReq l h width good) s fun b => (getLink b l).state = .up ∧
          (getLink b l).width = maskWidth got.2 ∧ (getLink b l).widthReqSent = none ∧
          (maskWidth got.2 < k.width → leafBit b (lkLeaf l) 1 = true) ∧
          Sent s.blk b (ownLcs s.blk l (.widthGo got.2 false ((k.txUnacked.head?).getD k.txFseq).toNat))) ∧
        (got.1 ≠ 0 → same → Answers (.widthReq l h width good) s fun b => b = lcsTaken s.blk l h set) ∧
        (k.width < got.1 → Answers (.widthReq l h width good) s fun b =>
          (getLink b l).widenTo = some (got.2, nowNs s.blk + 1000000) ∧
          b.out = s.blk.out ++ [ownLcs s.blk l (.widthGo got.2 true ((nowNs s.blk + 1000000) % 2 ^ 48))])) ∧
      (lcsFresh s.blk l h set = true → live → k.leader = false →
        (k.widthReqSent = none → own.1 ≠ 0 → Answers (.widthReq l h width good) s fun b =>
          (getLink b l).state = .changing ∧
          b.out = s.blk.out ++ [ownLcs s.blk l (.widthReq (BitVec.ofNat 3 own.1) (laneMask k laneReady))]) ∧
        (k.widthReqSent ≠ none → Answers (.widthReq l h width good) s fun b => b = lcsTaken s.blk l h set))) ∧
    (∀ (h : LcsHdr) (lanes : BitVec 4) (go : Nat) (atTime : Bool),
      let set := Lcs.widthGo lanes atTime go
      (lcsFresh s.blk l h set = false → Answers (.widthGo l h lanes atTime go) s fun b => b = s.blk) ∧
      (lcsFresh s.blk l h set = true → live → lanes ≠ 0 →
        (k.leader = false → atTime = false → Answers (.widthGo l h lanes atTime go) s fun b => (getLink b l).state = .up ∧
          (getLink b l).width = maskWidth lanes ∧ (getLink b l).widthReqSent = none) ∧
        (k.leader = false → atTime = true → Answers (.widthGo l h lanes atTime go) s fun b =>
          let taken := lcsTaken s.blk l h set
          b = setLink taken l { getLink taken l with widenTo := some (lanes, wrap48 (nowNs s.blk) go) }) ∧
        (k.leader = true → Answers (.widthGo l h lanes atTime go) s fun b => b = lcsTaken s.blk l h set))) ∧
    (∀ lanes t, k.widenTo = some (lanes, t) →
      (t ≤ nowNs s.blk → k.state = .up → Answers (.widenAt l) s fun b => (getLink b l).width = maskWidth lanes ∧
        (getLink b l).widenTo = none ∧ (getLink b l).pausedUntil = nowNs s.blk + 2000) ∧
      (t ≤ nowNs s.blk → k.state ≠ .up → Answers (.widenAt l) s fun b => b = setLink s.blk l { k with widenTo := none }) ∧
      (nowNs s.blk < t → Answers (.widenAt l) s fun b => b = s.blk)) ∧
    (∀ (pf : Fin 4) (lanes : BitVec 4),
      (pf.val = s.blk.ident.adminPf → Answers (.laneReadmitWrite pf l lanes) s fun b => ∀ i, i < 4 →
        tabGet {} (getLink b l).lanes i = (let x := tabGet {} k.lanes i
          if lanes.getLsbD i && x.quarantined then
            { x with quarantined := false, selftest := !x.inUse, clean := false, cleanFrom := nowNs s.blk } else x)) ∧
      (pf.val ≠ s.blk.ident.adminPf → Answers (.laneReadmitWrite pf l lanes) s fun b => b = badSource s.blk pf (lkOff l))) ∧
    (∀ (p : Fin 8) (i : Fin 4), (Answers (.moduleFlag p i false) s fun b =>
        leafBit b (.lkS p) 7 = true ∧ getLink b p = getLink s.blk p) ∧
      ((getLink s.blk p).state = .down → Answers (.moduleFlag p i true) s fun b => leafBit b (.lkS p) 7 = true ∧
        let x := tabGet {} (getLink b p).lanes i
        x.moduleFlag = true ∧ x.lock = false ∧ x.isBad = true))

/-- R319-R322, Tables 12.6 and 12.7: retunes are asked for, named, waited for and begun; LK_BER and the grade of a rail.
Choices of the model: log entry 54. -/
def Obligations.LinkRetunes : Prop :=
  ∀ (l : Fin 24) (s : State),
    let k := getLink s.blk l
    let begun (b : Block) : Prop := (getLink b l).state = .retuning ∧ (getLink b l).slotPending = false ∧
      (getLink b l).slot = none ∧
      tabGet 0 b.obs.counters (portCounter l 13) = tabGet 0 s.blk.obs.counters (portCounter l 13) + 1
    let soon := freeTime s.blk 64 (nowNs s.blk + 1000000)
    (∀ h : LcsHdr, (lcsFresh s.blk l h .retuneReq = false → Answers (.retuneReq l h) s fun b => b = s.blk) ∧
      (lcsFresh s.blk l h .retuneReq = true → k.state = .up ∨ k.state = .changing →
        (k.leader = true → k.slot = none → Answers (.retuneReq l h) s fun b => (getLink b l).slotPending = true ∧
          (getLink b l).slot = some soon ∧ b.out = s.blk.out ++ [ownLcs s.blk l (.retuneGo soon)]) ∧
        (k.leader = true ∧ k.slot ≠ none ∨ k.leader = false ∧ k.retuneReqSent = true →
          Answers (.retuneReq l h) s fun b => b = lcsTaken s.blk l h .retuneReq) ∧
        (k.leader = false → k.retuneReqSent = false → Answers (.retuneReq l h) s fun b => (getLink b l).slotPending = true ∧
          (getLink b l).retuneReqSent = true ∧ (getLink b l).slotReqAt = nowNs s.blk ∧
          b.out = s.blk.out ++ [ownLcs s.blk l .retuneReq])) ∧
      (∀ t, lcsFresh s.blk l h (.retuneGo t) = false → Answers (.retuneGo l h t) s fun b => b = s.blk) ∧
      (∀ t, lcsFresh s.blk l h (.retuneGo t) = true → k.state = .up ∨ k.state = .changing →
        (k.leader = false → Answers (.retuneGo l h t) s fun b =>
          let taken := lcsTaken s.blk l h (.retuneGo t)
          b = setLink taken l { getLink taken l with slotPending := true, slot := some (wrap48 (nowNs s.blk) (t % 2 ^ 48)) }) ∧
        (k.leader = true → Answers (.retuneGo l h t) s fun b => b = lcsTaken s.blk l h (.retuneGo t)))) ∧
    (∀ ber, (k.marginEn = false → Answers (.berWindow l ber) s fun b => b = s.blk) ∧
      (k.marginEn = true → l.val < 8 → (getPort s.blk l).state = .active → (getPort s.blk l).lastUncorr = none →
        Answers (.berWindow l ber) s fun b => (getPort b l).grade = if ber < 1000000 then .good else .marginal) ∧
      (k.marginEn = true → 8 ≤ l.val → k.state = .up →
        (ber < k.marginBer → Answers (.berWindow l ber) s fun b => b = setLink s.blk l { k with ber := min ber (2 ^ 32 - 1) }) ∧
        (k.marginBer ≤ ber → k.urgentBer ≤ ber → Answers (.berWindow l ber) s fun b =>
          begun b ∧ leafBit b (lkLeaf l) 4 = true ∧ Sent s.blk b (ownLcs s.blk l .retuneReq)) ∧
        (k.marginBer ≤ ber → ber < k.urgentBer → k.slotPending = false → slotAtOnce s.blk l = false →
          Answers (.berWindow l ber) s fun b => leafBit b (lkLeaf l) 3 = true ∧ (getLink b l).state = .up ∧
            (getLink b l).slotPending = true ∧ (getLink b l).slotReqAt = nowNs s.blk))) ∧
    (∀ t, k.slot = some t → k.slotPending = true → k.state = .up →
      (t ≤ nowNs s.blk → Answers (.retrainSlot l) s begun) ∧ (nowNs s.blk < t → Answers (.retrainSlot l) s fun b => b = s.blk)) ∧
    (k.slot = none → k.slotPending = true → k.state = .up → slotAtOnce s.blk l = true → Answers (.retrainSlot l) s begun) ∧
    (k.slotPending = false ∨ k.state ≠ .up ∨ k.slot = none ∧ slotAtOnce s.blk l = false →
      Answers (.retrainSlot l) s fun b => b = s.blk) ∧
    (k.slotPending = true → k.slot = none → k.slotReqAt + k.slotMaxS * nsPerSec ≤ nowNs s.blk →
      Answers (.lkSlotMaxExpiry l) s fun b => (getLink b l).slot = some (nowNs s.blk + 1000000) ∧
        (k.leader = true → b.out = s.blk.out ++ [ownLcs s.blk l (.retuneGo (nowNs s.blk + 1000000))])) ∧
    (∀ pf : Fin 4,
      (pf.val ≠ s.blk.ident.adminPf → Answers (.retune pf l) s fun b => b = badSource s.blk pf (lkOff l)) ∧
      (pf.val = s.blk.ident.adminPf → k.state = .up → k.slotPending = false →
        (slotAtOnce s.blk l = true → Answers (.retune pf l) s fun b => begun b ∧ Sent s.blk b (ownLcs s.blk l .retuneReq)) ∧
        (8 ≤ l.val → slotAtOnce s.blk l = false → Answers (.retune pf l) s fun b => (getLink b l).slotPending = true ∧
          (getLink b l).slotReqAt = nowNs s.blk ∧ b.out = s.blk.out) ∧
        (l.val < 8 → slotAtOnce s.blk l = false → k.leader = true → Answers (.retune pf l) s fun b =>
          (getLink b l).slot = some soon ∧ b.out = s.blk.out ++ [ownLcs s.blk l (.retuneGo soon)]) ∧
        (l.val < 8 → slotAtOnce s.blk l = false → k.leader = false → Answers (.retune pf l) s fun b =>
          (getLink b l).slotPending = true ∧ (getLink b l).retuneReqSent = true ∧
          b.out = s.blk.out ++ [ownLcs s.blk l .retuneReq])))

/-- R22, R25, R120, R254, R313-R315, Tables 12.3 and 12.4: full trainings, their TRAIN messages, and how a training ends.
Choices of the model: log entries 54, 55, 169, 172. -/
def Obligations.LinkTraining : Prop :=
  ∀ (l : Fin 24) (s : State),
    let k := getLink s.blk l
    let d := linkDom l
    (∀ pf : Fin 4, pf.val = s.blk.ident.adminPf → (getDom s.blk d).withdrawn = false → (getDom s.blk d).holdReset = false →
      (getDom s.blk d).inReset = false → recentResets s.blk d + 1 < s.blk.hr.escCount → mayTrain s.blk l = true →
      Answers (.fullTrain pf l) s fun b => (getLink b l).state = .training ∧ (getLink b l).trainKind = .full ∧
        (getLink b l).trainFails = 0 ∧ (getDom b d).inReset = false ∧ (getDom b d).edition = (getDom s.blk d).edition + 1) ∧
    (∀ (h : LcsHdr) (lanes : BitVec 4) (full : Bool),
      let set := Lcs.train lanes full
      let taken := lcsTaken s.blk l h set
      let fits := h.place ≠ ownPlace s.blk ∧ inRing s.blk (hopRing s.blk (portHop l)) h.place = true ∧
        inOrder s.blk l h.place = true ∧ h.port.val = partnerPort l
      (lcsFresh s.blk l h set = false → Answers (.train l h lanes full) s fun b => b = s.blk) ∧
      (lcsFresh s.blk l h set = true → k.state = .training →
        (8 ≤ l.val → Answers (.train l h lanes full) s fun b =>
          b = setLink taken l { getLink taken l with nbr := h.place, nbrPort := h.port.val, peerLanes := lanes }) ∧
        (l.val < 8 → fits → Answers (.train l h lanes full) s fun b => (getPort b l).nbr = h.place ∧
          (getPort b l).nbrPort = h.port.val ∧ (getLink b l).peerLanes = lanes ∧ (getLink b l).state = .training) ∧
        (l.val < 8 → ¬fits → Answers (.train l h lanes full) s fun b => (getPort b l).state = .miscabled ∧
          (getLink b l).state = .down ∧ leafBit b .sp 1 = true)) ∧
      (lcsFresh s.blk l h set = true → k.state = .down → full = false → Answers (.train l h lanes full) s fun b => b = taken) ∧
      (lcsFresh s.blk l h set = true → k.state = .failed → 8 ≤ l.val → Answers (.train l h lanes full) s fun b =>
        (getLink b l).state = .training ∧ (getLink b l).peerLanes = lanes ∧ Sent s.blk b (ownLcs s.blk l (.train
          (foldOver (fun m i => if (tabGet {} k.lanes i).lock then putBit m i true else m) 0 (upFrom 0 4)) full)))) ∧
    (∀ rtt : Nat, k.state = .training → k.trainKind = .full →
      (8 ≤ l.val → k.heldArrive = none → (getSn s.blk (l - 8)).sentS = [] → Answers (.trainingComplete l .full true rtt) s fun b =>
        (getLink b l).state = .up ∧ (getLink b l).rtt = rtt ∧ (getLink b l).leader = false ∧
        (getSn b (l - 8)).tetherUp = (getSn s.blk (l - 8)).powered ∧
        (getSn b (l - 8)).portEdition = (getDom s.blk (16 + l)).edition ∧ (getSn b (l - 8)).brokenIn = []) ∧
      (l.val < 8 → Answers (.trainingComplete l .full true rtt) s fun b => (getLink b l).state = .up ∧
        (getLink b l).leader = decide ((ownPlace s.blk).toNat < k.nbr.toNat) ∧ (getPort b l).grade = .ungraded ∧
        tabGet 0 b.obs.counters (portCounter l 14) = tabGet 0 s.blk.obs.counters (portCounter l 14) + 1) ∧
      (k.trainFails + 1 < 3 → Answers (.trainingComplete l .full false rtt) s fun b =>
        (getLink b l).state = .training ∧ (getLink b l).trainFails = k.trainFails + 1) ∧
      (3 ≤ k.trainFails + 1 → Answers (.trainingComplete l .full false rtt) s fun b =>
        (getLink b l).state = .down ∧ (getLink b l).trainFails = 3 ∧ leafBit b (lkLeaf l) 6 = true ∧
        (l.val < 8 → (getPort b l).state = .down ∧
          ((∀ p ∈ hopPorts (portHop l), p = l.val ∨ railDown s.blk p = true ∧ railTrains s.blk p = false) →
            (getHop b (portHop l)).folded = true)))) ∧
    (∀ rtt : Nat, k.state = .training → k.trainKind = .fast → k.fastFails + 1 < 2 →
      Answers (.trainingComplete l .fast false rtt) s fun b => (getLink b l).state = .training ∧
        (getLink b l).fastFails = k.fastFails + 1 ∧ leafBit b (lkLeaf l) 5 = true) ∧
    (∀ rtt : Nat, k.state = .retuning → k.heldArrive = none → k.txWait = [] → Answers (.trainingComplete l .retune true rtt) s fun b =>
      (getLink b l).state = .up ∧ b.out = s.blk.out)


/-! ## Binding memory and clocks (chapter 12) -/

/-- R323, R324: DIMM temperatures, retraining of a channel, its retry, and uncorrectable errors.
Choices of the model: log entry 53. -/
def Obligations.BindingMemory : Prop :=
  ∀ (c : Fin 8) (s : State),
    let x := getDdr s.blk c
    let held := (getDom s.blk 18).inReset = false ∧ (getPll s.blk 3).stopped = false ∧
      (x.trained = true → s.blk.ck.lastRetrain = 0 ∨ s.blk.ck.lastRetrain + 10000000 ≤ nowNs s.blk)
    let n (i : Nat) (b : Block) : W64 := tabGet 0 b.obs.counters (ddrCounter c i)
    (∀ temps : List Int, let moved := ∃ t ∈ chTemps s.blk temps c, s.blk.ck.tempDelta ≤ (t - x.tempTrained).natAbs
      (moved → x.trained = true → s.blk.ck.autoRetrain = true → Answers (.ddrTempPoll temps) s fun b =>
        (getDdr b c).pending = true ∧ (getDdr b c).tempTrained = x.tempTrained) ∧
      (¬moved → Answers (.ddrTempPoll temps) s fun b => (getDdr b c).pending = x.pending)) ∧
    (∀ ok, x.pending = false → Answers (.ddrChannelRetrain c ok) s fun b => b = s.blk) ∧
    (held → x.pending = true →
      (Answers (.ddrChannelRetrain c true) s fun b => getDdr b c =
          { x with pending := false, failedAt := none, trained := true, tempTrained := x.tempNow } ∧
        b.ck.lastRetrain = nowNs s.blk ∧ (x.trained = true → n 4 b = n 4 s.blk + 1 ∧ leafBit b .ck 7 = true ∧
          ∃ k, k ≤ 1500000 ∧ n 5 b = n 5 s.blk + BitVec.ofNat 64 k)) ∧
      (Answers (.ddrChannelRetrain c false) s fun b => getDdr b c =
        { x with pending := false, failedAt := some (nowNs s.blk) } ∧ leafBit b .ck 8 = true)) ∧
    (∀ t, x.failedAt = some t → t + nsPerSec ≤ nowNs s.blk → Answers (.ddrRetrainRetry c) s fun b =>
      b = setDdr s.blk c { x with failedAt := none, pending := true }) ∧
    ((∀ t, x.failedAt = some t → nowNs s.blk < t + nsPerSec) → Answers (.ddrRetrainRetry c) s fun b => b = s.blk) ∧
    (∀ pf : Fin 4, (pf.val = s.blk.ident.adminPf → Answers (.retrainNow pf) s fun b =>
        (getDdr b c).pending = true ∧ (getDdr b c).trained = x.trained) ∧
      (pf.val ≠ s.blk.ident.adminPf → Answers (.retrainNow pf) s fun b => b = badSource s.blk pf 0x31000)) ∧
    (∀ addr : Nat, Answers (.ddrUe addr) s fun b => b.ck.ue = s.blk.ck.ue + 1 ∧ leafBit b .ck 9 = true ∧
      leafBit b .ddrUe 0 = true ∧
      ((∀ k, k < 8 → (getDdr s.blk k).failedAt = none) → b.bd.extents = s.blk.bd.extents.map (losePage addr) ∧
        getDom b 18 = getDom s.blk 18) ∧
      (x.failedAt ≠ none → (getDom b 18).inReset = true))

/-- R325-R332, Tables 12.8, 12.9 and 12.14: locks and losses, references, drift, spread and the frequency of CPLL.
Choices of the model: log entry 53. -/
def Obligations.ClockTree : Prop :=
  (∀ (p : Fin 12) (s : State), let x := getPll s.blk p
    let other := getRef s.blk (bit (!x.srcB))
    let lost (b : Block) : Prop := (getPll b p).state = .relocking ∧ (getPll b p).stopped = true ∧
      (getPll b p).lostAt = nowNs s.blk
    let out (d : Int) : Prop := 10 * s.blk.ck.driftPpm < d.natAbs
    (∀ busy, (x.state = .ready → Answers (.lockLoss p busy) s fun b => lost b ∧ leafBit b .ck 1 = true ∧
        (getPll b p).losses = min 65535 (x.losses + 1) ∧ (p = 2 → b.time.degraded = true) ∧
        (p = 3 → busy ≠ 0 → (getDom b 18).inReset = true)) ∧
      (x.state ≠ .ready → Answers (.lockLoss p busy) s fun b => b = s.blk)) ∧
    (x.state ≠ .ready → x.state ≠ .failed → (getRef s.blk (bit x.srcB)).present = true → (p = 1 → s.blk.fw.tasks = []) →
      Answers (.pllReady p) s fun b =>
        getPll b p = { x with state := .ready, stopped := false } ∧ (p = 2 → b.time.degraded = false)) ∧
    (x.state = .ready ∨ x.state = .failed ∨ (getRef s.blk (bit x.srcB)).present = false →
      Answers (.pllReady p) s fun b => b = s.blk) ∧
    (x.state ≠ .relocking ∨ nowNs s.blk < x.lostAt + 100000 → Answers (.pllFailed p) s fun b => b = s.blk) ∧
    (x.state = .relocking → x.lostAt + 100000 ≤ nowNs s.blk →
      (p ≠ 1 ∨ s.blk.ck.mpllAuto = false ∨ other.ready = false → Answers (.pllFailed p) s fun b =>
        getPll b p = { x with state := .failed } ∧ leafBit b .ck 2 = true) ∧
      (p = 1 → s.blk.ck.mpllAuto = true → other.ready = true → Answers (.pllFailed p) s fun b =>
        lost b ∧ (getPll b p).srcB = !x.srcB ∧ leafBit b .ck 2 = true)) ∧
    (∀ (pf : Fin 4) (v : W32),
      (pf.val ≠ s.blk.ident.adminPf → Answers (.ckPllWrite pf p v) s fun b => b = badSource s.blk pf (0x30100 + 4 * p)) ∧
      (pf.val = s.blk.ident.adminPf → v.getLsbD 4 = false →
        (v.getLsbD 0 = x.srcB → Answers (.ckPllWrite pf p v) s fun b => b = s.blk) ∧
        (v.getLsbD 0 ≠ x.srcB → other.ready = false → Answers (.ckPllWrite pf p v) s fun b =>
          getPll b p = x ∧ leafBit b .ck 0 = true) ∧
        (v.getLsbD 0 ≠ x.srcB → other.ready = true → Answers (.ckPllWrite pf p v) s fun b => (getPll b p).srcB = !x.srcB ∧
          (p ≠ 2 → x.state = .ready → lost b) ∧
          (p = 2 → x.state = .ready → (getRef s.blk (bit x.srcB)).ready = true → (getPll b p).state = .ready))) ∧
      (pf.val = s.blk.ident.adminPf → v.getLsbD 4 = true → v.getLsbD 0 = x.srcB → x.state = .failed →
        Answers (.ckPllWrite pf p v) s fun b => b = setPll s.blk p { x with state := .relocking, lostAt := nowNs s.blk })) ∧
    (fwRuns s.blk = true → ¬out s.blk.ck.dAB → ¬out s.blk.ck.dAS → ¬out s.blk.ck.dBS → p ≠ 2 → x.state = .ready →
      (getRef s.blk (bit x.srcB)).drift = true → other.ready = true →
      (getRef s.blk (bit (getPll s.blk 2).srcB)).drift = false → Answers (.driftMove p) s fun b =>
        lost b ∧ (getPll b p).srcB = !x.srcB) ∧
    ((getRef s.blk (bit x.srcB)).drift = false → Answers (.driftMove p) s fun b => b = s.blk)) ∧
  (∀ (r : Fin 3) (s : State), (Answers (.refAbsent r) s fun b => (getRef b r).present = false ∧ (getRef b r).ready = false ∧
      leafBit b .ck 6 = true ∧ ∀ p, p < 12 → r.val < 2 → (getPll s.blk p).srcB = (r == 1) → (getPll s.blk p).state = .ready →
        (getPll b p).state = .relocking ∧ (getPll b p).stopped = true) ∧
    ((getRef s.blk r).present = false → Answers (.referencePresent r) s fun b =>
      b = setRef s.blk r { getRef s.blk r with present := true, fresh := true }) ∧
    ((getRef s.blk r).present = true → Answers (.referencePresent r) s fun b => b = s.blk)) ∧
  (∀ (dAB dAS dBS : Int) (s : State), let out (d : Int) : Prop := 10 * s.blk.ck.driftPpm < d.natAbs
    let a := getRef s.blk 0
    s.blk.ck.driftEn = true →
    (out dAB → out dAS → ¬out dBS → Answers (.driftWindow dAB dAS dBS) s fun b =>
      (getRef b 0).drift = true ∧ (getRef b 0).ready = false ∧ leafBit b .ck 3 = true) ∧
    (out dAB → out dBS → ¬out dAS → Answers (.driftWindow dAB dAS dBS) s fun b =>
      (getRef b 1).drift = true ∧ (getRef b 1).ready = false ∧ leafBit b .ck 3 = true) ∧
    (out dAS → out dBS → ¬out dAB → Answers (.driftWindow dAB dAS dBS) s fun b => leafBit b .ck 5 = true) ∧
    (out dAB → ¬out dAS → ¬out dBS → Answers (.driftWindow dAB dAS dBS) s fun b => leafBit b .ck 4 = true) ∧
    (¬out dAB → ¬out dAS → ¬out dBS → Answers (.driftWindow dAB dAS dBS) s fun b =>
      (getRef b 0).cleanWindows = a.cleanWindows + 1 ∧
      (getRef b 0).drift = (a.drift && decide (a.cleanWindows + 1 < 16)) ∧
      (getRef b 0).ready = (a.present && !a.fresh && !(getRef b 0).drift) ∧ (getRef b 0).fresh = false ∧ b.ck.dAB = dAB ∧ b.ck.dAS = dAS ∧ b.ck.dBS = dBS)) ∧
  (∀ (pf : Fin 4) (i : Fin 2) (v : W32) (s : State), pf.val = s.blk.ident.adminPf →
    let x : Ssc := tabGet {} s.blk.ck.ssc i
    let f := field v 0 5
    (x.en = false → field v 1 5 ≤ 20 → within 30 63 (field v 6 6) = true → Answers (.ckSscWrite pf i v) s fun b =>
      tabGet {} b.ck.ssc i = { x with en := v.getLsbD 0, depth := field v 1 5, freq := field v 6 6 }) ∧
    (x.en = true → field v 1 5 ≠ x.depth → field v 6 6 = x.freq → Answers (.ckSscWrite pf i v) s fun b =>
      tabGet {} b.ck.ssc i = { x with en := v.getLsbD 0 } ∧ leafBit b .ck 0 = true) ∧
    (within 20 30 f = false → Answers (.ckCpllFreqWrite pf v) s fun b =>
      b.ck.cpllFreq = s.blk.ck.cpllFreq ∧ leafBit b .ck 0 = true) ∧
    (within 20 30 f = true → f ≠ s.blk.ck.cpllFreq → (getPll s.blk 0).state = .ready → Answers (.ckCpllFreqWrite pf v) s fun b =>
      b.ck.cpllFreq = f ∧ (getPll b 0).state = .relocking ∧ (getPll b 0).stopped = true) ∧
    (f = s.blk.ck.cpllFreq → within 20 30 f = true → Answers (.ckCpllFreqWrite pf v) s fun b => b = s.blk))

/-! ## The host interface (chapter 13) -/

/-- R335-R340, R224, R353, R354, Table 13.14: events on host and storage links, function-level resets, changes of SR-IOV, and
the interrupt registers of a PF and of a VF. Choices of the model: log entries 123, 166. -/
def Obligations.HostLinksAndInterrupts : Prop :=
  ((∀ (l : Fin 4) (ev : HostLinkEvent) (s : State), Answers (.hostLinkDown l ev) s fun b =>
    ∀ f ∈ linkPfs s.blk.ident.hostSplit l, leafBit b (.hl f) 1 = true ∧
      ((getDom s.blk (20 + f)).inReset = false → (getDom b (20 + f)).inReset = true ∧
        (getDom b (20 + f)).edition = (getDom s.blk (20 + f)).edition + 1 ∧ ∀ r ∈ b.host.rings, srcPf r.1 ≠ f)) ∧
  (∀ (l : Fin 4) (unc : Bool) (s : State), Answers (.hostAerError l unc) s fun b =>
    ∀ f ∈ linkPfs s.blk.ident.hostSplit l, leafBit b (.hl f) (if unc then 5 else 6) = true ∧
      tabGet 0 b.obs.counters (pfCounter f 7) = tabGet 0 s.blk.obs.counters (pfCounter f 7) + (if unc then 0 else 1)) ∧
  (∀ (pf : Fin 4) (s : State), Answers (.flr pf) s fun b => leafBit b (.hl pf) 2 = true ∧
    ((getDom s.blk (20 + pf)).inReset = false → (getDom b (20 + pf)).inReset = true ∧
      (∀ r ∈ b.host.rings, srcPf r.1 ≠ pf.val) ∧ (∀ c ∈ b.host.outstanding, c.iss.pf ≠ pf) ∧
      (getPf b pf).irqPinEn = (getPf s.blk pf).irqPinEn)) ∧
  (∀ (pf : Fin 4) (vf : Fin 257) (s : State),
    (vfThere s.blk pf vf = true → Answers (.vfFlr pf vf) s fun b => leafBit b (.hl pf) 3 = true ∧
      (∀ x ∈ b.host.rings, x.1 = .vf pf vf → x.2.2.en = false) ∧
      (∀ c ∈ b.host.outstanding, ¬(c.iss.pf = pf ∧ c.iss.vf = vf)) ∧
      (getVf b pf vf).intPend = 0 ∧ (getVf b pf vf).intEn = 0 ∧ (getVf b pf vf).tenant = (getVf s.blk pf vf).tenant) ∧
    (vfThere s.blk pf vf = false → Answers (.vfFlr pf vf) s fun b => b = s.blk)) ∧
  (∀ (pf : Fin 4) (on : Bool) (n : Fin 257) (s : State), Answers (.sriovChange pf on n) s fun b =>
    (getPf b pf).sriov = on ∧ (getPf b pf).numVfs = n.val ∧ ∀ v, (on = true ∧ 1 ≤ v ∧ v ≤ n.val →
        (getVf b pf v).tenant = (getVf s.blk pf v).tenant) ∧
      (¬(on = true ∧ 1 ≤ v ∧ v ≤ n.val) → (getVf b pf v).tenant = none ∧
        ∀ t, (getVf s.blk pf v).tenant = some t → (getTen b t).vf = 0)) ∧
  (∀ (d : Fin 4) (s : State),
    (∀ ev bit', (ev, bit') ∈ [(StorEvent.linkDown, d.val), (.surprise, 5)] → Answers (.storageLinkEvent d ev) s fun b =>
      leafBit b (.rp 0) bit' = true ∧ (getDrive b d).trained = false ∧ (getDrive b d).ready = false ∧
      ∀ c, s.blk.bd.cold = some c → d.val ∈ c.drives → b.bd.cold = none ∧ leafBit b .bd 10 = true) ∧
    (Answers (.storageLinkEvent d .timeout) s fun b => leafBit b (.rp 0) 4 = true ∧ getDrive b d = getDrive s.blk d) ∧
    ((getDom s.blk 19).inReset = false → Answers (.storageLinkEvent d .trained) s fun b =>
      b = setDrive s.blk d { getDrive s.blk d with trained := true, ready := (getDrive s.blk d).en }) ∧
    ((getDrive s.blk d).trained = true → ∀ addr : Nat,
      (addr < 0xF00000000000 → (∀ bytes, Answers (.storageLinkEvent d (.memWrite addr bytes)) s fun b =>
          b = emit s.blk (.hostWrite s.blk.ident.adminPf addr bytes)) ∧
        ∀ n, Answers (.storageLinkEvent d (.memRead addr n)) s fun b =>
          b = emit s.blk (.upstreamRead s.blk.ident.adminPf addr n)) ∧
      (0xF00000000000 ≤ addr → (∀ bytes, Answers (.storageLinkEvent d (.memWrite addr bytes)) s fun b => b = s.blk) ∧
        ∀ n, Answers (.storageLinkEvent d (.memRead addr n)) s fun b => b = s.blk)))) ∧
  (∀ (pf : Fin 4) (v : W32) (s : State), let x := getPf s.blk pf
    (Answers (.intPendWrite pf v) s fun b => b = setPf s.blk pf { x with intPend := x.intPend &&& ~~~(v.setWidth 16) }) ∧
    (Answers (.intEnWrite pf v) s fun b => getPf b pf = { x with intEn := v.setWidth 16 } ∧
      ∀ g, g < 16 → v.getLsbD g = true → x.intPend.getLsbD g = true → ∃ vec, Sent s.blk b (.msix pf 0 vec) ∧
        (g ≠ 0 → vec = g)) ∧
    (∀ vf : Fin 257, (vfThere s.blk pf vf = true → Answers (.vfIntPendWrite pf vf v) s fun b =>
        (getVf b pf vf).intPend = (getVf s.blk pf vf).intPend &&& ~~~(v.setWidth 4) ∧ b.out = s.blk.out) ∧
      (vfThere s.blk pf vf = false → Answers (.vfIntPendWrite pf vf v) s fun b => b = s.blk)))

/-- R341-R345, R353, R354, Tables 13.2-13.5: doorbells, ring control, the fetch of a command and its reply.
Choices of the model: log entries 120, 121, 122. -/
def Obligations.CommandRings : Prop :=
  ∀ (src : Src) (ring : Fin 16) (s : State),
    let c := getCr s.blk src ring
    let pf := srcPf src
    (ringThere s.blk src ring = true → ∀ v : W32,
      (v.toNat % 4096 < 2 ^ c.sqLog → Answers (.crSqTail src ring v) s fun b =>
        b = setCr s.blk src ring { c with sqTail := v.toNat % 4096 }) ∧
      (2 ^ c.sqLog ≤ v.toNat % 4096 → Answers (.crSqTail src ring v) s fun b =>
        (getCr b src ring).error = true ∧ leafBit b (.hl pf) 4 = true) ∧
      (v.toNat % 4096 < 2 ^ c.cqLog → c.stalled = false → Answers (.crCqHead src ring v) s fun b =>
        b = setCr s.blk src ring { c with cqHead := v.toNat % 4096 }) ∧
      (2 ^ c.cqLog ≤ v.toNat % 4096 → Answers (.crCqHead src ring v) s fun b =>
        getCr b src ring = c ∧ leafBit b (.hl pf) 0 = true) ∧
      (v.getLsbD 0 = true → c.en = false → c.sqBase = 0 ∨ c.cqBase = 0 ∨ c.cqLog < c.sqLog → Answers (.crCtrlWrite src ring v) s fun b =>
        getCr b src ring = c ∧ leafBit b (.hl pf) 0 = true) ∧
      (v.getLsbD 0 = true → c.en = false → c.sqBase ≠ 0 → c.cqBase ≠ 0 → c.sqLog ≤ c.cqLog → field v 8 5 = 0 → field v 16 8 ≠ 0 →
        Answers (.crCtrlWrite src ring v) s fun b =>
          getCr b src ring = { startRing c with vector := 0, maxOut := field v 16 8 }) ∧
      (v.getLsbD 0 = true → c.en = true → field v 8 5 = 0 → field v 16 8 ≠ 0 → Answers (.crCtrlWrite src ring v) s fun b =>
        getCr b src ring = { c with vector := 0, maxOut := field v 16 8 }) ∧
      (v.getLsbD 0 = false → field v 8 5 = 0 → field v 16 8 ≠ 0 → Answers (.crCtrlWrite src ring v) s fun b =>
        getCr b src ring = { c with en := false, vector := 0, maxOut := field v 16 8 })) ∧
    (ringThere s.blk src ring = false → ∀ v : W32, ∀ i ∈ [Instr.crSqTail src ring v, .crCqHead src ring v, .crCtrlWrite src ring v],
      Answers i s fun b => b = s.blk) ∧
    (∀ p : PacketHdr, let iss := issuerOf s.blk src ring p
      (nextFetch s.blk ≠ some (fnNo src, ring.val) → Answers (.commandFetch src ring p) s fun b => b = s.blk) ∧
      (nextFetch s.blk = some (fnNo src, ring.val) →
        (p.fence = true → ringOut s.blk src ring ≠ [] → Answers (.commandFetch src ring p) s fun b =>
          (getCr b src ring).fenceWait = true ∧ (getCr b src ring).sqHead = c.sqHead ∧
          b.host.outstanding = s.blk.host.outstanding) ∧
        (p.fence = false ∨ ringOut s.blk src ring = [] → headerFault s.blk src ring p = none →
          Answers (.commandFetch src ring p) s fun b =>
            b.host.outstanding = s.blk.host.outstanding ++
              [{ iss := iss, opcode := p.opcode, fence := p.fence, quiet := p.quiet, early := p.early }] ∧
            b.host.done = s.blk.host.done ∧ (getCr b src ring).sqHead = (c.sqHead + 1) % 2 ^ c.sqLog ∧
            tabGet 0 b.obs.counters (pfCounter pf 0) = tabGet 0 s.blk.obs.counters (pfCounter pf 0) + 1) ∧
        (∀ st dup, p.fence = false ∨ ringOut s.blk src ring = [] → headerFault s.blk src ring p = some (st, dup) →
          Answers (.commandFetch src ring p) s fun b => Replied iss p.opcode.toNat st s.blk b ∧
            (getCr b src ring).sqHead = (c.sqHead + 1) % 2 ^ c.sqLog))) ∧
    (∀ r, (s.blk.host.done.find? fun r => ofRing src ring r.iss) = some r → c.en = true →
      (∀ k, cmdOf s.blk r = some k → cqFull c = false → Answers (.commandReply src ring) s fun b =>
        b.host.outstanding = s.blk.host.outstanding.erase k ∧ b.host.done = s.blk.host.done.erase r ∧
        Sent s.blk b (.status r c.phase) ∧ (getCr b src ring).cqTail = (c.cqTail + 1) % 2 ^ c.cqLog ∧
        (getCr b src ring).phase = (if (c.cqTail + 1) % 2 ^ c.cqLog = 0 then !c.phase else c.phase)) ∧
      (cmdOf s.blk r ≠ none → cqFull c = true → Answers (.commandReply src ring) s fun b =>
        (getCr b src ring).stalled = true ∧ b.host.done = s.blk.host.done ∧ b.out = s.blk.out) ∧
      (cmdOf s.blk r = none → r.dup = false → Answers (.commandReply src ring) s fun b =>
        b.host.done = s.blk.host.done.erase r ∧ b.out = s.blk.out)) ∧
    ((s.blk.host.done.find? fun r => ofRing src ring r.iss) = none →
      (∀ k, ((ringOut s.blk src ring).find? fun c => c.early) = some k → c.en = true → cqFull c = false →
        Answers (.commandReply src ring) s fun b =>
          (∃ r : Reply, Sent s.blk b (.status r c.phase) ∧ r.iss = k.iss ∧ r.status = stPending ∧ r.interim = true) ∧
          k ∉ b.host.outstanding ∧ { k with early := false } ∈ b.host.outstanding) ∧
      (((ringOut s.blk src ring).find? fun c => c.early) = none → Answers (.commandReply src ring) s fun b => b = s.blk)) ∧
    (c.coalPending ≠ 0 → c.coalSince + c.coalUs * 1000 ≤ nowNs s.blk → Answers (.crCoalExpiry src ring) s fun b =>
      (getCr b src ring).coalPending = 0 ∧ ∀ p, src = .pf p → (getPf s.blk p).intEn.getLsbD 0 = true →
        b.out = s.blk.out ++ [.msix p 0 c.vector]) ∧
    (c.coalPending = 0 ∨ nowNs s.blk < c.coalSince + c.coalUs * 1000 → Answers (.crCoalExpiry src ring) s fun b => b = s.blk)

/-- R338, R348-R352, Tables 13.7-13.10: IDENTIFY, and the life of a tenant. Choices of the model: log entries 124, 125. -/
def Obligations.TenantCommands : Prop :=
  ∀ (iss : Issuer) (s : State), let t := iss.tenant.val
    let r := getTen s.blk t
    let last (st : Byte) (b : Block) : Prop := ∃ l x, b.host.done = s.blk.host.done ++ l ++ [x] ∧ x.iss = iss ∧ x.status = st
    (∀ dest, isPf iss = true → (dest % 64 = 0 → Answers (.identify iss dest false) s fun b =>
        Replied iss 0x0101 stOk s.blk b ∧ Sent s.blk b (.hostWrite iss.pf dest (identityBlock s.blk))) ∧
      (dest % 64 ≠ 0 → Answers (.identify iss dest false) s fun b =>
        Replied iss 0x0101 stBadParam s.blk b ∧ b.out = s.blk.out)) ∧
    (∀ dest, isPf iss = false → (getVf s.blk iss.pf iss.vf).tenant = none → Answers (.identify iss dest false) s
      (Replied iss 0x0101 stNotAuthorised s.blk)) ∧
    (∀ p : TenantCreateP, p.rsv = false → p.vf ≤ 256 → 1 ≤ p.ranks → p.ranks ≤ 262144 → p.s ≤ 64 →
      (isPf iss = false → Answers (.tenantCreate iss p) s (Replied iss 0x0201 stNotAuthorised s.blk)) ∧
      (isPf iss = true → r.exists' = true → Answers (.tenantCreate iss p) s (Replied iss 0x0201 stRefused s.blk)) ∧
      (isPf iss = true → r.exists' = false → p.vf = 0 → Answers (.tenantCreate iss p) s fun b =>
        Replied iss 0x0201 stOk s.blk b ∧ getTen b t = { exists' := true, creatingPf := iss.pf, ranks := p.ranks,
                                                         s := if p.s = 0 then 2 else p.s }) ∧
      (isPf iss = true → r.exists' = false → vfThere s.blk iss.pf p.vf = true → (getVf s.blk iss.pf p.vf).tenant = none →
        p.vf ≠ 0 → Answers (.tenantCreate iss p) s fun b => Replied iss 0x0201 stOk s.blk b ∧ (getTen b t).exists' = true ∧
          (getTen b t).vf = p.vf ∧ (getVf b iss.pf p.vf).tenant = some t)) ∧
    (isPf iss = true → ∀ ranks, ranks = 0 ∨ 262144 < ranks →
      Answers (.tenantCreate iss { ranks := ranks }) s (Replied iss 0x0201 stBadParam s.blk)) ∧
    (fromOwnerPf s.blk iss = false → Answers (.tenantDestroy iss false) s (Replied iss 0x0202 stNotAuthorised s.blk)) ∧
    (fromOwnerPf s.blk iss = true → r.exists' = false → Answers (.tenantDestroy iss false) s
      (Replied iss 0x0202 stBadParam s.blk)) ∧
    (fromOwnerPf s.blk iss = true → r.exists' = true → Answers (.tenantDestroy iss false) s fun b =>
      (getTen b t).exists' = false ∧ last stOk b ∧ (∀ x ∈ b.ver.tiles, x.hdr.tenant.val ≠ t) ∧
      ∀ c ∈ s.blk.host.outstanding, c.iss.tenant.val = t → namesTenant c.opcode.toNat = true → c.iss ≠ iss →
        ∃ x ∈ b.host.done, x.iss = c.iss ∧ x.status = stWithdrawn) ∧
    (∀ p : SetPlacesP, p.rsv = false → r.exists' = true →
      (fromOwnerPf s.blk iss = false → Answers (.tenantSetPlaces iss p) s (Replied iss 0x0203 stNotAuthorised s.blk)) ∧
      (fromOwnerPf s.blk iss = true → p.action = 1 → 1 ≤ p.vf → p.vf ≤ 256 → r.vf = 0 →
        (getVf s.blk r.creatingPf p.vf).tenant = none → vfThere s.blk r.creatingPf p.vf = true →
        Answers (.tenantSetPlaces iss p) s fun b => Replied iss 0x0203 stOk s.blk b ∧ (getTen b t).vf = p.vf ∧
          (getVf b r.creatingPf p.vf).tenant = some t) ∧
      (fromOwnerPf s.blk iss = true → p.action = 0 → p.count = r.ranks → p.places.length = p.count → 1 ≤ p.certs.length →
        p.certs.length ≤ 16384 →
        (tenantHeld s.blk t = false → r.released0 = true → Answers (.tenantSetPlaces iss p) s
          (Replied iss 0x0203 stRefused s.blk)) ∧
        (tenantHeld s.blk t = true ∨ r.released0 = false → (∀ x ∈ p.places, placeOk x = true ∧ placeLevel x = 1) →
          (certsCover p = false → Answers (.tenantSetPlaces iss p) s (Replied iss 0x0203 stBadParam s.blk)) ∧
          (certsCover p = true →
          ((∃ c ∈ p.certs, certOk c.2 = false) → Answers (.tenantSetPlaces iss p) s fun b =>
            Replied iss 0x0203 stNotAuthorised s.blk b ∧ leafBit b (.sec 0) 3 = true) ∧
          ((∀ c ∈ p.certs, certOk c.2 = true) → noRepeats (p.certs.map fun c => c.2.serial) = true →
            Answers (.tenantSetPlaces iss p) s fun b => last stOk b ∧ (getTen b t).places = p.places)))))




/-- R357-R364, Tables 13.15-13.22: boot, lockstep pairs, staging, rebinds and their deadlines, trials, microcode.
Choices of the model: log entries 107, 130, 131, 132, 171. -/
def Obligations.FirmwareUpdates : Prop :=
  ∀ (s : State), let f := s.blk.fw
    let good (bank : Bool) : Option FwImage := (bankImage s.blk 0 bank).filter (fwImageOk s.blk 0)
    let resumed (P : Block → Prop) (b : Block) : Prop := ∃ c, P c ∧ c.fw.tasks = f.tasks ∧ b = runTasks c
    let runs (i : FwImage) (bank : Bool) (b : Block) : Prop := b.fw.phase = .running ∧ b.fw.bank = bank ∧
      b.fw.version = i.version ∧ b.fw.svn = i.svn
    (f.phase = .boot → f.down = false → (getDom s.blk 1).inReset = false → s.blk.pw.porstN = true →
      (∀ i, good f.bootBank = some i → Answers .boot s (resumed (runs i f.bootBank))) ∧
      (∀ i, good f.bootBank = none → good (!f.bootBank) = some i → Answers .boot s
        (resumed fun b => runs i (!f.bootBank) b ∧ leafBit b (.sec 0) 4 = true)) ∧
      (good f.bootBank = none → good (!f.bootBank) = none → Answers .boot s fun b => b.fw.down = true ∧ b.fw.phase = .boot)) ∧
    (f.phase = .running → f.down = false →
      (f.single = false → f.faultedPair = false → Answers (.lockstepTakeover .lockstep) s (resumed fun b =>
        leafBit b .fw 3 = true ∧ b.fw.pair = !f.pair ∧ b.fw.faultedPair = true ∧ ∀ c ∈ s.blk.host.outstanding,
          (∀ k ∈ f.checkpoint, k.iss ≠ c.iss) → ∃ x ∈ b.host.done, x.iss = c.iss ∧ x.status = stInternal)) ∧
      (f.single = true ∨ f.faultedPair = true → Answers (.lockstepTakeover .lockstep) s fun b =>
        b.fw.down = true ∧ b.fw.phase = .boot) ∧
      (s.blk.sus.fwBeatAt + 10000000 < nowNs s.blk → f.single = false → f.faultedPair = false →
        Answers (.lockstepTakeover .heartbeat) s (resumed fun b => leafBit b .fw 4 = true ∧ b.fw.pair = !f.pair)) ∧
      (nowNs s.blk ≤ s.blk.sus.fwBeatAt + 10000000 → Answers (.lockstepTakeover .heartbeat) s fun b => b = s.blk)) ∧
    (f.down = false → (mgmtLimit s.blk = false → Answers (.lockstepTakeover .mgmtLimit) s fun b => b = s.blk) ∧
      (mgmtLimit s.blk = true → f.single = false → f.faultedPair = false → Answers (.lockstepTakeover .mgmtLimit) s
        (resumed fun b => b.fw.pair = !f.pair ∧ b.fw.faultedPair = true))) ∧
    (fwRuns s.blk = true → Answers .handoverCheckpoint s fun b =>
      b = { s.blk with fw := { f with checkpoint := s.blk.host.outstanding } }) ∧
    (∀ (iss : Issuer) (p : FwStageP), isAdmin s.blk iss = true → p.rsv = false → p.kind ≤ 2 → p.length ≤ bankRoom p.kind →
      (f.rebind.map fun r => r.kind) ≠ some p.kind →
      (p.image.headerOk p.kind p.length = false → Answers (.fwStage iss p) s (Replied iss 0x0901 stBadParam s.blk)) ∧
      (p.image.headerOk p.kind p.length = true →
      let signed := p.image.keySlot = 0 ∧ Config.signatureOk 0 p.image.body p.image.sig = true
      (signed → nthD 0 f.minSvn p.kind ≤ p.image.svn → Answers (.fwStage iss p) s fun b =>
        Replied iss 0x0901 stOk s.blk b ∧ bankImage b p.kind (!activeBank s.blk p.kind) = some p.image) ∧
      (¬signed → Answers (.fwStage iss p) s fun b => Replied iss 0x0901 stNotAuthorised s.blk b ∧
        leafBit b (.sec 0) 0 = true ∧ leafBit b .fw 1 = true ∧ b.fw.banks = f.banks) ∧
      (signed → p.image.svn < nthD 0 f.minSvn p.kind → Answers (.fwStage iss p) s fun b =>
        Replied iss 0x0901 stNotAuthorised s.blk b ∧ leafBit b (.sec 0) 1 = true ∧ b.fw.banks = f.banks))) ∧
    (∀ (iss : Issuer) (p : FwRebindP), isAdmin s.blk iss = true → p.rsv = false → p.kind ≤ 2 → p.nsec < nsPerSec → f.rebind = none →
      let t := if p.sec = 0 ∧ p.nsec = 0 then nowNs s.blk + f.rebindLeadMs * 1000000 else secNs p.sec p.nsec
      let r : Rebind := { iss := iss, kind := p.kind, advance := p.advanceSvn, at' := t }
      (stagedImage s.blk p.kind = none → Answers (.fwRebind iss p) s (Replied iss 0x0902 stRefused s.blk)) ∧
      (∀ i, stagedImage s.blk p.kind = some i → p.kind = 0 →
        let hv := ((bankImage s.blk 0 f.bank).map fun i => i.handoverVer).getD 0
        (hv < i.handoverMin → Answers (.fwRebind iss p) s (Replied iss 0x0902 stRefused s.blk)) ∧
        (i.handoverMin ≤ hv → Answers (.fwRebind iss p) s fun b => b.fw.rebind = some r ∧ b.fw.phase = .rebinding ∧
          b.host.done = s.blk.host.done)) ∧
      (∀ i, stagedImage s.blk p.kind = some i → p.kind = 1 → Answers (.fwRebind iss p) s fun b => b.fw.rebind = some r) ∧
      (∀ i, stagedImage s.blk p.kind = some i → p.kind = 2 → Answers (.fwRebind iss p) s fun b =>
        (∀ n ∈ runningSlots s.blk, Sent s.blk b (.toSentinel n (.fwSwitch t))) ∧
        (runningSlots s.blk = [] → Replied iss 0x0902 stOk s.blk b))) ∧
    (∀ r, f.rebind = some r → r.kind = 0 → f.phase = .rebinding →
      (nowNs s.blk + 1000000 ≤ r.at' → f.single = false → f.faultedPair = false → Answers .standbyImageReady s fun b =>
        b = { s.blk with fw := { f with rebind := some { r with readySeen := true }, standbyReady := true } }) ∧
      (r.readySeen = false → r.at' ≤ nowNs s.blk + 1000000 → Answers .rebindReadyDeadline s fun b =>
        Replied r.iss 0x0902 stTimeout s.blk b ∧ b.fw.phase = .running ∧ b.fw.rebind = none) ∧
      (r.readySeen = true → r.at' ≤ nowNs s.blk → Answers .rebindTakeover s fun b => b.fw.phase = .gap ∧
        b.fw.handover = s.blk.host.outstanding ∧ b.host = s.blk.host)) ∧
    (∀ r, f.rebind = some r → r.kind = 0 → f.phase = .gap →
      (∀ i, stagedImage s.blk 0 = some i → nowNs s.blk ≤ r.at' + 2000000 → Answers .handoverComplete s (resumed fun b =>
        Replied r.iss 0x0902 stOk s.blk b ∧ runs i (!f.bank) b ∧ b.fw.pair = !f.pair ∧ b.fw.rebind = none ∧
        b.fw.trialEnd = some (nowNs s.blk + f.trialS * nsPerSec))) ∧
      (r.at' + 1000000 ≤ nowNs s.blk → Answers .takeoverDeadline s (resumed fun b => Replied r.iss 0x0902 stInternal s.blk b ∧
        leafBit b .fw 2 = true ∧ b.fw.phase = .running ∧ b.fw.rebind = none))) ∧
    (∀ r, f.rebind = some r → r.kind = 1 → r.blockDone = false → r.at' ≤ nowNs s.blk → (getDom s.blk 2).inReset = false →
      Answers .rebindTakeover s fun b => b.fw.ucodeBank = !f.ucodeBank ∧ b.col.ucodeCluster = some 0) ∧
    (∀ t, f.trialEnd = some t → t ≤ nowNs s.blk → Answers .fwTrialExpiry s fun b => b.fw.bootBank = f.bank ∧
      b.fw.trialEnd = none ∧ (f.trialAdvance = false → b.fw.minSvn = f.minSvn) ∧
      (f.trialAdvance = true → f.minSvn ≠ [] → nthD 0 b.fw.minSvn 0 = Nat.max (nthD 0 f.minSvn 0) f.svn)) ∧
    (∀ (k : Fin 16), s.blk.col.ucodeCluster = some k.val → (∀ c ∈ clusterCores k, (getCore s.blk c).tile = none) →
      (∀ i, bankImage s.blk 1 f.ucodeBank = some i → Answers (.clusterUcodeReload k true) s fun b =>
        tabGet {} b.col.microcode k = i ∧
        (k.val < 15 → (getDom s.blk (3 + k)).inReset = false → b.col.ucodeCluster = some (k.val + 1))) ∧
      (Answers (.clusterUcodeReload k false) s fun b => leafBit b .fw 7 = true ∧ b.col.microcode = s.blk.col.microcode)) ∧
    (∀ (k : Fin 16) ok, s.blk.col.ucodeCluster ≠ some k.val → Answers (.clusterUcodeReload k ok) s fun b => b = s.blk)

/-- R303, R305, R358, R365-R367: specimens of cores, accelerators and pairs.
Choices of the model: log entries 112, 133, 170, 175. -/
def Obligations.Specimens : Prop :=
  ∀ (s : State), let f := s.blk.fw
    (∀ (iss : Issuer) (p : SpecimenLoadP), p.rsv = false →
      (isAdmin s.blk iss = false → Answers (.specimenLoad iss p) s (Replied iss 0x0805 stNotAuthorised s.blk)) ∧
      (isAdmin s.blk iss = true → p.action = 1 → Answers (.specimenLoad iss p) s fun b =>
        Replied iss 0x0805 stOk s.blk b ∧ b.fw.specStore = none) ∧
      (isAdmin s.blk iss = true → p.action = 0 → p.length ≤ 8388608 → p.image.headerOk 3 p.length = true → p.image.keySlot ≤ 7 →
        (Config.signatureOk p.image.keySlot p.image.body p.image.sig = true → nthD 0 f.minSvn 3 ≤ p.image.svn →
          Answers (.specimenLoad iss p) s fun b => Replied iss 0x0805 stOk s.blk b ∧ b.fw.specStore = some p.image) ∧
        (Config.signatureOk p.image.keySlot p.image.body p.image.sig = false → Answers (.specimenLoad iss p) s fun b =>
          Replied iss 0x0805 stNotAuthorised s.blk b ∧ leafBit b (.sec 0) 0 = true ∧ b.fw.specStore = f.specStore))) ∧
    (f.specPeriodS = 0 ∨ nowNs s.blk < f.specAt + f.specPeriodS * nsPerSec → Answers .specPeriod s fun b => b = s.blk) ∧
    (f.specPeriodS ≠ 0 → f.specAt + f.specPeriodS * nsPerSec ≤ nowNs s.blk → Answers .specPeriod s fun b =>
      b.fw.specAt = nowNs s.blk) ∧
    (f.faultedPair = false → ∀ ok, Answers (.pairSelfTestComplete ok) s fun b => b = s.blk) ∧
    (f.faultedPair = true → (Answers (.pairSelfTestComplete true) s fun b =>
        b.fw = { f with faultedPair := false, standbyReady := true }) ∧
      (Answers (.pairSelfTestComplete false) s fun b =>
        b.fw = { f with faultedPair := false, single := true, standbyReady := false })) ∧
    (∀ (n : Fin 16) (res : SpecResult), let x := getSlot s.blk n
      (x.specs = [] → Answers (.accelSpecimenComplete n res) s fun b => b = s.blk) ∧
      (∀ u iss r, x.specs = (some u, some iss) :: r →
        (specOk s.blk n res = true → Answers (.accelSpecimenComplete n res) s fun b => Replied iss 0x0603 stOk s.blk b ∧
          (getSlot b n).trimCopy = without x.trimCopy u ∧ Sent s.blk b (.toSentinel n (.trim (BitVec.ofNat 12 u) false))) ∧
        (specOk s.blk n res = false → Answers (.accelSpecimenComplete n res) s fun b => Replied iss 0x0603 stRefused s.blk b ∧
          (getSlot b n).trimCopy = x.trimCopy)) ∧
      (∀ y z r, x.specs = y :: z :: r → Answers (.accelSpecimenComplete n res) s fun b => (getSlot b n).specs = z :: r ∧
        (getSlot b n).specFrom = nowNs s.blk ∧ (getSlot b n).specAreas = specAreas s.blk n z.1 ∧
        Sent s.blk b (.toSentinel n (.specimen (z.1.map (BitVec.ofNat 12)) (specAreas s.blk n z.1)))) ∧
      (∀ iss k r, x.specs = (none, k) :: r → x.readmitting = true → x.readmitIss = some iss →
        (specOk s.blk n res = true → Answers (.accelSpecimenComplete n res) s fun b => Replied iss 0x0605 stOk s.blk b ∧
          (getSlot b n).role = roleIdle ∧ (getSlot b n).heldByHold = false ∧
          (x.heldByKettle = false → Sent s.blk b (.toSentinel n (.releaseAt (nowNs s.blk))))) ∧
        (specOk s.blk n res = false → Answers (.accelSpecimenComplete n res) s fun b => Replied iss 0x0605 stRefused s.blk b ∧
          (getSlot b n).role = x.role)) ∧
      (∀ k, x.specs = [(none, k)] → x.readmitting = false → Answers (.accelSpecimenComplete n res) s fun b =>
        b = setSlot s.blk n { x with specs := [] }))


/-! ## Observation (chapter 14) -/

/-- R12, R371-R376, R388, R389, Tables 14.14 and 14.15: reading counters, margin rings and the counters that a read clears.
Choices of the model: log entries 28, 142, 166. -/
def Obligations.CounterReads : Prop :=
  (∀ (iss : Issuer) (p : CountersReadP) (s : State), p.rsv = false → p.dest % 64 = 0 → 1 ≤ p.count → p.count ≤ 4096 →
    let bytes (view : Byte) : List Byte := (upFrom p.first p.count).flatMap fun i =>
      leBytes 8 (viewCounter s.blk view iss.tenant.val i).toNat
    (p.view = 0 → isAdmin s.blk iss = true → p.first + p.count ≤ 4096 → Answers (.countersRead iss p) s fun b =>
      Replied iss 0x0801 stOk s.blk b ∧ b.out = s.blk.out ++ [.hostWrite iss.pf p.dest (bytes 0)] ∧
        b.obs.latchTime = nowNs s.blk) ∧
    (p.view = 1 → fromTenant s.blk iss = true → (getTen s.blk iss.tenant.val).exists' = true → p.first + p.count ≤ 2048 →
      Answers (.countersRead iss p) s fun b => Replied iss 0x0801 stOk s.blk b ∧
        b.out = s.blk.out ++ [.hostWrite iss.pf p.dest (bytes 1)]) ∧
    (p.view = 0 → isAdmin s.blk iss = false → Answers (.countersRead iss p) s (Replied iss 0x0801 stNotAuthorised s.blk)) ∧
    (p.view = 0 → isAdmin s.blk iss = true → 4096 < p.first + p.count → Answers (.countersRead iss p) s
      (Replied iss 0x0801 stBadParam s.blk))) ∧
  (∀ (iss : Issuer) (p : MarginReadP) (s : State), p.rsv = false → p.dest % 16 = 0 → marginOk s.blk p = true →
    (mayMargin s.blk iss p = true → p.kind ≠ 2 ∨ (getSn s.blk p.slot).tetherUp = true → Answers (.marginRead iss p) s fun b =>
      Replied iss 0x0802 stOk s.blk b ∧ b.out = s.blk.out ++ [.hostWrite iss.pf p.dest
        ((((marginRing s.blk p.kind.toNat p.slot p.index).drop p.first).take p.count).flatMap id)]) ∧
    (mayMargin s.blk iss p = true → p.kind = 2 → (getSn s.blk p.slot).tetherUp = false → Answers (.marginRead iss p) s
      (Replied iss 0x0802 stTimeout s.blk)) ∧
    (mayMargin s.blk iss p = false → Answers (.marginRead iss p) s (Replied iss 0x0802 stNotAuthorised s.blk))) ∧
  (∀ (pf : Fin 4) (same : BitVec 2) (s : State),
    let reads (off n : Nat) : Out := .readData off ((BitVec.ofNat 32 n).setWidth 64)
    let now := bit (same.getLsbD 0)
    (Answers (.rcCounterRead (.pf pf) ⟨0xA000C, 4⟩ same) s fun b => b.hr.staleCount = now ∧
      b.out = s.blk.out ++ [reads 0xA000C s.blk.hr.staleCount]) ∧
    (Answers (.rcCounterRead (.pf pf) ⟨0x70014, 4⟩ same) s fun b => b.ver.lateCount = now ∧
      b.out = s.blk.out ++ [reads 0x70014 s.blk.ver.lateCount]) ∧
    (∀ p : Fin 8, Answers (.rcCounterRead (.pf pf) ⟨(0x41010 + 0x100 * p), 4⟩ same) s fun b => (getLink b p).corr = now ∧
      b.out = s.blk.out ++ [reads (0x41010 + 0x100 * p) (getLink s.blk p).corr]) ∧
    (∀ p : Fin 8, Answers (.rcCounterRead (.pf pf) ⟨(0x41010 + 0x100 * p), 8⟩ same) s fun b => (getLink b p).corr = now ∧
      (getLink b p).uncorr = bit (same.getLsbD 1)) ∧
    (∀ n : Fin 16, snStale s.blk n = false → Answers (.rcCounterRead (.pf pf) ⟨(0x58100 + 0x800 * n), 4⟩ same) s fun b =>
      (getSn b n).cntPosted = now ∧ b.out = s.blk.out ++ [reads (0x58100 + 0x800 * n) (getSn s.blk n).cntPosted]) ∧
    (∀ n : Fin 16, snStale s.blk n = true → Answers (.rcCounterRead (.pf pf) ⟨(0x58100 + 0x800 * n), 4⟩ same) s fun b =>
      let m := (snMirrored s.blk n 0x100).toNat
      (getSn b n).cntPosted = (getSn s.blk n).cntPosted - m + now ∧ b.out = s.blk.out ++ [reads (0x58100 + 0x800 * n) m]))

/-- R279, R377-R387, R390, R391, Tables 14.7-14.13: the Flyleaf is read, cleared, summarised, mirrored and scanned.
Choices of the model: log entries 140, 141, 142. -/
def Obligations.FlyleafCommands : Prop :=
  ∀ (s : State), let f := s.blk.fly
    let page := (uncopiedRecs s.blk).take 4
    (∀ (iss : Issuer) (p : FlyleafReadP), p.rsv = false → p.source = 0 → p.group.toNat ≤ 16 ∨ p.group = 0xFF → p.dest % 64 = 0 →
      1 ≤ p.count → p.count ≤ 131072 →
      (isAdmin s.blk iss = true → Answers (.flyleafRead iss p) s fun b => Replied iss 0x0803 stOk s.blk b ∧
        let l := (flySource s.blk false).filter fun x =>
          decide (p.firstSeq ≤ x.1.seq) && (p.group == 0xFF || x.1.type'.toNat / 256 == p.group.toNat)
        b.out = s.blk.out ++ [.hostWrite iss.pf p.dest ((l.take p.count).flatMap Prod.snd)]) ∧
      (isAdmin s.blk iss = false → Answers (.flyleafRead iss p) s (Replied iss 0x0803 stNotAuthorised s.blk))) ∧
    (∀ (iss : Issuer) (tok : Token), isAdmin s.blk iss = true →
      (tokenOk s.blk f.nonce 1 tok = true → Answers (.flyleafClear iss tok false) s fun b =>
        Replied iss 0x0804 stOk s.blk b ∧ b.fly.clearing = true ∧ leafBit b .fl 3 = true ∧
        ∀ x ∈ b.fly.ring, isCleared x = true ∨ f.next < x.seq) ∧
      (tokenOk s.blk f.nonce 1 tok = false → Answers (.flyleafClear iss tok false) s fun b =>
        Replied iss 0x0804 stNotAuthorised s.blk b ∧ leafBit b (.sec 0) 2 = true ∧ b.fly.clearing = f.clearing ∧
        b.fly.mirror = f.mirror)) ∧
    (∀ d ty, f.dues = [d] → dueLive s.blk d = true → d.count ≠ 0 → d.last + 1000000 ≤ nowNs s.blk → f.stopped = false →
      leafType d.leaf d.bit = some ty → Answers .summaryRecordTimer s fun b => ∃ x ∈ b.fly.ring, x.seq = f.next ∧
        x.type' = BitVec.ofNat 16 ty ∧ x.arg = BitVec.ofNat 128 d.count ∧ x.flags.getLsbD 1 = true) ∧
    (∀ d, f.dues = [d] → dueLive s.blk d = false → Answers .summaryRecordTimer s fun b =>
      b = { s.blk with fly := { f with dues := [] } }) ∧
    (f.mirrorEn = true → f.stopped = false → page ≠ [] → f.mirror.length + page.length ≤ mirrorSlots →
      (f.lapFirst = none → Answers (.mirrorPageProgram .ok) s fun b =>
        b.fly = { f with mirror := f.mirror ++ page.map (stored false), mirrored := listMax (page.map fun r => r.seq) }) ∧
      (∀ c, Answers (.mirrorPageProgram (.error c)) s fun b => leafBit b .fl 2 = true ∧ b.fly.mirror = f.mirror)) ∧
    (page = [] → ∀ r, Answers (.mirrorPageProgram r) s fun b => b = s.blk) ∧
    (f.clearing = false → mirrorKept < f.mirror.length → Answers (.mirrorBlockErase .ok) s fun b =>
      b = { s.blk with fly := { f with mirror := f.mirror.drop 1024 } }) ∧
    (f.clearing = true → f.eraseBlocks ≤ 1 → Answers (.mirrorBlockErase .ok) s fun b => b.fly.clearing = false ∧
      b.fly.ring = f.ring ∧ ∃ k, k ≤ 1024 ∧ b.fly.mirror = f.mirror.drop k) ∧
    (f.clearing = false → f.mirror.length ≤ mirrorKept → ∀ r, Answers (.mirrorBlockErase r) s fun b => b = s.blk) ∧
    (f.scanned = true → Answers .flyleafScan s fun b => b = s.blk) ∧
    (f.scanned = false → s.blk.pw.aonUp = true → f.stopped = false → f.ring.length ≤ 60000 → Answers .flyleafScan s fun b =>
      b.fly.scanned = true ∧
      let good := f.mirror.filter fun m => m.crc == crc32c (flyBody m.rec')
      (∃ x ∈ b.fly.ring, x.type' = 0x1000 ∧ x.seq = listMax (good.map fun m => m.rec'.seq) + 1) ∧
      (good.length ≠ f.mirror.length → leafBit b .fl 5 = true)) ∧
    (∀ (pf : Fin 4) (v : W32),
      (pf.val = s.blk.ident.adminPf → let r := flyFind s.blk fun q => q == field v 0 16 * 2 ^ 32 + f.selLo.toNat
        Answers (.flSelHiWrite pf v) s fun b => b.fly.data = r ∧ b.fly.gone = r.isNone ∧
          b.fly.selHi = BitVec.ofNat 32 (field v 0 16) ∧ b.fly.ring = f.ring) ∧
      (pf.val ≠ s.blk.ident.adminPf → Answers (.flSelHiWrite pf v) s fun b => b = badSource s.blk pf 0xD0044))

/-! ## Power, temperature and slots (chapter 15) -/

/-- R395-R402, R385: the always-on supply, its inputs and hold-up, and core rails out of tolerance.
Choices of the model: log entries 34, 150. -/
def Obligations.AlwaysOnSupply : Prop :=
  ∀ (s : State), let p := s.blk.pw
    (p.aonSrc = 0 → p.aValid = true → p.bValid = true → Answers .aonSwitch s fun b => b.pw.aonSrc = 1 ∧ b.pw.aValid = false ∧
      leafBit b .pt 1 = true ∧ leafBit b .pt 2 = true) ∧
    (p.aonSrc = 1 → p.bValid = true → p.aValid = true → Answers .aonSwitch s fun b => b.pw.aonSrc = 0 ∧ b.pw.bValid = false ∧
      leafBit b .pt 1 = true ∧ leafBit b .pt 2 = true) ∧
    (p.aonSrc = 0 → p.bValid = false → Answers .aonSwitch s fun b => b.pw.aonSrc = 0 ∧ b.pw.aValid = false) ∧
    (p.preferA = true → p.aonSrc = 1 → p.aValid = true → p.aValidSince + 10000000 ≤ nowNs s.blk → Answers .preferAReturn s fun b =>
      b.pw = { p with aonSrc := 0, temps := b.pw.temps, volts := b.pw.volts } ∧ leafBit b .pt 1 = true) ∧
    (p.preferA = false ∨ p.aonSrc ≠ 1 ∨ p.aValid = false ∨ nowNs s.blk < p.aValidSince + 10000000 →
      Answers .preferAReturn s fun b => b = s.blk) ∧
    (s.blk.fly.stopped = false → p.aonUp = true → Answers .powerLoss s fun b => b.pw.aonSrc = 2 ∧ b.pw.aValid = false ∧
      b.pw.bValid = false ∧ b.fly.stopped = true ∧ ∃ l, b.fly.mirror = s.blk.fly.mirror ++ l ∧ l.length ≤ 32 ∧
        ∀ m ∈ l, m.lastGasp = true) ∧
    (s.blk.fly.stopped = true → Answers .powerLoss s fun b => b = s.blk) ∧
    (∀ mv, (p.holdTestDue = true → mv ≤ 15 → Answers (.holdTest mv) s fun b =>
        b = { s.blk with pw := { p with droop := BitVec.ofNat 8 mv, holdOk := true, holdTestDue := false } }) ∧
      (p.holdTestDue = true → 15 < mv → Answers (.holdTest mv) s fun b => b.pw.holdOk = false ∧ b.pw.holdTestDue = false ∧
        leafBit b .pt 3 = true) ∧
      (p.holdTestDue = false → Answers (.holdTest mv) s fun b => b = s.blk)) ∧
    (∀ (pf : Fin 4) (v : W32),
      (pf.val ≠ s.blk.ident.adminPf → Answers (.selectAonInput pf v) s fun b => b = badSource s.blk pf 0xE0000) ∧
      (pf.val = s.blk.ident.adminPf → Answers (.selectAonInput pf v) s fun b => b.pw.throttleEn = v.getLsbD 0 ∧
        b.pw.capEn = v.getLsbD 1 ∧ b.pw.preferA = v.getLsbD 2 ∧ b.pw.holdTestDue = (p.holdTestDue || v.getLsbD 5) ∧
        (v.getLsbD 3 = true → p.bValid = true → v.getLsbD 4 = false → b.pw.aonSrc = 1) ∧
        (v.getLsbD 4 = true → p.aValid = true → b.pw.aonSrc = 0) ∧
        (v.getLsbD 3 = false → v.getLsbD 4 = false → b.pw.aonSrc = p.aonSrc))) ∧
    (∀ x : Bool, let valid (p : Power) : Bool := if x then p.bValid else p.aValid
      (valid p = true → Answers (.aonInputLow x) s fun b => valid b.pw = false ∧ leafBit b .pt 2 = true ∧
        b.pw.aonSrc = p.aonSrc) ∧
      (valid p = false → Answers (.aonInputLow x) s fun b => b = s.blk) ∧
      (valid p = false → p.aonUp = true → p.aonSrc ≠ 2 → Answers (.aonInputReturn x) s fun b => valid b.pw = true ∧
        b.pw.aonSrc = p.aonSrc ∧ (x = false → b.pw.aValidSince = nowNs s.blk)) ∧
      (valid p = false → p.aonUp = true → p.aonSrc = 2 → Answers (.aonInputReturn x) s fun b => valid b.pw = true ∧
        b.pw.aonSrc = BitVec.ofNat 2 (bit x) ∧ b.fly.stopped = false) ∧
      (valid p = false → p.aonUp = false → Answers (.aonInputReturn x) s fun b => b.pw.aonUp = true ∧
        b.pw.aonSrc = BitVec.ofNat 2 (bit x))) ∧
    (p.aonUp = true → p.aonSrc = 2 → Answers .aonHoldDepleted s fun b => b.pw = { aonUp := false } ∧
      b.tenants = [] ∧ b.fly = { mirror := s.blk.fly.mirror } ∧ b.fw.banks = s.blk.fw.banks ∧ b.fw.minSvn = s.blk.fw.minSvn ∧
      b.ident.serial = s.blk.ident.serial ∧ b.time = {} ∧ b.hr = {}) ∧
    (p.aonSrc ≠ 2 → Answers .aonHoldDepleted s fun b => b = s.blk) ∧
    (∀ (r : Fin 10) above, (r.val < 6 → Answers (.railExcursion r above) s fun b => leafBit b .pt (if above then 6 else 5) = true ∧
        b.hr = s.blk.hr ∧ b.pw.porstN = p.porstN) ∧
      (6 ≤ r.val → Answers (.railExcursion r above) s fun b => b = s.blk))

/-- R308, R403, R405, R408, R409, R412, R413, R305: alarm, throttle, trip, the power of slots and of optical modules.
Choices of the model: log entries 150, 151. -/
def Obligations.ThermalAndSlotPower : Prop :=
  ∀ (s : State), let p := s.blk.pw
    let w := s.blk.col.withheld
    (p.thermAlert = false → Answers .thermalAlarm s fun b => b.pw.thermAlert = true ∧ leafBit b .pt 7 = true) ∧
    (p.thermAlert = true → Answers .thermalAlarm s fun b => b = { s.blk with pw := { p with thermAlert := false } }) ∧
    (p.throttleEn = true ∨ p.capEn = true → w < 15 → w = 0 ∨ p.lastWithhold + 1000000 ≤ nowNs s.blk →
      Answers .throttleStep s fun b => b.col = { s.blk.col with withheld := w + 1 } ∧ b.pw.lastWithhold = nowNs s.blk ∧
        (p.capEn = false → leafBit b .pt 8 = true) ∧ (p.throttleEn = false → leafBit b .pt 9 = true)) ∧
    (p.throttleEn = false → p.capEn = false → Answers .throttleStep s fun b => b = s.blk) ∧
    (15 ≤ w → Answers .throttleStep s fun b => b = s.blk) ∧
    (w ≠ 0 → Nat.max p.lastReturn p.lastWithhold + 10000000 ≤ nowNs s.blk → Answers .unthrottleStep s fun b =>
      b.col.withheld = w - 1 ∧ b.pw = { p with lastReturn := nowNs s.blk }) ∧
    (w = 0 → Answers .unthrottleStep s fun b => b = s.blk) ∧
    (Answers .thermalTrip s fun b => b.pw.thermTripN = false ∧ b.pw.tripped = true ∧ leafBit b .pt 10 = true ∧
      getDom b 0 = getDom s.blk 0 ∧ ∀ d, 1 ≤ d → d ≤ 48 → (getDom b d).inReset = true) ∧
    (w ≠ 0 → nowNs s.blk < p.lastWithhold + 1000000 → Answers .throttleStep s fun b => b = s.blk) ∧
    (w ≠ 0 → nowNs s.blk < Nat.max p.lastReturn p.lastWithhold + 10000000 → Answers .unthrottleStep s fun b => b = s.blk) ∧
    (∀ (pf : Fin 4) (v : W32), pf.val ≠ s.blk.ident.adminPf →
      Answers (.psSlotCtrlWrite pf v) s fun b => b = badSource s.blk pf 0xE0300) ∧
    (∀ (pf : Fin 4) (v : W32) (n : Fin 16), pf.val = s.blk.ident.adminPf → let x := getSlot s.blk n
      let kept (n : Nat) : Prop := let x := getSlot s.blk n
        (v.getLsbD n = true ∧ x.on = false ∧ x.prsntN = true) ∨
          (v.getLsbD n = false ∧ x.on = true ∧ x.role = roleActive ∧ tenantHeld s.blk x.tenant = false)
      (kept n → Answers (.psSlotCtrlWrite pf v) s fun b => b.slots = s.blk.slots ∧ leafBit b .pt 0 = true) ∧
      ((∀ m, m < 16 → ¬kept m) →
        (v.getLsbD n = x.on → Answers (.psSlotCtrlWrite pf v) s fun b => getSlot b n = x) ∧
        (v.getLsbD n = true → x.on = false → Answers (.psSlotCtrlWrite pf v) s fun b =>
          getSlot b n = { x with on := true, pwren := true, perstN := false, seqStart := some (nowNs s.blk) }) ∧
        (v.getLsbD n = false → x.on = true → Answers (.psSlotCtrlWrite pf v) s fun b =>
          getSlot b n = { x with on := false, perstN := false, seqStart := some (nowNs s.blk) }))) ∧
    (∀ (n : Fin 16), let x := getSlot s.blk n
      (∀ t, x.readmitting = false → x.seqStart = some t → t + 100000000 ≤ nowNs s.blk → Answers (.slotSequenceTimeout n) s fun b =>
        getSlot b n = { x with seqStart := none } ∧ (x.on = true → x.pwren = false → leafBit b .pt 0 = true) ∧
          (x.on = false → x.pwren = true ∨ x.perstN = true → leafBit b .pt 0 = true)) ∧
      (∀ iss, x.readmitting = true → x.readmitIss = some iss → x.seqStart = none → (∀ y ∈ x.specs, y.1 ≠ none) →
        x.readmitAt ≤ nowNs s.blk → Answers (.slotSequenceTimeout n) s fun b => Replied iss 0x0605 stTimeout s.blk b ∧
          (getSlot b n).readmitting = false ∧ (getSlot b n).readmitIss = none) ∧
      (x.readmitting = false → x.seqStart = none → Answers (.slotSequenceTimeout n) s fun b => b = s.blk)) ∧
    (∀ (q : Fin 8) (c : Fin 9),
      (1 ≤ c.val → c.val ≤ (getPort s.blk q).modClass → Answers (.modulePowerClass q c) s fun b =>
        b = setPort s.blk q { getPort s.blk q with lpMode := false }) ∧
      (c.val = 0 ∨ (getPort s.blk q).modClass < c.val → Answers (.modulePowerClass q c) s fun b =>
        (getPort b q).lpMode = true ∧ leafBit b (.lkS q) 7 = true))

/-! ## Registers and pins (chapters 1, 10, 15) -/

/-- R7-R10, R20, R21, R27, R28, R340, Tables 0.3, 1.5-1.7, 1.12: writes of registers and through the storage window,
ADMIN_PF and PLACE_CFG. Choices of the model: log entries 20, 21, 22, 166. -/
def Obligations.RegisterWrites : Prop :=
  (∀ (src : Src) (off width : Nat) (v : W64) (s : State),
    (inWindow src off = false → srcIsPf src = false ∨ off < bar2Base → Answers (.registerWrite src off width v) s fun b =>
      b = s.blk) ∧
    (∀ pf : Fin 4, bar2Base ≤ off →
      (pf.val = s.blk.ident.adminPf → ∀ d config addr, storageTarget off = some (d, config, addr) →
        (getDrive s.blk d).trained = true → Answers (.registerWrite (.pf pf) off width v) s fun b =>
          b = emit s.blk (.drive d config true addr width v)) ∧
      (pf.val ≠ s.blk.ident.adminPf ∨ storageTarget off = none → Answers (.registerWrite (.pf pf) off width v) s fun b =>
        b = s.blk)) ∧
    (inWindow src off = true → accessOk off width = false → Answers (.registerWrite src off width v) s fun b =>
      Sent s.blk b (.abort (srcPf src) off) ∧ leafBit b (.hl (srcPf src)) 7 = true) ∧
    (∀ pf : Fin 4, inWindow (.pf pf) off = true → accessOk off width = true → mayWrite s.blk pf off = false →
      Answers (.registerWrite (.pf pf) off width v) s fun b => b = badSource s.blk pf off)) ∧
  (∀ (pf : Fin 4) (v : W32) (s : State), pf.val = s.blk.ident.adminPf → let w : W64 := v.setWidth 64
    (Answers (.registerWrite (.pf pf) 0x20 4 w) s fun b => b = { s.blk with ident := { s.blk.ident with adminPf := field v 0 2 } }) ∧
    (within 50 100000 (field v 0 17) = true → Answers (.registerWrite (.pf pf) 0xA0004 4 w) s fun b =>
      b = { s.blk with hr := { s.blk.hr with minLeadUs := field v 0 17 } }) ∧
    (within 50 100000 (field v 0 17) = false → Answers (.registerWrite (.pf pf) 0xA0004 4 w) s fun b =>
      b.hr = s.blk.hr ∧ leafBit b .rs 0 = true) ∧
    (within 2 30 (field v 0 5) = true → Answers (.registerWrite (.pf pf) 0x31008 4 w) s fun b =>
      b = { s.blk with ck := { s.blk.ck with tempDelta := field v 0 5 } }) ∧
    (∀ off l, (off, l) ∈ [(0x80008, Leaf.gt), (0x90008, .bd), (0x40008, .sp), (0x60008, .col), (0x70010, .colv), (0xA5004, .sr),
        (0xD0008, .fl), (0xE0008, .pt), (0xF0008, .fw), (0x30008, .ck), (0x20008, .st), (0xA0000, .rs)] →
      Answers (.registerWrite (.pf pf) off 4 w) s fun b => leafGet b l = leafGet s.blk l &&& ~~~v ∧
        b = { s.blk with leaf := b.leaf }) ∧
    (within 1 20 (field v 16 5) = true → within 50 95 (field v 0 7) = true → within (field v 0 7 + 1) 98 (field v 8 7) = true →
      Answers (.registerWrite (.pf pf) 0x80018 4 w) s fun b => b.gt.throttlePct = field v 0 7 ∧
        b.gt.backpressurePct = field v 8 7 ∧ b.gt.hystPct = field v 16 5)) ∧
  (∀ (pf : Fin 4) (t : Fin 1024) (k : Fin 8) (v : W64) (s : State), (getTen s.blk t).exists' = true →
    (getTen s.blk t).creatingPf = pf.val → Answers (.registerWrite (.pf pf) (0x74000 + 32 * t + 4 * k) 4 v) s fun b =>
      b = s.blk) ∧
  (∀ (pf : Fin 4) (v : W32) (s : State), let i := s.blk.ident
    let named : Block := { s.blk with ident := { i with rack := v.extractLsb' 0 6, block := v.extractLsb' 6 6,
                                                        hall := v.extractLsb' 12 3 } }
    (pf.val ≠ i.adminPf → (Answers (.adminPfWrite pf v) s fun b => b = badSource s.blk pf 0x20) ∧
      (Answers (.placeCfgWrite pf v) s fun b => b = badSource s.blk pf 0x40)) ∧
    (pf.val = i.adminPf → (Answers (.adminPfWrite pf v) s fun b => b = { s.blk with ident := { i with adminPf := field v 0 2 } }) ∧
      (i.valid = false → v.getLsbD 31 = false → Answers (.placeCfgWrite pf v) s fun b => b = named) ∧
      (i.valid = false → v.getLsbD 31 = true → Answers (.placeCfgWrite pf v) s fun b =>
        b.ident = { named.ident with valid := true }) ∧
      (i.valid = true → v.getLsbD 31 = true → v.extractLsb' 0 6 ≠ i.rack → Answers (.placeCfgWrite pf v) s fun b =>
        b.ident = i ∧ leafBit b .id 0 = true) ∧
      (i.valid = true → v.getLsbD 31 = false → spineDisabled s.blk = false → Answers (.placeCfgWrite pf v) s fun b =>
        b.ident = i ∧ leafBit b .id 0 = true) ∧
      (i.valid = true → v.getLsbD 31 = false → spineDisabled s.blk = true → v.extractLsb' 0 6 = i.rack →
        v.extractLsb' 6 6 = i.block → v.extractLsb' 12 3 = i.hall → Answers (.placeCfgWrite pf v) s fun b =>
          b = { s.blk with ident := { i with valid := false } })))

/-- R13, R21, R270, R283, R399-R402: PORST_N, the straps and the pins of the slots.
Choices of the model: log entries 30, 32, 33. -/
def Obligations.PinEvents : Prop :=
  ∀ (s : State), let i := s.blk.ident
    (s.blk.pw.porstN = true → Answers .porstAssert s fun b => b.pw.porstN = false ∧ b.tenants = [] ∧ b.links = [] ∧
      b.host.rings = [] ∧ b.ident.valid = false ∧ b.ident.adminPf = 0 ∧ b.ident.tray = i.tray ∧
      b.fw.minSvn = s.blk.fw.minSvn ∧ b.fw.banks = s.blk.fw.banks ∧ b.col.trim = s.blk.col.trim ∧
      getDom b 0 = getDom s.blk 0 ∧ ∀ d, 1 ≤ d → d ≤ 48 → (getDom b d).inReset = true ∧ (getDom b d).edition =
        (getDom s.blk d).edition + (if (getDom s.blk d).inReset then 0 else 1)) ∧
    (s.blk.pw.porstN = false → Answers .porstAssert s fun b => b = s.blk) ∧
    (∀ geo split, s.blk.pw.porstN = false →
      (s.blk.pw.thermTripN = true ∨ sensorsCool s.blk = true → Answers (.porstDeassert geo split false true) s fun b =>
        b.pw.porstN = true ∧ b.ident.tray = geo ∧ b.ident.geoPins = geo ∧ b.ident.hostSplit = split ∧
        ∀ d, 1 ≤ d → d ≤ 48 → (getDom s.blk d).inReset = true → (getDom s.blk d).holdReset = false →
          (getDom s.blk d).withdrawn = false → d = 1 ∨ recentResets s.blk d < s.blk.hr.escCount → (getDom b d).inReset = false) ∧
      (Answers (.porstDeassert geo split false false) s fun b => b.pw.porstN = true ∧ b.pw.sequenceHeld = true ∧
        leafBit b .pt 4 = true ∧ ∀ d, 1 ≤ d → d ≤ 48 → (getDom b d).inReset = true)) ∧
    (∀ geo split test ok, s.blk.pw.porstN = true → Answers (.porstDeassert geo split test ok) s fun b => b = s.blk) ∧
    (∀ geo, (s.blk.pw.porstN = true → geo ≠ i.geoPins → s.blk.fly.stopped = false → Answers (.geoTrayChange geo) s fun b =>
        b.ident = { i with geoPins := geo } ∧ ∃ x ∈ b.fly.ring, x.seq = s.blk.fly.next ∧ x.type' = 0x0AE0) ∧
      (s.blk.pw.porstN = false → Answers (.geoTrayChange geo) s fun b =>
        b = { s.blk with ident := { i with geoPins := geo } })) ∧
    (∀ n : Fin 16, let x := getSlot s.blk n
      (x.prsntN = false → Answers (.slotPrsntChange n true) s fun b => (getSlot b n).prsntN = true ∧
        (getLink b (8 + n)).state = .down ∧ (getSn b n).tetherUp = false) ∧
      (x.prsntN = true → (getDom s.blk (24 + n)).inReset = false → (getDom s.blk (24 + n)).withdrawn = false →
        Answers (.slotPrsntChange n false) s fun b => (getSlot b n).prsntN = false ∧ (getLink b (8 + n)).state = .training ∧
          (getLink b (8 + n)).trainKind = .full) ∧
      (∀ lv, x.prsntN = lv → Answers (.slotPrsntChange n lv) s fun b => b = s.blk) ∧
      (x.alertN = true → Answers (.slotAlert n false) s fun b =>
        b = fileSlot (setSlot s.blk n { x with alertN := false }) .slotAlert n) ∧
      (∀ lv, x.alertN = false ∨ lv = true → Answers (.slotAlert n lv) s fun b => b = setSlot s.blk n { x with alertN := lv }))

/-! ## The block as a whole -/

/-- The queue runs to any length: no command ends in a fault or a refusal, each step takes exactly the front command, and
no effect touches the commands that wait. Choices of the model: log entries 2, 6. -/
def Obligations.QueueRuns : Prop :=
  ∀ (s : State) (k : Nat), k ≤ s.pending.length → ∃ t, goesOnTo k s t ∧ t.pending = s.pending.drop k

/-- On an empty queue a step is one tick of TPLL (the model's choice, log entry 2), in which the counter advances as R154,
R155, R158 and R160 say, or takes an immediate load or, at a roll-over, a pending one (R157), drives SYNC_OUT (R174), and holds while
TPLL is not READY and no time has degraded; then repairs that are due start and the links send what waits.
Choices of the model: log entries 2, 51. -/
def Obligations.IdleStep : Prop :=
  ∀ (s : State), s.pending = [] → let b := s.blk
    let c := clockTick b
    let runs : Prop := (getPll b 2).state = .ready ∨ b.time.degraded = true
    let atRoll : Prop := b.time.loadPending = true ∧ rollsOver b = true
    let pulse : Prop := b.time.ppsOutMode = 1 ∧ sincePulse (counter c) b.time.ppsOffset < (counter c : Int) - counter b
    step s = .next { s with blk := engineTick c } ∧
    (c.bd.repairDue = [] → (∀ l, l < 24 → (getLink c l).txWait = []) → engineTick c = c) ∧
    (¬runs → c = b) ∧
    (∀ t iss, runs → b.time.loadNow = some (t, iss) →
      c = beat (nowNs b) (load { b with time := { b.time with loadNow := none } } t iss)) ∧
    (runs → b.time.loadNow = none → atRoll → c = beat (nowNs b) (load
      { b with time := { b.time with loadPending := false, loadIss := none } } (stagedTime b) b.time.loadIss)) ∧
    (runs → b.time.loadNow = none → ¬atRoll →
      counter c = nextCounter b % (2 ^ 80 * nsPerSec) ∧ c.time.spanLeft = b.time.spanLeft - 1 ∧
      c.time.adjRem = (if b.time.spanLeft = 0 then b.time.adjRem else b.time.adjRem - slewStep b) ∧
      c.time.slewIss = (if b.time.spanLeft = 1 then [] else b.time.slewIss) ∧
      (∀ iss, b.time.slewIss = [iss] → b.time.spanLeft = 1 → Replied iss 0x0701 stOk b c) ∧
      (pulse → c.time.syncOut = true ∧ c.time.syncOutEnd = nowNs c + b.time.ppsOutWidth * 1000000) ∧
      (¬pulse → c.time.syncOut = b.time.syncOut ∧ c.time.syncOutEnd = b.time.syncOutEnd) ∧
      c = { b with
            freeCtr := c.freeCtr, out := c.out, leaf := c.leaf, fly := c.fly, obs := c.obs, host := c.host, pw := c.pw,
            time := { b.time with
                      sec := c.time.sec, nsec := c.time.nsec, frac := c.time.frac, spanLeft := c.time.spanLeft,
                      adjRem := c.time.adjRem, slewIss := c.time.slewIss, syncOut := c.time.syncOut,
                      syncOutEnd := c.time.syncOutEnd },
            fw := { b.fw with heartbeat := c.fw.heartbeat },
            sus := { b.sus with fwBeatAt := c.sus.fwBeatAt } })

/-- What the block is right after AON power-on, PORST_N low: nothing waits, no table holds an entry, and the registers have the
reset values of the manual's register tables (Tables 1.2, 4.10, 5.8, 6.6, 7.6, 8.6, 9.10, 10.13, 11.9, 12.8, 13.5, 14.9, 15.13).
That reset is AON power-on is the model's choice (log entry 1). Choices of the model: log entries 1, 4. -/
def Obligations.ResetState : Prop :=
  let b := State.reset.blk
  State.reset.pending = [] ∧ b.out = [] ∧ (∀ l, leafGet b l = 0) ∧ b.pw.porstN = false ∧
  (b.ident.valid = false ∧ b.ident.rack = 0 ∧ b.ident.block = 0 ∧ b.ident.hall = 0 ∧ b.ident.adminPf = 0) ∧
  (b.col.dispatchEn = true ∧ (∀ c, (getCore b c).tile = none ∧ (getCore b c).pc = 0) ∧ b.ver.waitMs = 1000 ∧ b.ver.queueGib = 8) ∧
  (b.spine.enable = false ∧ b.spine.failoverAuto = true ∧ b.spine.failbackAuto = true ∧ b.spine.unfoldAuto = true ∧
    b.spine.redTimeoutMs = 100 ∧ b.spine.bcastTimeoutS = 10 ∧ b.spine.relLead = [5000, 15000, 32000, 55000] ∧
    ∀ p, (getPort b p).selftest = true ∧ (getPort b p).state = .down ∧ (getPort b p).grade = .ungraded) ∧
  (counter b = 0 ∧ b.time.incr = 0x0100000000 ∧ b.time.fwServo = true ∧ b.time.syncEn = true ∧ b.time.stepFollow = true ∧
    b.time.loadAt = false ∧ b.time.adjSpan = 1000000 ∧ b.time.syncIntervalUs = 1000 ∧ b.time.holdoverLimitS = 60 ∧
    b.time.stepLimitNs = 1000 ∧ b.time.loadNow = none ∧ b.time.loadPending = false ∧ b.time.state = .freeRun) ∧
  (b.gt.pregatherEn = true ∧ b.gt.stageGib = 64 ∧ b.gt.throttlePct = 85 ∧ b.gt.backpressurePct = 95 ∧ b.gt.hystPct = 5 ∧
    b.gt.pace = 200 ∧ b.gt.digestTimeoutMs = 2000) ∧
  (b.bd.coldEn = true ∧ b.bd.colophonTimeoutMs = 5000 ∧ b.bd.readTimeoutMs = 50 ∧ b.bd.xferTimeoutMs = 100 ∧
    ∀ d, (getDrive b d).en = false ∧ (getDrive b d).qdepth = 256) ∧
  (∀ n, (getSn b n).holdOnLossEn = true ∧ (getSn b n).hangEn = true ∧ (getSn b n).hangLimitMs = 20 ∧
    (getSn b n).streamTimeoutUs = 2000) ∧
  (b.hr.minLeadUs = 200 ∧ b.hr.cutTimeoutMs = 10 ∧ b.hr.escCount = 3 ∧ b.hr.escWindowS = 600 ∧
    ∀ d, (getDom b d).edition = 0 ∧ (getDom b d).withdrawn = false) ∧
  (b.sus.auto = true ∧ b.sus.autoTipin = true ∧ b.sus.isolateEn = true ∧ b.sus.mergeWindowUs = 1000 ∧ b.sus.probeTimeoutMs = 5 ∧
    b.sus.ageS = 60 ∧ b.sus.trimMax = 4 ∧ b.sus.linkGraceMs = 50 ∧ b.sus.restoreTimeoutS = 60) ∧
  (∀ l, (getLink b l).maxWidth = 4 ∧ (getLink b l).adaptEn = true ∧ (getLink b l).marginEn = true ∧
    (getLink b l).slotMaxS = 10 ∧ (getLink b l).state = .down) ∧
  (∀ pf, (getPf b pf).intPend = 0 ∧ (getPf b pf).intEn = 0) ∧ b.host.outstanding = [] ∧ b.host.done = [] ∧
  (b.fly.next = 1 ∧ b.fly.ring = [] ∧ b.fly.mirrorEn = true) ∧
  (b.pw.throttleEn = true ∧ b.pw.capEn = true ∧ b.pw.preferA = true)

/-- A whole-machine rule over R21: GEO_TRAY is sampled once, at PORST_N's deassertion; no step, of whatever command, changes the
sampled place while PORST_N stays high; a change on the pins is recorded (while the Flyleaf still runs on power, R385).
Choices of the model: log entries 33, 34. -/
def Obligations.TrayIsSampledOnce : Prop :=
  (∀ (s : State) geo split test ok, s.blk.pw.porstN = false → Answers (.porstDeassert geo split test ok) s fun b =>
    b.ident.tray = geo ∧ b.pw.porstN = true) ∧
  (∀ s t, step s = .next t → s.blk.pw.porstN = true → t.blk.pw.porstN = true → t.blk.ident.tray = s.blk.ident.tray) ∧
  (∀ (s : State) geo, s.blk.pw.porstN = true → geo ≠ s.blk.ident.geoPins → s.blk.fly.stopped = false →
    Answers (.geoTrayChange geo) s fun b => ownPlace b = ownPlace s.blk ∧
      ∃ x ∈ b.fly.ring, x.seq = s.blk.fly.next ∧ x.type' = 0x0AE0)

/-- R37 of a pass that waits: what XACC_PASS_ADD makes of VALUE, INX, OVF and TAIL.  R34's bits below the window of the pass
itself come first: TAIL is `t1` and INX is set where the pass lost products. -/
def Obligations.WindowSumsAreExact : Prop :=
  ∀ (s : State) (c : Fin 512) (p : Pass) (r : List Pass), coreRuns s.blk c = true → (getCore s.blk c).passes = p :: r →
    let a := xGet (getCore s.blk c) p.x
    let base := a.base.toInt
    let cut : Int := 2 ^ (base - p.l).toNat                       -- for L < BASE
    let term : Int := if base ≤ p.l then p.sum * 2 ^ (p.l - base).toNat else p.sum.tdiv cut
    let sum := a.value.toInt + term
    let lost : Prop := p.l < base ∧ p.sum % cut ≠ 0
    let t1 := if p.lost = 0 then a.tail else addUp64 a.tail (toB64 (up64 { m := p.lost, e := p.l }))
    Answers (.xaccPassAdd c) s fun b => let a' := xGet (getCore b c) p.x
      (getCore b c).passes = r ∧ a'.base = a.base ∧
      (a.ovf = false → -(2 ^ 255) ≤ sum → sum ≤ 2 ^ 255 - 1 → a'.value.toInt = sum ∧ a'.ovf = false) ∧
      (sum < -(2 ^ 255) ∨ 2 ^ 255 - 1 < sum → a'.ovf = true) ∧
      (lost → a'.inx = true ∧ a'.tail = addUp64 t1 (pow64 base)) ∧
      (¬lost → (a'.inx = true ↔ a.inx = true ∨ p.lost ≠ 0) ∧ a'.tail = t1) ∧
      (∀ x, x ≠ p.x → xGet (getCore b c) x = xGet (getCore s.blk c) x) ∧ ∀ d, d ≠ c.val → getCore b d = getCore s.blk d

/-- R7-R9, R12, R27, R28, R156, R340: a read of a register of BAR0, of a virtual function's window or through the storage window.  A
counter that reads clear returns the value from before an event of the same cycle and then holds 1, else 0; a read of any other
register, but for a sentinel's sensors, changes only what ST_NSEC and ST_PPS_IN_LO latch.
Choices of the model: log entries 28, 166. -/
def Obligations.CountersThatReadsClear : Prop :=
  ∀ (s : State) (pf : Fin 4) (off : Nat) (same : BitVec 2),
    (∀ v put, rcReg s.blk off = some (v, put) → Answers (.rcCounterRead (.pf pf) ⟨off, 4⟩ same) s fun b =>
      b.out = s.blk.out ++ [.readData off ((w32 v).setWidth 64)] ∧
      (rcReg b off).map Prod.fst = some (if same.getLsbD 0 then 1 else 0)) ∧
    (off < 0x100000 → rcReg s.blk off = none → readsSensor (.pf pf) off = false →
      (off % 4 = 0 → Answers (.rcCounterRead (.pf pf) ⟨off, 4⟩ same) s fun b => let l := readLatch pf off s.blk
        b = emit l (.readData off ((readAt l pf off).setWidth 64))) ∧
      (off % 8 = 0 → off ≠ 0x20010 → off ≠ 0x200E8 → rcReg s.blk (off + 4) = none →
        Answers (.rcCounterRead (.pf pf) ⟨off, 8⟩ same) s fun b =>
          b = emit s.blk (.readData off (readAt s.blk pf (off + 4) ++ readAt s.blk pf off)))) ∧
    (∀ width, off < 0x100000 → accessOk off width = false → Answers (.rcCounterRead (.pf pf) ⟨off, width⟩ same) s fun b =>
      b = abortAccess s.blk (.pf pf) off) ∧
    (∀ width, bar2Base ≤ off →
      (pf.val ≠ s.blk.ident.adminPf → Answers (.rcCounterRead (.pf pf) ⟨off, width⟩ same) s fun b => b = s.blk) ∧
      (pf.val = s.blk.ident.adminPf → storageTarget off = none → Answers (.rcCounterRead (.pf pf) ⟨off, width⟩ same) s fun b =>
        b = emit s.blk (.readData off 0)) ∧
      (∀ d config addr, pf.val = s.blk.ident.adminPf → storageTarget off = some (d, config, addr) →
        (getDrive s.blk d).trained = true → Answers (.rcCounterRead (.pf pf) ⟨off, width⟩ same) s fun b =>
          ∃ v, b.out = s.blk.out ++ [.drive d config false addr width 0, .readData off v])) ∧
    (∀ vf : Fin 257, let src := Src.vf pf vf
      (vfThere s.blk pf vf = false ∨ 0x10000 ≤ off → ∀ width, Answers (.rcCounterRead src ⟨off, width⟩ same) s fun b => b = s.blk) ∧
      (vfThere s.blk pf vf = true → off < 0x10000 →
        (off % 4 = 0 → Answers (.rcCounterRead src ⟨off, 4⟩ same) s fun b =>
          b = emit s.blk (.readData off ((readVf s.blk pf vf src off).setWidth 64))) ∧
        (off % 8 = 0 → Answers (.rcCounterRead src ⟨off, 8⟩ same) s fun b =>
          b = emit s.blk (.readData off (readVf s.blk pf vf src (off + 4) ++ readVf s.blk pf vf src off)))))

/-- The frame of every command of a local effect: it changes only the parts that `localParts` names.
Choices of the model: log entries 5, 6. -/
def Obligations.LocalFrames : Prop := ∀ (i : Instr) (s : State) ps, localParts i = some ps → Changes i s ps

/-- The frame of every command whose effect stays in one chapter: beside what a raised event may change, only the parts that
`chapterParts` names. Choices of the model: log entries 5, 6. -/
def Obligations.ChapterFrames : Prop :=
  ∀ (i : Instr) (s : State) ps, chapterParts i = some ps → Changes i s (reportParts ++ ps)
end

