-- ==== Sys2Proof/Laws/Codec.lean ====
section
/-!
SUPPORT. Laws/Codec.lean: what is read back from written bytes is what was written: little-endian fields, digests, and the
payloads of binding transfers, reads and digests (Tables 8.2 to 8.4).
-/

namespace Sys2Proof.Machine

@[simp] theorem length_leBytes (n v : Nat) : (leBytes n v).length = n := by
  induction n generalizing v with
  | zero => rfl
  | succ n ih => simp [leBytes, ih]

@[simp] theorem length_zeroBytes (n : Nat) : (zeroBytes n).length = n := by simp [zeroBytes]

@[simp] theorem length_digestBytes (d : BitVec 256) : (digestBytes d).length = 32 := by simp [digestBytes]

/-- Bytes spell the value they were cut from, up to their number. -/
@[simp] theorem leNat_leBytes (n v : Nat) : leNat (leBytes n v) = v % 256 ^ n := by
  induction n generalizing v with
  | zero => simp [leBytes, leNat, Nat.mod_one]
  | succ n ih =>
    simp only [leBytes, leNat, ih, BitVec.toNat_ofNat]
    have e : 256 ^ (n + 1) = 256 * 256 ^ n := Nat.pow_succ'
    rw [e, Nat.mod_mul]

/-- A field that stands between other bytes. -/
theorem byteField_between (a m r : List Byte) : byteField (a ++ (m ++ r)) a.length m.length = leNat m := by
  simp [byteField]

/-- The field of a number that stands between other bytes. -/
theorem byteField_number (a r : List Byte) (off n v : Nat) (h : a.length = off) :
    byteField (a ++ (leBytes n v ++ r)) off n = v % 256 ^ n := by
  have e := byteField_between a (leBytes n v) r
  simpa [h] using e

/-- A digest that stands between other bytes. -/
theorem digestAt_between (a r : List Byte) (d : BitVec 256) (off : Nat) (h : a.length = off) :
    digestAt (a ++ (digestBytes d ++ r)) off = d := by
  subst h
  have e : d.toNat % 256 ^ 32 = d.toNat := Nat.mod_eq_of_lt d.isLt
  simp [digestAt, digestBytes, -Nat.reducePow, e]

@[simp] theorem length_xferHeader (x : Xfer) : (xferHeader x).length = 64 := by simp [xferHeader]

theorem xferKindOf_code (k : XferKind) : xferKindOf (xferKindCode k) = some k := by cases k <;> rfl
theorem xferStatusOf_code (k : XferStatus) : xferStatusOf (xferStatusCode k) = some k := by cases k <;> rfl
theorem xferKindCode_lt (k : XferKind) : xferKindCode k % 256 ^ 1 = xferKindCode k := by cases k <;> rfl
theorem xferStatusCode_lt (k : XferStatus) : xferStatusCode k % 256 ^ 1 = xferStatusCode k := by cases k <;> rfl

/-- A transfer whose fields fit reads back, from its source under its STREAM. -/
theorem xferOf_xferBytes (x : Xfer) (hm : x.member < 256) (hg : x.gathering < 2 ^ 32) (hr : x.row < 2 ^ 32)
    (hl : x.bytes.length = x.length) (h64 : x.length < 2 ^ 64) :
    xferOf (xferBytes x) x.tenant x.src x.dest x.stream = some x := by
  have field (a r : List Byte) (off n v : Nat) (e : xferBytes x = a ++ (leBytes n v ++ r)) (h : a.length = off) :
      byteField (xferBytes x) off n = v % 256 ^ n := e ▸ byteField_number a r off n v h
  have f0 := field [] _ 0 1 (xferKindCode x.kind) (by simp [xferBytes, xferHeader]; rfl) (by simp)
  have f1 := field (leBytes 1 (xferKindCode x.kind)) _ 1 1 x.member (by simp [xferBytes, xferHeader]; rfl) (by simp)
  have f2 := field
    (leBytes 1 (xferKindCode x.kind) ++ leBytes 1 x.member) _ 2 1 (xferStatusCode x.status)
    (by simp [xferBytes, xferHeader]; rfl) (by simp)
  have f4 := field
    (leBytes 1 (xferKindCode x.kind) ++ leBytes 1 x.member ++ leBytes 1 (xferStatusCode x.status) ++ zeroBytes 1) _ 4 4 x.gathering
    (by simp [xferBytes, xferHeader]; rfl) (by simp)
  have f8 := field
    (leBytes 1 (xferKindCode x.kind) ++ leBytes 1 x.member ++ leBytes 1 (xferStatusCode x.status) ++ zeroBytes 1 ++ leBytes 4 x.gathering) _ 8 8 x.handle.toNat
    (by simp [xferBytes, xferHeader]; rfl) (by simp)
  have f16 := field
    (leBytes 1 (xferKindCode x.kind) ++ leBytes 1 x.member ++ leBytes 1 (xferStatusCode x.status) ++ zeroBytes 1 ++ leBytes 4 x.gathering ++ leBytes 8 x.handle.toNat) _ 16 4 x.row
    (by simp [xferBytes, xferHeader]; rfl) (by simp)
  have f24 := field
    (leBytes 1 (xferKindCode x.kind) ++ leBytes 1 x.member ++ leBytes 1 (xferStatusCode x.status) ++ zeroBytes 1 ++ leBytes 4 x.gathering ++ leBytes 8 x.handle.toNat ++ leBytes 4 x.row ++ zeroBytes 4) _ 24 8 x.length
    (by simp [xferBytes, xferHeader]; rfl) (by simp)
  have fd : digestAt (xferBytes x) 32 = x.digest := by
    have e := digestAt_between (leBytes 1 (xferKindCode x.kind) ++ leBytes 1 x.member ++ leBytes 1 (xferStatusCode x.status) ++ zeroBytes 1 ++ leBytes 4 x.gathering ++
      leBytes 8 x.handle.toNat ++ leBytes 4 x.row ++ zeroBytes 4 ++ leBytes 8 x.length) x.bytes x.digest 32 (by simp)
    simpa [xferBytes, xferHeader] using e
  have fb : ((xferBytes x).drop 64).take x.length = x.bytes := by simp [xferBytes, ← hl]
  rw [xferKindCode_lt] at f0
  rw [xferStatusCode_lt] at f2
  rw [Nat.mod_eq_of_lt (by simpa using hm)] at f1
  rw [Nat.mod_eq_of_lt (by simpa using hg)] at f4
  rw [Nat.mod_eq_of_lt (by simpa using x.handle.isLt)] at f8
  rw [Nat.mod_eq_of_lt (by simpa using hr)] at f16
  rw [Nat.mod_eq_of_lt (by simpa using h64)] at f24
  simp [xferOf, f0, f1, f2, f4, f8, f16, f24, fd, fb, xferKindOf_code, xferStatusOf_code]

@[simp] theorem length_xferBytes (x : Xfer) : (xferBytes x).length = 64 + x.bytes.length := by simp [xferBytes]

@[simp] theorem length_readPayload (r : BindReadReq) : (readPayload r).length = 64 := by simp [readPayload]

/-- A read whose fields fit reads back, of its tenant and from its source. -/
theorem readOf_readPayload (r : BindReadReq) (ho : r.offset < 2 ^ 48) (hl : r.length < 2 ^ 64) (hg : r.gathering < 2 ^ 32) :
    readOf (readPayload r) r.tenant r.src = r := by
  have field (a q : List Byte) (off n v : Nat) (e : readPayload r = a ++ (leBytes n v ++ q)) (h : a.length = off) :
      byteField (readPayload r) off n = v % 256 ^ n := e ▸ byteField_number a q off n v h
  have f0 := field [] _ 0 6 r.offset (by simp [readPayload]; rfl) rfl
  rw [Nat.mod_eq_of_lt (by simpa using ho)] at f0
  have f8 := field
    (leBytes 6 r.offset ++ zeroBytes 2) _ 8 8 r.length
    (by simp [readPayload]; rfl) (by simp)
  rw [Nat.mod_eq_of_lt (by simpa using hl)] at f8
  have f16 := field
    (leBytes 6 r.offset ++ zeroBytes 2 ++ leBytes 8 r.length) _ 16 4 r.replyStream.toNat
    (by simp [readPayload]; rfl) (by simp)
  rw [Nat.mod_eq_of_lt (by simpa using r.replyStream.isLt)] at f16
  have f20 := field
    (leBytes 6 r.offset ++ zeroBytes 2 ++ leBytes 8 r.length ++ leBytes 4 r.replyStream.toNat) _ 20 4 r.gathering
    (by simp [readPayload]; rfl) (by simp)
  rw [Nat.mod_eq_of_lt (by simpa using hg)] at f20
  have f24 := field
    (leBytes 6 r.offset ++ zeroBytes 2 ++ leBytes 8 r.length ++ leBytes 4 r.replyStream.toNat ++ leBytes 4 r.gathering) _ 24 8 r.handle.toNat
    (by simp [readPayload]; rfl) (by simp)
  rw [Nat.mod_eq_of_lt (by simpa using r.handle.isLt)] at f24
  simp [readOf, f0, f8, f16, f20, f24]

@[simp] theorem length_digestPayload (m : DigestMsg) : (digestPayload m).length = 64 := by simp [digestPayload]

/-- A digest message whose fields fit reads back. -/
theorem digestOf_digestPayload (m : DigestMsg) (hm : m.member < 256) (hg : m.groupSize < 256) (hl : m.length < 2 ^ 64) :
    digestOf (digestPayload m) = m := by
  have field (a q : List Byte) (off n v : Nat) (e : digestPayload m = a ++ (leBytes n v ++ q)) (h : a.length = off) :
      byteField (digestPayload m) off n = v % 256 ^ n := e ▸ byteField_number a q off n v h
  have f0 := field [] _ 0 8 m.handle.toNat (by simp [digestPayload]; rfl) rfl
  rw [Nat.mod_eq_of_lt (by simpa using m.handle.isLt)] at f0
  have f8 := field
    (leBytes 8 m.handle.toNat) _ 8 1 m.region.val
    (by simp [digestPayload]; rfl) (by simp)
  rw [Nat.mod_eq_of_lt (by simp)] at f8
  have f9 := field
    (leBytes 8 m.handle.toNat ++ leBytes 1 m.region.val) _ 9 1 m.member
    (by simp [digestPayload]; rfl) (by simp)
  rw [Nat.mod_eq_of_lt (by simpa using hm)] at f9
  have f10 := field
    (leBytes 8 m.handle.toNat ++ leBytes 1 m.region.val ++ leBytes 1 m.member) _ 10 1 m.groupSize
    (by simp [digestPayload]; rfl) (by simp)
  rw [Nat.mod_eq_of_lt (by simpa using hg)] at f10
  have f16 := field
    (leBytes 8 m.handle.toNat ++ leBytes 1 m.region.val ++ leBytes 1 m.member ++ leBytes 1 m.groupSize ++ zeroBytes 5) _ 16 8 m.length
    (by simp [digestPayload]; rfl) (by simp)
  rw [Nat.mod_eq_of_lt (by simpa using hl)] at f16
  have fd : digestAt (digestPayload m) 32 = m.digest := by
    have e := digestAt_between (leBytes 8 m.handle.toNat ++ leBytes 1 m.region.val ++ leBytes 1 m.member ++ leBytes 1 m.groupSize ++
      zeroBytes 5 ++ leBytes 8 m.length ++ zeroBytes 8) [] m.digest 32 (by simp)
    simpa [digestPayload] using e
  simp [digestOf, f0, f8, f9, f10, f16, fd]

end Sys2Proof.Machine
end

