-- ==== Sys2Proof/Laws/Tab.lean ====
section
/-!
SUPPORT. Laws/Tab.lean: reading after writing in keyed tables and in byte memory, and the canonical form that every memory
write keeps.
-/

namespace Sys2Proof.Machine

/-! ## Keyed tables -/

@[simp] theorem tabGet_tabPut_same {α : Type} (d v : α) (t : Tab α) (k : Nat) : tabGet d (tabPut t k v) k = v := by
  induction t with
  | nil => simp [tabPut, tabGet]
  | cons p r ih =>
    obtain ⟨i, x⟩ := p
    unfold tabPut
    split
    · simp [tabGet]
    · split
      · simp [tabGet]
      · rw [tabGet, if_neg (by omega), ih]

theorem tabGet_tabPut_ne {α : Type} (d v : α) (t : Tab α) {j k : Nat} (h : j ≠ k) :
    tabGet d (tabPut t k v) j = tabGet d t j := by
  induction t with
  | nil => simp [tabPut, tabGet, Ne.symm h]
  | cons p r ih =>
    obtain ⟨i, x⟩ := p
    unfold tabPut
    split
    · simp [tabGet, Ne.symm h]
    · split
      · simp [tabGet]; subst_vars; simp [Ne.symm h]
      · simp [tabGet, ih]

@[simp] theorem tabPut_tabPut_same {α : Type} (v w : α) (t : Tab α) (k : Nat) :
    tabPut (tabPut t k v) k w = tabPut t k w := by
  induction t with
  | nil => simp [tabPut]
  | cons p r ih =>
    obtain ⟨i, x⟩ := p
    by_cases h : k < i
    · simp [tabPut, h]
    · by_cases e : k = i
      · simp [tabPut, e]
      · simp [tabPut, h, e, ih]

/-! ## Byte memory -/

theorem memGet_of_lt {m : Memory} {lo a : Nat} (h : memWfFrom lo m = true) (ha : a < lo) : memGet m a = 0 := by
  induction m generalizing lo with
  | nil => rfl
  | cons p r ih =>
    obtain ⟨i, x⟩ := p
    simp [memWfFrom] at h
    rw [memGet, if_neg (by omega)]
    exact ih h.2 (by omega)

theorem memWfFrom_mono {m : Memory} {lo lo' : Nat} (h : memWfFrom lo m = true) (hl : lo' ≤ lo) : memWfFrom lo' m = true := by
  cases m with
  | nil => rfl
  | cons p r => obtain ⟨i, x⟩ := p; simp [memWfFrom] at *; exact ⟨⟨by omega, h.1.2⟩, h.2⟩

theorem memDrop_wf {m : Memory} {lo : Nat} (a : Nat) (h : memWfFrom lo m = true) : memWfFrom lo (memDrop m a) = true := by
  induction m generalizing lo with
  | nil => rfl
  | cons p r ih =>
    obtain ⟨i, x⟩ := p
    simp [memWfFrom] at h
    unfold memDrop
    split
    · exact memWfFrom_mono h.2 (by omega)
    · simp [memWfFrom, h.1, ih h.2]

theorem memIns_wf {m : Memory} {lo a : Nat} {v : Byte} (hv : (v != 0) = true) (hl : lo ≤ a)
    (h : memWfFrom lo m = true) : memWfFrom lo (memIns m a v) = true := by
  induction m generalizing lo with
  | nil => simp [memIns, memWfFrom, hl] at *; exact hv
  | cons p r ih =>
    obtain ⟨i, x⟩ := p
    simp [memWfFrom] at h hv
    unfold memIns
    split
    · simp [memWfFrom, hl, hv, h.1.2, memWfFrom_mono h.2 (Nat.le_refl _)]; omega
    · split
      · subst_vars; simp [memWfFrom, hl, hv, h.2]
      · simp [memWfFrom, h.1]; exact ih (by omega) h.2

/-- A write keeps the canonical form. -/
theorem memPut_wf {m : Memory} (a : Nat) (v : Byte) (h : memWf m = true) : memWf (memPut m a v) = true := by
  unfold memPut
  split
  · exact memDrop_wf a h
  · exact memIns_wf (by simpa using by assumption) (Nat.zero_le a) h

/-- A write of several bytes keeps the canonical form. -/
theorem memPutBytes_wf {m : Memory} (a : Nat) (l : List Byte) (h : memWf m = true) : memWf (memPutBytes m a l) = true := by
  induction l generalizing m a with
  | nil => exact h
  | cons v r ih => exact ih (a + 1) (memPut_wf a v h)

theorem memGet_memIns (m : Memory) (a j : Nat) (v : Byte) : memGet (memIns m a v) j = if j = a then v else memGet m j := by
  induction m with
  | nil => simp [memIns, memGet, eq_comm]
  | cons p r ih =>
    obtain ⟨i, x⟩ := p
    unfold memIns
    split
    · simp [memGet, eq_comm]
    · split
      · subst_vars; simp only [memGet]; by_cases hj : i = j
        · simp [hj]
        · rw [if_neg hj, if_neg (Ne.symm hj), if_neg hj]
      · simp only [memGet, ih]
        by_cases hi : i = j
        · subst hi; rw [if_pos rfl, if_pos rfl, if_neg (by omega)]
        · simp [hi]

theorem memGet_memDrop {m : Memory} {lo : Nat} (h : memWfFrom lo m = true) (a j : Nat) :
    memGet (memDrop m a) j = if j = a then 0 else memGet m j := by
  induction m generalizing lo with
  | nil => simp [memDrop, memGet]
  | cons p r ih =>
    obtain ⟨i, x⟩ := p
    simp [memWfFrom] at h
    unfold memDrop
    split
    · subst_vars
      split
      · subst_vars; exact memGet_of_lt h.2 (by omega)
      · rw [memGet, if_neg (by omega)]
    · simp only [memGet, ih h.2]
      by_cases hi : i = j
      · subst hi; simp; omega
      · simp [hi]

/-- Reading one byte after writing one: the byte written at its address, and what stood there before elsewhere. -/
theorem memGet_memPut {m : Memory} (h : memWf m = true) (a j : Nat) (v : Byte) :
    memGet (memPut m a v) j = if j = a then v else memGet m j := by
  unfold memPut
  split
  · subst_vars; exact memGet_memDrop h a j
  · exact memGet_memIns m a j v

/-- Reading one byte after writing several: a byte outside them stays. -/
theorem memGet_memPutBytes_out {m : Memory} (h : memWf m = true) (a j : Nat) (l : List Byte)
    (hj : j < a ∨ a + l.length ≤ j) : memGet (memPutBytes m a l) j = memGet m j := by
  induction l generalizing m a with
  | nil => rfl
  | cons v r ih =>
    simp only [List.length_cons] at hj
    rw [memPutBytes, ih (memPut_wf a v h) (a + 1) (by omega), memGet_memPut h, if_neg (by omega)]

/-- Reading back the bytes written. -/
theorem memGetBytes_memPutBytes {m : Memory} (h : memWf m = true) (a : Nat) (l : List Byte) :
    memGetBytes (memPutBytes m a l) a l.length = l := by
  induction l generalizing m a with
  | nil => rfl
  | cons v r ih =>
    simp only [List.length_cons, memGetBytes, memPutBytes]
    rw [memGet_memPutBytes_out (memPut_wf a v h) (a + 1) a r (by omega), memGet_memPut h, if_pos rfl,
      ih (memPut_wf a v h)]

end Sys2Proof.Machine
end

