-- ==== Sys2Proof/Laws/Cores.lean ====
section
/-!
SUPPORT. Laws/Cores.lean: reading a core after changing one, and what issuing an instruction does (R54, R76).
-/

namespace Sys2Proof.Machine

@[simp] theorem getCore_setCore_same (b : Block) (c : Nat) (k : Core) : getCore (setCore b c k) c = k := by
  simp [getCore, setCore]

theorem getCore_setCore_ne (b : Block) {c d : Nat} (k : Core) (h : d ≠ c) : getCore (setCore b c k) d = getCore b d := by
  simp only [getCore, setCore]; exact tabGet_tabPut_ne _ _ _ h

@[simp] theorem setCore_setCore_same (b : Block) (c : Nat) (k l : Core) : setCore (setCore b c k) c l = setCore b c l := by
  simp [setCore]

@[simp] theorem getCore_count (b : Block) (i n c : Nat) : getCore (count b i n) c = getCore b c := rfl

@[simp] theorem getCore_takeFree (b : Block) (c : Nat) : getCore (takeFree b) c = getCore b c := rfl

theorem setCore_count (b : Block) (i n c : Nat) (k : Core) : setCore (count b i n) c k = count (setCore b c k) i n := rfl

/-- Issuing an instruction costs its cycle and an open number of stall cycles, and nothing else. -/
theorem spend_eq (b : Block) (c : Nat) :
    spend b c = count (setCore (takeFree b) c
      { getCore b c with cycle := (getCore b c).cycle + 1 + BitVec.ofNat 64 (freeVal b) }) (coreCounter c 2) (freeVal b) := rfl

@[simp] theorem getCore_spend (b : Block) (c : Nat) :
    getCore (spend b c) c = { getCore b c with cycle := (getCore b c).cycle + 1 + BitVec.ofNat 64 (freeVal b) } := by
  simp [spend_eq]

/-- A core that is ready issues. -/
theorem issue_ready {b : Block} {c : Nat} (h : coreReady b c) (w : CoreWait → Bool) (f : Block → Block) :
    issue c w f b = f (spend b c) := by
  simp [issue, h.1, h.2]

/-- A core that stands or stalls in another instruction does nothing. -/
theorem issue_idle {b : Block} {c : Nat} (h : coreRuns b c = false) (w : CoreWait → Bool) (f : Block → Block) :
    issue c w f b = b := by
  simp [issue, h]

theorem stepCore_eq (b : Block) (c : Nat) (f : Core → Core) :
    stepCore b c f = setCore b c { f (getCore b c) with pc := (f (getCore b c)).pc + 4, wait := .none } := by
  simp [stepCore, advance, modCore]

theorem onlyCore_spend (b : Block) (c : Nat) (k : Core) (l : List Nat) (h : coreCounter c 2 ∈ l) :
    onlyCore c l b (setCore (spend b c) c k) := by
  refine ⟨fun d hd => ?_, fun i hi => ?_, rfl⟩
  · rw [getCore_setCore_ne _ _ hd, spend_eq, getCore_count, getCore_setCore_ne _ _ hd, getCore_takeFree]
  · have hne : i ≠ coreCounter c 2 := fun e => hi (e ▸ h)
    exact tabGet_tabPut_ne _ _ _ hne

end Sys2Proof.Machine
end

