-- ==== Sys2Proof/Laws/State.lean ====
section
/-!
SUPPORT. Laws/State.lean: what each named update leaves of every field of the Block, one lemma per field and update; a
change of one entry is an update with the changed entry.
-/

namespace Sys2Proof.Machine

@[simp] theorem setTen_freeCtr (b : Block) (t : Nat) (r : TenantRec) : (setTen b t r).freeCtr = b.freeCtr := rfl
@[simp] theorem setTen_out (b : Block) (t : Nat) (r : TenantRec) : (setTen b t r).out = b.out := rfl
@[simp] theorem setTen_leaf (b : Block) (t : Nat) (r : TenantRec) : (setTen b t r).leaf = b.leaf := rfl
@[simp] theorem setTen_ident (b : Block) (t : Nat) (r : TenantRec) : (setTen b t r).ident = b.ident := rfl
@[simp] theorem setTen_fly (b : Block) (t : Nat) (r : TenantRec) : (setTen b t r).fly = b.fly := rfl
@[simp] theorem setTen_obs (b : Block) (t : Nat) (r : TenantRec) : (setTen b t r).obs = b.obs := rfl
@[simp] theorem setTen_time (b : Block) (t : Nat) (r : TenantRec) : (setTen b t r).time = b.time := rfl
@[simp] theorem setTen_spine (b : Block) (t : Nat) (r : TenantRec) : (setTen b t r).spine = b.spine := rfl
@[simp] theorem setTen_links (b : Block) (t : Nat) (r : TenantRec) : (setTen b t r).links = b.links := rfl
@[simp] theorem setTen_col (b : Block) (t : Nat) (r : TenantRec) : (setTen b t r).col = b.col := rfl
@[simp] theorem setTen_ver (b : Block) (t : Nat) (r : TenantRec) : (setTen b t r).ver = b.ver := rfl
@[simp] theorem setTen_tenants (b : Block) (t : Nat) (r : TenantRec) : (setTen b t r).tenants = tabPut b.tenants t r := rfl
@[simp] theorem setTen_slots (b : Block) (t : Nat) (r : TenantRec) : (setTen b t r).slots = b.slots := rfl
@[simp] theorem setTen_gt (b : Block) (t : Nat) (r : TenantRec) : (setTen b t r).gt = b.gt := rfl
@[simp] theorem setTen_bd (b : Block) (t : Nat) (r : TenantRec) : (setTen b t r).bd = b.bd := rfl
@[simp] theorem setTen_sn (b : Block) (t : Nat) (r : TenantRec) : (setTen b t r).sn = b.sn := rfl
@[simp] theorem setTen_hr (b : Block) (t : Nat) (r : TenantRec) : (setTen b t r).hr = b.hr := rfl
@[simp] theorem setTen_sus (b : Block) (t : Nat) (r : TenantRec) : (setTen b t r).sus = b.sus := rfl
@[simp] theorem setTen_ck (b : Block) (t : Nat) (r : TenantRec) : (setTen b t r).ck = b.ck := rfl
@[simp] theorem setTen_host (b : Block) (t : Nat) (r : TenantRec) : (setTen b t r).host = b.host := rfl
@[simp] theorem setTen_fw (b : Block) (t : Nat) (r : TenantRec) : (setTen b t r).fw = b.fw := rfl
@[simp] theorem setTen_pw (b : Block) (t : Nat) (r : TenantRec) : (setTen b t r).pw = b.pw := rfl

@[simp] theorem setSlot_freeCtr (b : Block) (n : Nat) (r : SlotRec) : (setSlot b n r).freeCtr = b.freeCtr := rfl
@[simp] theorem setSlot_out (b : Block) (n : Nat) (r : SlotRec) : (setSlot b n r).out = b.out := rfl
@[simp] theorem setSlot_leaf (b : Block) (n : Nat) (r : SlotRec) : (setSlot b n r).leaf = b.leaf := rfl
@[simp] theorem setSlot_ident (b : Block) (n : Nat) (r : SlotRec) : (setSlot b n r).ident = b.ident := rfl
@[simp] theorem setSlot_fly (b : Block) (n : Nat) (r : SlotRec) : (setSlot b n r).fly = b.fly := rfl
@[simp] theorem setSlot_obs (b : Block) (n : Nat) (r : SlotRec) : (setSlot b n r).obs = b.obs := rfl
@[simp] theorem setSlot_time (b : Block) (n : Nat) (r : SlotRec) : (setSlot b n r).time = b.time := rfl
@[simp] theorem setSlot_spine (b : Block) (n : Nat) (r : SlotRec) : (setSlot b n r).spine = b.spine := rfl
@[simp] theorem setSlot_links (b : Block) (n : Nat) (r : SlotRec) : (setSlot b n r).links = b.links := rfl
@[simp] theorem setSlot_col (b : Block) (n : Nat) (r : SlotRec) : (setSlot b n r).col = b.col := rfl
@[simp] theorem setSlot_ver (b : Block) (n : Nat) (r : SlotRec) : (setSlot b n r).ver = b.ver := rfl
@[simp] theorem setSlot_tenants (b : Block) (n : Nat) (r : SlotRec) : (setSlot b n r).tenants = b.tenants := rfl
@[simp] theorem setSlot_slots (b : Block) (n : Nat) (r : SlotRec) : (setSlot b n r).slots = tabPut b.slots n r := rfl
@[simp] theorem setSlot_gt (b : Block) (n : Nat) (r : SlotRec) : (setSlot b n r).gt = b.gt := rfl
@[simp] theorem setSlot_bd (b : Block) (n : Nat) (r : SlotRec) : (setSlot b n r).bd = b.bd := rfl
@[simp] theorem setSlot_sn (b : Block) (n : Nat) (r : SlotRec) : (setSlot b n r).sn = b.sn := rfl
@[simp] theorem setSlot_hr (b : Block) (n : Nat) (r : SlotRec) : (setSlot b n r).hr = b.hr := rfl
@[simp] theorem setSlot_sus (b : Block) (n : Nat) (r : SlotRec) : (setSlot b n r).sus = b.sus := rfl
@[simp] theorem setSlot_ck (b : Block) (n : Nat) (r : SlotRec) : (setSlot b n r).ck = b.ck := rfl
@[simp] theorem setSlot_host (b : Block) (n : Nat) (r : SlotRec) : (setSlot b n r).host = b.host := rfl
@[simp] theorem setSlot_fw (b : Block) (n : Nat) (r : SlotRec) : (setSlot b n r).fw = b.fw := rfl
@[simp] theorem setSlot_pw (b : Block) (n : Nat) (r : SlotRec) : (setSlot b n r).pw = b.pw := rfl

@[simp] theorem setSn_freeCtr (b : Block) (n : Nat) (r : Sentinel) : (setSn b n r).freeCtr = b.freeCtr := rfl
@[simp] theorem setSn_out (b : Block) (n : Nat) (r : Sentinel) : (setSn b n r).out = b.out := rfl
@[simp] theorem setSn_leaf (b : Block) (n : Nat) (r : Sentinel) : (setSn b n r).leaf = b.leaf := rfl
@[simp] theorem setSn_ident (b : Block) (n : Nat) (r : Sentinel) : (setSn b n r).ident = b.ident := rfl
@[simp] theorem setSn_fly (b : Block) (n : Nat) (r : Sentinel) : (setSn b n r).fly = b.fly := rfl
@[simp] theorem setSn_obs (b : Block) (n : Nat) (r : Sentinel) : (setSn b n r).obs = b.obs := rfl
@[simp] theorem setSn_time (b : Block) (n : Nat) (r : Sentinel) : (setSn b n r).time = b.time := rfl
@[simp] theorem setSn_spine (b : Block) (n : Nat) (r : Sentinel) : (setSn b n r).spine = b.spine := rfl
@[simp] theorem setSn_links (b : Block) (n : Nat) (r : Sentinel) : (setSn b n r).links = b.links := rfl
@[simp] theorem setSn_col (b : Block) (n : Nat) (r : Sentinel) : (setSn b n r).col = b.col := rfl
@[simp] theorem setSn_ver (b : Block) (n : Nat) (r : Sentinel) : (setSn b n r).ver = b.ver := rfl
@[simp] theorem setSn_tenants (b : Block) (n : Nat) (r : Sentinel) : (setSn b n r).tenants = b.tenants := rfl
@[simp] theorem setSn_slots (b : Block) (n : Nat) (r : Sentinel) : (setSn b n r).slots = b.slots := rfl
@[simp] theorem setSn_gt (b : Block) (n : Nat) (r : Sentinel) : (setSn b n r).gt = b.gt := rfl
@[simp] theorem setSn_bd (b : Block) (n : Nat) (r : Sentinel) : (setSn b n r).bd = b.bd := rfl
@[simp] theorem setSn_sn (b : Block) (n : Nat) (r : Sentinel) : (setSn b n r).sn = tabPut b.sn n r := rfl
@[simp] theorem setSn_hr (b : Block) (n : Nat) (r : Sentinel) : (setSn b n r).hr = b.hr := rfl
@[simp] theorem setSn_sus (b : Block) (n : Nat) (r : Sentinel) : (setSn b n r).sus = b.sus := rfl
@[simp] theorem setSn_ck (b : Block) (n : Nat) (r : Sentinel) : (setSn b n r).ck = b.ck := rfl
@[simp] theorem setSn_host (b : Block) (n : Nat) (r : Sentinel) : (setSn b n r).host = b.host := rfl
@[simp] theorem setSn_fw (b : Block) (n : Nat) (r : Sentinel) : (setSn b n r).fw = b.fw := rfl
@[simp] theorem setSn_pw (b : Block) (n : Nat) (r : Sentinel) : (setSn b n r).pw = b.pw := rfl

@[simp] theorem setLink_freeCtr (b : Block) (n : Nat) (r : Link) : (setLink b n r).freeCtr = b.freeCtr := rfl
@[simp] theorem setLink_out (b : Block) (n : Nat) (r : Link) : (setLink b n r).out = b.out := rfl
@[simp] theorem setLink_leaf (b : Block) (n : Nat) (r : Link) : (setLink b n r).leaf = b.leaf := rfl
@[simp] theorem setLink_ident (b : Block) (n : Nat) (r : Link) : (setLink b n r).ident = b.ident := rfl
@[simp] theorem setLink_fly (b : Block) (n : Nat) (r : Link) : (setLink b n r).fly = b.fly := rfl
@[simp] theorem setLink_obs (b : Block) (n : Nat) (r : Link) : (setLink b n r).obs = b.obs := rfl
@[simp] theorem setLink_time (b : Block) (n : Nat) (r : Link) : (setLink b n r).time = b.time := rfl
@[simp] theorem setLink_spine (b : Block) (n : Nat) (r : Link) : (setLink b n r).spine = b.spine := rfl
@[simp] theorem setLink_links (b : Block) (n : Nat) (r : Link) : (setLink b n r).links = tabPut b.links n r := rfl
@[simp] theorem setLink_col (b : Block) (n : Nat) (r : Link) : (setLink b n r).col = b.col := rfl
@[simp] theorem setLink_ver (b : Block) (n : Nat) (r : Link) : (setLink b n r).ver = b.ver := rfl
@[simp] theorem setLink_tenants (b : Block) (n : Nat) (r : Link) : (setLink b n r).tenants = b.tenants := rfl
@[simp] theorem setLink_slots (b : Block) (n : Nat) (r : Link) : (setLink b n r).slots = b.slots := rfl
@[simp] theorem setLink_gt (b : Block) (n : Nat) (r : Link) : (setLink b n r).gt = b.gt := rfl
@[simp] theorem setLink_bd (b : Block) (n : Nat) (r : Link) : (setLink b n r).bd = b.bd := rfl
@[simp] theorem setLink_sn (b : Block) (n : Nat) (r : Link) : (setLink b n r).sn = b.sn := rfl
@[simp] theorem setLink_hr (b : Block) (n : Nat) (r : Link) : (setLink b n r).hr = b.hr := rfl
@[simp] theorem setLink_sus (b : Block) (n : Nat) (r : Link) : (setLink b n r).sus = b.sus := rfl
@[simp] theorem setLink_ck (b : Block) (n : Nat) (r : Link) : (setLink b n r).ck = b.ck := rfl
@[simp] theorem setLink_host (b : Block) (n : Nat) (r : Link) : (setLink b n r).host = b.host := rfl
@[simp] theorem setLink_fw (b : Block) (n : Nat) (r : Link) : (setLink b n r).fw = b.fw := rfl
@[simp] theorem setLink_pw (b : Block) (n : Nat) (r : Link) : (setLink b n r).pw = b.pw := rfl

@[simp] theorem setCore_freeCtr (b : Block) (n : Nat) (r : Core) : (setCore b n r).freeCtr = b.freeCtr := rfl
@[simp] theorem setCore_out (b : Block) (n : Nat) (r : Core) : (setCore b n r).out = b.out := rfl
@[simp] theorem setCore_leaf (b : Block) (n : Nat) (r : Core) : (setCore b n r).leaf = b.leaf := rfl
@[simp] theorem setCore_ident (b : Block) (n : Nat) (r : Core) : (setCore b n r).ident = b.ident := rfl
@[simp] theorem setCore_fly (b : Block) (n : Nat) (r : Core) : (setCore b n r).fly = b.fly := rfl
@[simp] theorem setCore_obs (b : Block) (n : Nat) (r : Core) : (setCore b n r).obs = b.obs := rfl
@[simp] theorem setCore_time (b : Block) (n : Nat) (r : Core) : (setCore b n r).time = b.time := rfl
@[simp] theorem setCore_spine (b : Block) (n : Nat) (r : Core) : (setCore b n r).spine = b.spine := rfl
@[simp] theorem setCore_links (b : Block) (n : Nat) (r : Core) : (setCore b n r).links = b.links := rfl
@[simp] theorem setCore_col (b : Block) (n : Nat) (r : Core) : (setCore b n r).col = { b.col with cores := tabPut b.col.cores n r } := rfl
@[simp] theorem setCore_ver (b : Block) (n : Nat) (r : Core) : (setCore b n r).ver = b.ver := rfl
@[simp] theorem setCore_tenants (b : Block) (n : Nat) (r : Core) : (setCore b n r).tenants = b.tenants := rfl
@[simp] theorem setCore_slots (b : Block) (n : Nat) (r : Core) : (setCore b n r).slots = b.slots := rfl
@[simp] theorem setCore_gt (b : Block) (n : Nat) (r : Core) : (setCore b n r).gt = b.gt := rfl
@[simp] theorem setCore_bd (b : Block) (n : Nat) (r : Core) : (setCore b n r).bd = b.bd := rfl
@[simp] theorem setCore_sn (b : Block) (n : Nat) (r : Core) : (setCore b n r).sn = b.sn := rfl
@[simp] theorem setCore_hr (b : Block) (n : Nat) (r : Core) : (setCore b n r).hr = b.hr := rfl
@[simp] theorem setCore_sus (b : Block) (n : Nat) (r : Core) : (setCore b n r).sus = b.sus := rfl
@[simp] theorem setCore_ck (b : Block) (n : Nat) (r : Core) : (setCore b n r).ck = b.ck := rfl
@[simp] theorem setCore_host (b : Block) (n : Nat) (r : Core) : (setCore b n r).host = b.host := rfl
@[simp] theorem setCore_fw (b : Block) (n : Nat) (r : Core) : (setCore b n r).fw = b.fw := rfl
@[simp] theorem setCore_pw (b : Block) (n : Nat) (r : Core) : (setCore b n r).pw = b.pw := rfl

@[simp] theorem setPslot_freeCtr (b : Block) (n : Nat) (r : ProgSlot) : (setPslot b n r).freeCtr = b.freeCtr := rfl
@[simp] theorem setPslot_out (b : Block) (n : Nat) (r : ProgSlot) : (setPslot b n r).out = b.out := rfl
@[simp] theorem setPslot_leaf (b : Block) (n : Nat) (r : ProgSlot) : (setPslot b n r).leaf = b.leaf := rfl
@[simp] theorem setPslot_ident (b : Block) (n : Nat) (r : ProgSlot) : (setPslot b n r).ident = b.ident := rfl
@[simp] theorem setPslot_fly (b : Block) (n : Nat) (r : ProgSlot) : (setPslot b n r).fly = b.fly := rfl
@[simp] theorem setPslot_obs (b : Block) (n : Nat) (r : ProgSlot) : (setPslot b n r).obs = b.obs := rfl
@[simp] theorem setPslot_time (b : Block) (n : Nat) (r : ProgSlot) : (setPslot b n r).time = b.time := rfl
@[simp] theorem setPslot_spine (b : Block) (n : Nat) (r : ProgSlot) : (setPslot b n r).spine = b.spine := rfl
@[simp] theorem setPslot_links (b : Block) (n : Nat) (r : ProgSlot) : (setPslot b n r).links = b.links := rfl
@[simp] theorem setPslot_col (b : Block) (n : Nat) (r : ProgSlot) : (setPslot b n r).col = { b.col with slots := tabPut b.col.slots n r } := rfl
@[simp] theorem setPslot_ver (b : Block) (n : Nat) (r : ProgSlot) : (setPslot b n r).ver = b.ver := rfl
@[simp] theorem setPslot_tenants (b : Block) (n : Nat) (r : ProgSlot) : (setPslot b n r).tenants = b.tenants := rfl
@[simp] theorem setPslot_slots (b : Block) (n : Nat) (r : ProgSlot) : (setPslot b n r).slots = b.slots := rfl
@[simp] theorem setPslot_gt (b : Block) (n : Nat) (r : ProgSlot) : (setPslot b n r).gt = b.gt := rfl
@[simp] theorem setPslot_bd (b : Block) (n : Nat) (r : ProgSlot) : (setPslot b n r).bd = b.bd := rfl
@[simp] theorem setPslot_sn (b : Block) (n : Nat) (r : ProgSlot) : (setPslot b n r).sn = b.sn := rfl
@[simp] theorem setPslot_hr (b : Block) (n : Nat) (r : ProgSlot) : (setPslot b n r).hr = b.hr := rfl
@[simp] theorem setPslot_sus (b : Block) (n : Nat) (r : ProgSlot) : (setPslot b n r).sus = b.sus := rfl
@[simp] theorem setPslot_ck (b : Block) (n : Nat) (r : ProgSlot) : (setPslot b n r).ck = b.ck := rfl
@[simp] theorem setPslot_host (b : Block) (n : Nat) (r : ProgSlot) : (setPslot b n r).host = b.host := rfl
@[simp] theorem setPslot_fw (b : Block) (n : Nat) (r : ProgSlot) : (setPslot b n r).fw = b.fw := rfl
@[simp] theorem setPslot_pw (b : Block) (n : Nat) (r : ProgSlot) : (setPslot b n r).pw = b.pw := rfl

@[simp] theorem setPort_freeCtr (b : Block) (n : Nat) (r : SpPort) : (setPort b n r).freeCtr = b.freeCtr := rfl
@[simp] theorem setPort_out (b : Block) (n : Nat) (r : SpPort) : (setPort b n r).out = b.out := rfl
@[simp] theorem setPort_leaf (b : Block) (n : Nat) (r : SpPort) : (setPort b n r).leaf = b.leaf := rfl
@[simp] theorem setPort_ident (b : Block) (n : Nat) (r : SpPort) : (setPort b n r).ident = b.ident := rfl
@[simp] theorem setPort_fly (b : Block) (n : Nat) (r : SpPort) : (setPort b n r).fly = b.fly := rfl
@[simp] theorem setPort_obs (b : Block) (n : Nat) (r : SpPort) : (setPort b n r).obs = b.obs := rfl
@[simp] theorem setPort_time (b : Block) (n : Nat) (r : SpPort) : (setPort b n r).time = b.time := rfl
@[simp] theorem setPort_spine (b : Block) (n : Nat) (r : SpPort) : (setPort b n r).spine = { b.spine with ports := tabPut b.spine.ports n r } := rfl
@[simp] theorem setPort_links (b : Block) (n : Nat) (r : SpPort) : (setPort b n r).links = b.links := rfl
@[simp] theorem setPort_col (b : Block) (n : Nat) (r : SpPort) : (setPort b n r).col = b.col := rfl
@[simp] theorem setPort_ver (b : Block) (n : Nat) (r : SpPort) : (setPort b n r).ver = b.ver := rfl
@[simp] theorem setPort_tenants (b : Block) (n : Nat) (r : SpPort) : (setPort b n r).tenants = b.tenants := rfl
@[simp] theorem setPort_slots (b : Block) (n : Nat) (r : SpPort) : (setPort b n r).slots = b.slots := rfl
@[simp] theorem setPort_gt (b : Block) (n : Nat) (r : SpPort) : (setPort b n r).gt = b.gt := rfl
@[simp] theorem setPort_bd (b : Block) (n : Nat) (r : SpPort) : (setPort b n r).bd = b.bd := rfl
@[simp] theorem setPort_sn (b : Block) (n : Nat) (r : SpPort) : (setPort b n r).sn = b.sn := rfl
@[simp] theorem setPort_hr (b : Block) (n : Nat) (r : SpPort) : (setPort b n r).hr = b.hr := rfl
@[simp] theorem setPort_sus (b : Block) (n : Nat) (r : SpPort) : (setPort b n r).sus = b.sus := rfl
@[simp] theorem setPort_ck (b : Block) (n : Nat) (r : SpPort) : (setPort b n r).ck = b.ck := rfl
@[simp] theorem setPort_host (b : Block) (n : Nat) (r : SpPort) : (setPort b n r).host = b.host := rfl
@[simp] theorem setPort_fw (b : Block) (n : Nat) (r : SpPort) : (setPort b n r).fw = b.fw := rfl
@[simp] theorem setPort_pw (b : Block) (n : Nat) (r : SpPort) : (setPort b n r).pw = b.pw := rfl

@[simp] theorem setHop_freeCtr (b : Block) (n : Nat) (r : Hop) : (setHop b n r).freeCtr = b.freeCtr := rfl
@[simp] theorem setHop_out (b : Block) (n : Nat) (r : Hop) : (setHop b n r).out = b.out := rfl
@[simp] theorem setHop_leaf (b : Block) (n : Nat) (r : Hop) : (setHop b n r).leaf = b.leaf := rfl
@[simp] theorem setHop_ident (b : Block) (n : Nat) (r : Hop) : (setHop b n r).ident = b.ident := rfl
@[simp] theorem setHop_fly (b : Block) (n : Nat) (r : Hop) : (setHop b n r).fly = b.fly := rfl
@[simp] theorem setHop_obs (b : Block) (n : Nat) (r : Hop) : (setHop b n r).obs = b.obs := rfl
@[simp] theorem setHop_time (b : Block) (n : Nat) (r : Hop) : (setHop b n r).time = b.time := rfl
@[simp] theorem setHop_spine (b : Block) (n : Nat) (r : Hop) : (setHop b n r).spine = { b.spine with hops := tabPut b.spine.hops n r } := rfl
@[simp] theorem setHop_links (b : Block) (n : Nat) (r : Hop) : (setHop b n r).links = b.links := rfl
@[simp] theorem setHop_col (b : Block) (n : Nat) (r : Hop) : (setHop b n r).col = b.col := rfl
@[simp] theorem setHop_ver (b : Block) (n : Nat) (r : Hop) : (setHop b n r).ver = b.ver := rfl
@[simp] theorem setHop_tenants (b : Block) (n : Nat) (r : Hop) : (setHop b n r).tenants = b.tenants := rfl
@[simp] theorem setHop_slots (b : Block) (n : Nat) (r : Hop) : (setHop b n r).slots = b.slots := rfl
@[simp] theorem setHop_gt (b : Block) (n : Nat) (r : Hop) : (setHop b n r).gt = b.gt := rfl
@[simp] theorem setHop_bd (b : Block) (n : Nat) (r : Hop) : (setHop b n r).bd = b.bd := rfl
@[simp] theorem setHop_sn (b : Block) (n : Nat) (r : Hop) : (setHop b n r).sn = b.sn := rfl
@[simp] theorem setHop_hr (b : Block) (n : Nat) (r : Hop) : (setHop b n r).hr = b.hr := rfl
@[simp] theorem setHop_sus (b : Block) (n : Nat) (r : Hop) : (setHop b n r).sus = b.sus := rfl
@[simp] theorem setHop_ck (b : Block) (n : Nat) (r : Hop) : (setHop b n r).ck = b.ck := rfl
@[simp] theorem setHop_host (b : Block) (n : Nat) (r : Hop) : (setHop b n r).host = b.host := rfl
@[simp] theorem setHop_fw (b : Block) (n : Nat) (r : Hop) : (setHop b n r).fw = b.fw := rfl
@[simp] theorem setHop_pw (b : Block) (n : Nat) (r : Hop) : (setHop b n r).pw = b.pw := rfl

@[simp] theorem setRing_freeCtr (b : Block) (n : Nat) (r : Ring) : (setRing b n r).freeCtr = b.freeCtr := rfl
@[simp] theorem setRing_out (b : Block) (n : Nat) (r : Ring) : (setRing b n r).out = b.out := rfl
@[simp] theorem setRing_leaf (b : Block) (n : Nat) (r : Ring) : (setRing b n r).leaf = b.leaf := rfl
@[simp] theorem setRing_ident (b : Block) (n : Nat) (r : Ring) : (setRing b n r).ident = b.ident := rfl
@[simp] theorem setRing_fly (b : Block) (n : Nat) (r : Ring) : (setRing b n r).fly = b.fly := rfl
@[simp] theorem setRing_obs (b : Block) (n : Nat) (r : Ring) : (setRing b n r).obs = b.obs := rfl
@[simp] theorem setRing_time (b : Block) (n : Nat) (r : Ring) : (setRing b n r).time = b.time := rfl
@[simp] theorem setRing_spine (b : Block) (n : Nat) (r : Ring) : (setRing b n r).spine = { b.spine with rings := tabPut b.spine.rings n r } := rfl
@[simp] theorem setRing_links (b : Block) (n : Nat) (r : Ring) : (setRing b n r).links = b.links := rfl
@[simp] theorem setRing_col (b : Block) (n : Nat) (r : Ring) : (setRing b n r).col = b.col := rfl
@[simp] theorem setRing_ver (b : Block) (n : Nat) (r : Ring) : (setRing b n r).ver = b.ver := rfl
@[simp] theorem setRing_tenants (b : Block) (n : Nat) (r : Ring) : (setRing b n r).tenants = b.tenants := rfl
@[simp] theorem setRing_slots (b : Block) (n : Nat) (r : Ring) : (setRing b n r).slots = b.slots := rfl
@[simp] theorem setRing_gt (b : Block) (n : Nat) (r : Ring) : (setRing b n r).gt = b.gt := rfl
@[simp] theorem setRing_bd (b : Block) (n : Nat) (r : Ring) : (setRing b n r).bd = b.bd := rfl
@[simp] theorem setRing_sn (b : Block) (n : Nat) (r : Ring) : (setRing b n r).sn = b.sn := rfl
@[simp] theorem setRing_hr (b : Block) (n : Nat) (r : Ring) : (setRing b n r).hr = b.hr := rfl
@[simp] theorem setRing_sus (b : Block) (n : Nat) (r : Ring) : (setRing b n r).sus = b.sus := rfl
@[simp] theorem setRing_ck (b : Block) (n : Nat) (r : Ring) : (setRing b n r).ck = b.ck := rfl
@[simp] theorem setRing_host (b : Block) (n : Nat) (r : Ring) : (setRing b n r).host = b.host := rfl
@[simp] theorem setRing_fw (b : Block) (n : Nat) (r : Ring) : (setRing b n r).fw = b.fw := rfl
@[simp] theorem setRing_pw (b : Block) (n : Nat) (r : Ring) : (setRing b n r).pw = b.pw := rfl

@[simp] theorem setChan_freeCtr (b : Block) (n : Nat) (r : RedChan) : (setChan b n r).freeCtr = b.freeCtr := rfl
@[simp] theorem setChan_out (b : Block) (n : Nat) (r : RedChan) : (setChan b n r).out = b.out := rfl
@[simp] theorem setChan_leaf (b : Block) (n : Nat) (r : RedChan) : (setChan b n r).leaf = b.leaf := rfl
@[simp] theorem setChan_ident (b : Block) (n : Nat) (r : RedChan) : (setChan b n r).ident = b.ident := rfl
@[simp] theorem setChan_fly (b : Block) (n : Nat) (r : RedChan) : (setChan b n r).fly = b.fly := rfl
@[simp] theorem setChan_obs (b : Block) (n : Nat) (r : RedChan) : (setChan b n r).obs = b.obs := rfl
@[simp] theorem setChan_time (b : Block) (n : Nat) (r : RedChan) : (setChan b n r).time = b.time := rfl
@[simp] theorem setChan_spine (b : Block) (n : Nat) (r : RedChan) : (setChan b n r).spine = { b.spine with chans := tabPut b.spine.chans n r } := rfl
@[simp] theorem setChan_links (b : Block) (n : Nat) (r : RedChan) : (setChan b n r).links = b.links := rfl
@[simp] theorem setChan_col (b : Block) (n : Nat) (r : RedChan) : (setChan b n r).col = b.col := rfl
@[simp] theorem setChan_ver (b : Block) (n : Nat) (r : RedChan) : (setChan b n r).ver = b.ver := rfl
@[simp] theorem setChan_tenants (b : Block) (n : Nat) (r : RedChan) : (setChan b n r).tenants = b.tenants := rfl
@[simp] theorem setChan_slots (b : Block) (n : Nat) (r : RedChan) : (setChan b n r).slots = b.slots := rfl
@[simp] theorem setChan_gt (b : Block) (n : Nat) (r : RedChan) : (setChan b n r).gt = b.gt := rfl
@[simp] theorem setChan_bd (b : Block) (n : Nat) (r : RedChan) : (setChan b n r).bd = b.bd := rfl
@[simp] theorem setChan_sn (b : Block) (n : Nat) (r : RedChan) : (setChan b n r).sn = b.sn := rfl
@[simp] theorem setChan_hr (b : Block) (n : Nat) (r : RedChan) : (setChan b n r).hr = b.hr := rfl
@[simp] theorem setChan_sus (b : Block) (n : Nat) (r : RedChan) : (setChan b n r).sus = b.sus := rfl
@[simp] theorem setChan_ck (b : Block) (n : Nat) (r : RedChan) : (setChan b n r).ck = b.ck := rfl
@[simp] theorem setChan_host (b : Block) (n : Nat) (r : RedChan) : (setChan b n r).host = b.host := rfl
@[simp] theorem setChan_fw (b : Block) (n : Nat) (r : RedChan) : (setChan b n r).fw = b.fw := rfl
@[simp] theorem setChan_pw (b : Block) (n : Nat) (r : RedChan) : (setChan b n r).pw = b.pw := rfl

@[simp] theorem setDom_freeCtr (b : Block) (n : Nat) (r : Domain) : (setDom b n r).freeCtr = b.freeCtr := rfl
@[simp] theorem setDom_out (b : Block) (n : Nat) (r : Domain) : (setDom b n r).out = b.out := rfl
@[simp] theorem setDom_leaf (b : Block) (n : Nat) (r : Domain) : (setDom b n r).leaf = b.leaf := rfl
@[simp] theorem setDom_ident (b : Block) (n : Nat) (r : Domain) : (setDom b n r).ident = b.ident := rfl
@[simp] theorem setDom_fly (b : Block) (n : Nat) (r : Domain) : (setDom b n r).fly = b.fly := rfl
@[simp] theorem setDom_obs (b : Block) (n : Nat) (r : Domain) : (setDom b n r).obs = b.obs := rfl
@[simp] theorem setDom_time (b : Block) (n : Nat) (r : Domain) : (setDom b n r).time = b.time := rfl
@[simp] theorem setDom_spine (b : Block) (n : Nat) (r : Domain) : (setDom b n r).spine = b.spine := rfl
@[simp] theorem setDom_links (b : Block) (n : Nat) (r : Domain) : (setDom b n r).links = b.links := rfl
@[simp] theorem setDom_col (b : Block) (n : Nat) (r : Domain) : (setDom b n r).col = b.col := rfl
@[simp] theorem setDom_ver (b : Block) (n : Nat) (r : Domain) : (setDom b n r).ver = b.ver := rfl
@[simp] theorem setDom_tenants (b : Block) (n : Nat) (r : Domain) : (setDom b n r).tenants = b.tenants := rfl
@[simp] theorem setDom_slots (b : Block) (n : Nat) (r : Domain) : (setDom b n r).slots = b.slots := rfl
@[simp] theorem setDom_gt (b : Block) (n : Nat) (r : Domain) : (setDom b n r).gt = b.gt := rfl
@[simp] theorem setDom_bd (b : Block) (n : Nat) (r : Domain) : (setDom b n r).bd = b.bd := rfl
@[simp] theorem setDom_sn (b : Block) (n : Nat) (r : Domain) : (setDom b n r).sn = b.sn := rfl
@[simp] theorem setDom_hr (b : Block) (n : Nat) (r : Domain) : (setDom b n r).hr = { b.hr with domains := tabPut b.hr.domains n r } := rfl
@[simp] theorem setDom_sus (b : Block) (n : Nat) (r : Domain) : (setDom b n r).sus = b.sus := rfl
@[simp] theorem setDom_ck (b : Block) (n : Nat) (r : Domain) : (setDom b n r).ck = b.ck := rfl
@[simp] theorem setDom_host (b : Block) (n : Nat) (r : Domain) : (setDom b n r).host = b.host := rfl
@[simp] theorem setDom_fw (b : Block) (n : Nat) (r : Domain) : (setDom b n r).fw = b.fw := rfl
@[simp] theorem setDom_pw (b : Block) (n : Nat) (r : Domain) : (setDom b n r).pw = b.pw := rfl

@[simp] theorem setEntry_freeCtr (b : Block) (n : Nat) (r : Entry) : (setEntry b n r).freeCtr = b.freeCtr := rfl
@[simp] theorem setEntry_out (b : Block) (n : Nat) (r : Entry) : (setEntry b n r).out = b.out := rfl
@[simp] theorem setEntry_leaf (b : Block) (n : Nat) (r : Entry) : (setEntry b n r).leaf = b.leaf := rfl
@[simp] theorem setEntry_ident (b : Block) (n : Nat) (r : Entry) : (setEntry b n r).ident = b.ident := rfl
@[simp] theorem setEntry_fly (b : Block) (n : Nat) (r : Entry) : (setEntry b n r).fly = b.fly := rfl
@[simp] theorem setEntry_obs (b : Block) (n : Nat) (r : Entry) : (setEntry b n r).obs = b.obs := rfl
@[simp] theorem setEntry_time (b : Block) (n : Nat) (r : Entry) : (setEntry b n r).time = b.time := rfl
@[simp] theorem setEntry_spine (b : Block) (n : Nat) (r : Entry) : (setEntry b n r).spine = b.spine := rfl
@[simp] theorem setEntry_links (b : Block) (n : Nat) (r : Entry) : (setEntry b n r).links = b.links := rfl
@[simp] theorem setEntry_col (b : Block) (n : Nat) (r : Entry) : (setEntry b n r).col = b.col := rfl
@[simp] theorem setEntry_ver (b : Block) (n : Nat) (r : Entry) : (setEntry b n r).ver = b.ver := rfl
@[simp] theorem setEntry_tenants (b : Block) (n : Nat) (r : Entry) : (setEntry b n r).tenants = b.tenants := rfl
@[simp] theorem setEntry_slots (b : Block) (n : Nat) (r : Entry) : (setEntry b n r).slots = b.slots := rfl
@[simp] theorem setEntry_gt (b : Block) (n : Nat) (r : Entry) : (setEntry b n r).gt = b.gt := rfl
@[simp] theorem setEntry_bd (b : Block) (n : Nat) (r : Entry) : (setEntry b n r).bd = b.bd := rfl
@[simp] theorem setEntry_sn (b : Block) (n : Nat) (r : Entry) : (setEntry b n r).sn = b.sn := rfl
@[simp] theorem setEntry_hr (b : Block) (n : Nat) (r : Entry) : (setEntry b n r).hr = b.hr := rfl
@[simp] theorem setEntry_sus (b : Block) (n : Nat) (r : Entry) : (setEntry b n r).sus = { b.sus with entries := tabPut b.sus.entries n r } := rfl
@[simp] theorem setEntry_ck (b : Block) (n : Nat) (r : Entry) : (setEntry b n r).ck = b.ck := rfl
@[simp] theorem setEntry_host (b : Block) (n : Nat) (r : Entry) : (setEntry b n r).host = b.host := rfl
@[simp] theorem setEntry_fw (b : Block) (n : Nat) (r : Entry) : (setEntry b n r).fw = b.fw := rfl
@[simp] theorem setEntry_pw (b : Block) (n : Nat) (r : Entry) : (setEntry b n r).pw = b.pw := rfl

@[simp] theorem setPll_freeCtr (b : Block) (n : Nat) (r : Pll) : (setPll b n r).freeCtr = b.freeCtr := rfl
@[simp] theorem setPll_out (b : Block) (n : Nat) (r : Pll) : (setPll b n r).out = b.out := rfl
@[simp] theorem setPll_leaf (b : Block) (n : Nat) (r : Pll) : (setPll b n r).leaf = b.leaf := rfl
@[simp] theorem setPll_ident (b : Block) (n : Nat) (r : Pll) : (setPll b n r).ident = b.ident := rfl
@[simp] theorem setPll_fly (b : Block) (n : Nat) (r : Pll) : (setPll b n r).fly = b.fly := rfl
@[simp] theorem setPll_obs (b : Block) (n : Nat) (r : Pll) : (setPll b n r).obs = b.obs := rfl
@[simp] theorem setPll_time (b : Block) (n : Nat) (r : Pll) : (setPll b n r).time = b.time := rfl
@[simp] theorem setPll_spine (b : Block) (n : Nat) (r : Pll) : (setPll b n r).spine = b.spine := rfl
@[simp] theorem setPll_links (b : Block) (n : Nat) (r : Pll) : (setPll b n r).links = b.links := rfl
@[simp] theorem setPll_col (b : Block) (n : Nat) (r : Pll) : (setPll b n r).col = b.col := rfl
@[simp] theorem setPll_ver (b : Block) (n : Nat) (r : Pll) : (setPll b n r).ver = b.ver := rfl
@[simp] theorem setPll_tenants (b : Block) (n : Nat) (r : Pll) : (setPll b n r).tenants = b.tenants := rfl
@[simp] theorem setPll_slots (b : Block) (n : Nat) (r : Pll) : (setPll b n r).slots = b.slots := rfl
@[simp] theorem setPll_gt (b : Block) (n : Nat) (r : Pll) : (setPll b n r).gt = b.gt := rfl
@[simp] theorem setPll_bd (b : Block) (n : Nat) (r : Pll) : (setPll b n r).bd = b.bd := rfl
@[simp] theorem setPll_sn (b : Block) (n : Nat) (r : Pll) : (setPll b n r).sn = b.sn := rfl
@[simp] theorem setPll_hr (b : Block) (n : Nat) (r : Pll) : (setPll b n r).hr = b.hr := rfl
@[simp] theorem setPll_sus (b : Block) (n : Nat) (r : Pll) : (setPll b n r).sus = b.sus := rfl
@[simp] theorem setPll_ck (b : Block) (n : Nat) (r : Pll) : (setPll b n r).ck = { b.ck with plls := tabPut b.ck.plls n r } := rfl
@[simp] theorem setPll_host (b : Block) (n : Nat) (r : Pll) : (setPll b n r).host = b.host := rfl
@[simp] theorem setPll_fw (b : Block) (n : Nat) (r : Pll) : (setPll b n r).fw = b.fw := rfl
@[simp] theorem setPll_pw (b : Block) (n : Nat) (r : Pll) : (setPll b n r).pw = b.pw := rfl

@[simp] theorem setRef_freeCtr (b : Block) (n : Nat) (r : RefClk) : (setRef b n r).freeCtr = b.freeCtr := rfl
@[simp] theorem setRef_out (b : Block) (n : Nat) (r : RefClk) : (setRef b n r).out = b.out := rfl
@[simp] theorem setRef_leaf (b : Block) (n : Nat) (r : RefClk) : (setRef b n r).leaf = b.leaf := rfl
@[simp] theorem setRef_ident (b : Block) (n : Nat) (r : RefClk) : (setRef b n r).ident = b.ident := rfl
@[simp] theorem setRef_fly (b : Block) (n : Nat) (r : RefClk) : (setRef b n r).fly = b.fly := rfl
@[simp] theorem setRef_obs (b : Block) (n : Nat) (r : RefClk) : (setRef b n r).obs = b.obs := rfl
@[simp] theorem setRef_time (b : Block) (n : Nat) (r : RefClk) : (setRef b n r).time = b.time := rfl
@[simp] theorem setRef_spine (b : Block) (n : Nat) (r : RefClk) : (setRef b n r).spine = b.spine := rfl
@[simp] theorem setRef_links (b : Block) (n : Nat) (r : RefClk) : (setRef b n r).links = b.links := rfl
@[simp] theorem setRef_col (b : Block) (n : Nat) (r : RefClk) : (setRef b n r).col = b.col := rfl
@[simp] theorem setRef_ver (b : Block) (n : Nat) (r : RefClk) : (setRef b n r).ver = b.ver := rfl
@[simp] theorem setRef_tenants (b : Block) (n : Nat) (r : RefClk) : (setRef b n r).tenants = b.tenants := rfl
@[simp] theorem setRef_slots (b : Block) (n : Nat) (r : RefClk) : (setRef b n r).slots = b.slots := rfl
@[simp] theorem setRef_gt (b : Block) (n : Nat) (r : RefClk) : (setRef b n r).gt = b.gt := rfl
@[simp] theorem setRef_bd (b : Block) (n : Nat) (r : RefClk) : (setRef b n r).bd = b.bd := rfl
@[simp] theorem setRef_sn (b : Block) (n : Nat) (r : RefClk) : (setRef b n r).sn = b.sn := rfl
@[simp] theorem setRef_hr (b : Block) (n : Nat) (r : RefClk) : (setRef b n r).hr = b.hr := rfl
@[simp] theorem setRef_sus (b : Block) (n : Nat) (r : RefClk) : (setRef b n r).sus = b.sus := rfl
@[simp] theorem setRef_ck (b : Block) (n : Nat) (r : RefClk) : (setRef b n r).ck = { b.ck with refs := tabPut b.ck.refs n r } := rfl
@[simp] theorem setRef_host (b : Block) (n : Nat) (r : RefClk) : (setRef b n r).host = b.host := rfl
@[simp] theorem setRef_fw (b : Block) (n : Nat) (r : RefClk) : (setRef b n r).fw = b.fw := rfl
@[simp] theorem setRef_pw (b : Block) (n : Nat) (r : RefClk) : (setRef b n r).pw = b.pw := rfl

@[simp] theorem setDdr_freeCtr (b : Block) (n : Nat) (r : DdrCh) : (setDdr b n r).freeCtr = b.freeCtr := rfl
@[simp] theorem setDdr_out (b : Block) (n : Nat) (r : DdrCh) : (setDdr b n r).out = b.out := rfl
@[simp] theorem setDdr_leaf (b : Block) (n : Nat) (r : DdrCh) : (setDdr b n r).leaf = b.leaf := rfl
@[simp] theorem setDdr_ident (b : Block) (n : Nat) (r : DdrCh) : (setDdr b n r).ident = b.ident := rfl
@[simp] theorem setDdr_fly (b : Block) (n : Nat) (r : DdrCh) : (setDdr b n r).fly = b.fly := rfl
@[simp] theorem setDdr_obs (b : Block) (n : Nat) (r : DdrCh) : (setDdr b n r).obs = b.obs := rfl
@[simp] theorem setDdr_time (b : Block) (n : Nat) (r : DdrCh) : (setDdr b n r).time = b.time := rfl
@[simp] theorem setDdr_spine (b : Block) (n : Nat) (r : DdrCh) : (setDdr b n r).spine = b.spine := rfl
@[simp] theorem setDdr_links (b : Block) (n : Nat) (r : DdrCh) : (setDdr b n r).links = b.links := rfl
@[simp] theorem setDdr_col (b : Block) (n : Nat) (r : DdrCh) : (setDdr b n r).col = b.col := rfl
@[simp] theorem setDdr_ver (b : Block) (n : Nat) (r : DdrCh) : (setDdr b n r).ver = b.ver := rfl
@[simp] theorem setDdr_tenants (b : Block) (n : Nat) (r : DdrCh) : (setDdr b n r).tenants = b.tenants := rfl
@[simp] theorem setDdr_slots (b : Block) (n : Nat) (r : DdrCh) : (setDdr b n r).slots = b.slots := rfl
@[simp] theorem setDdr_gt (b : Block) (n : Nat) (r : DdrCh) : (setDdr b n r).gt = b.gt := rfl
@[simp] theorem setDdr_bd (b : Block) (n : Nat) (r : DdrCh) : (setDdr b n r).bd = b.bd := rfl
@[simp] theorem setDdr_sn (b : Block) (n : Nat) (r : DdrCh) : (setDdr b n r).sn = b.sn := rfl
@[simp] theorem setDdr_hr (b : Block) (n : Nat) (r : DdrCh) : (setDdr b n r).hr = b.hr := rfl
@[simp] theorem setDdr_sus (b : Block) (n : Nat) (r : DdrCh) : (setDdr b n r).sus = b.sus := rfl
@[simp] theorem setDdr_ck (b : Block) (n : Nat) (r : DdrCh) : (setDdr b n r).ck = { b.ck with chs := tabPut b.ck.chs n r } := rfl
@[simp] theorem setDdr_host (b : Block) (n : Nat) (r : DdrCh) : (setDdr b n r).host = b.host := rfl
@[simp] theorem setDdr_fw (b : Block) (n : Nat) (r : DdrCh) : (setDdr b n r).fw = b.fw := rfl
@[simp] theorem setDdr_pw (b : Block) (n : Nat) (r : DdrCh) : (setDdr b n r).pw = b.pw := rfl

@[simp] theorem setPf_freeCtr (b : Block) (n : Nat) (r : PfRec) : (setPf b n r).freeCtr = b.freeCtr := rfl
@[simp] theorem setPf_out (b : Block) (n : Nat) (r : PfRec) : (setPf b n r).out = b.out := rfl
@[simp] theorem setPf_leaf (b : Block) (n : Nat) (r : PfRec) : (setPf b n r).leaf = b.leaf := rfl
@[simp] theorem setPf_ident (b : Block) (n : Nat) (r : PfRec) : (setPf b n r).ident = b.ident := rfl
@[simp] theorem setPf_fly (b : Block) (n : Nat) (r : PfRec) : (setPf b n r).fly = b.fly := rfl
@[simp] theorem setPf_obs (b : Block) (n : Nat) (r : PfRec) : (setPf b n r).obs = b.obs := rfl
@[simp] theorem setPf_time (b : Block) (n : Nat) (r : PfRec) : (setPf b n r).time = b.time := rfl
@[simp] theorem setPf_spine (b : Block) (n : Nat) (r : PfRec) : (setPf b n r).spine = b.spine := rfl
@[simp] theorem setPf_links (b : Block) (n : Nat) (r : PfRec) : (setPf b n r).links = b.links := rfl
@[simp] theorem setPf_col (b : Block) (n : Nat) (r : PfRec) : (setPf b n r).col = b.col := rfl
@[simp] theorem setPf_ver (b : Block) (n : Nat) (r : PfRec) : (setPf b n r).ver = b.ver := rfl
@[simp] theorem setPf_tenants (b : Block) (n : Nat) (r : PfRec) : (setPf b n r).tenants = b.tenants := rfl
@[simp] theorem setPf_slots (b : Block) (n : Nat) (r : PfRec) : (setPf b n r).slots = b.slots := rfl
@[simp] theorem setPf_gt (b : Block) (n : Nat) (r : PfRec) : (setPf b n r).gt = b.gt := rfl
@[simp] theorem setPf_bd (b : Block) (n : Nat) (r : PfRec) : (setPf b n r).bd = b.bd := rfl
@[simp] theorem setPf_sn (b : Block) (n : Nat) (r : PfRec) : (setPf b n r).sn = b.sn := rfl
@[simp] theorem setPf_hr (b : Block) (n : Nat) (r : PfRec) : (setPf b n r).hr = b.hr := rfl
@[simp] theorem setPf_sus (b : Block) (n : Nat) (r : PfRec) : (setPf b n r).sus = b.sus := rfl
@[simp] theorem setPf_ck (b : Block) (n : Nat) (r : PfRec) : (setPf b n r).ck = b.ck := rfl
@[simp] theorem setPf_host (b : Block) (n : Nat) (r : PfRec) : (setPf b n r).host = { b.host with pfs := tabPut b.host.pfs n r } := rfl
@[simp] theorem setPf_fw (b : Block) (n : Nat) (r : PfRec) : (setPf b n r).fw = b.fw := rfl
@[simp] theorem setPf_pw (b : Block) (n : Nat) (r : PfRec) : (setPf b n r).pw = b.pw := rfl

@[simp] theorem setDrive_freeCtr (b : Block) (n : Nat) (r : Nvme) : (setDrive b n r).freeCtr = b.freeCtr := rfl
@[simp] theorem setDrive_out (b : Block) (n : Nat) (r : Nvme) : (setDrive b n r).out = b.out := rfl
@[simp] theorem setDrive_leaf (b : Block) (n : Nat) (r : Nvme) : (setDrive b n r).leaf = b.leaf := rfl
@[simp] theorem setDrive_ident (b : Block) (n : Nat) (r : Nvme) : (setDrive b n r).ident = b.ident := rfl
@[simp] theorem setDrive_fly (b : Block) (n : Nat) (r : Nvme) : (setDrive b n r).fly = b.fly := rfl
@[simp] theorem setDrive_obs (b : Block) (n : Nat) (r : Nvme) : (setDrive b n r).obs = b.obs := rfl
@[simp] theorem setDrive_time (b : Block) (n : Nat) (r : Nvme) : (setDrive b n r).time = b.time := rfl
@[simp] theorem setDrive_spine (b : Block) (n : Nat) (r : Nvme) : (setDrive b n r).spine = b.spine := rfl
@[simp] theorem setDrive_links (b : Block) (n : Nat) (r : Nvme) : (setDrive b n r).links = b.links := rfl
@[simp] theorem setDrive_col (b : Block) (n : Nat) (r : Nvme) : (setDrive b n r).col = b.col := rfl
@[simp] theorem setDrive_ver (b : Block) (n : Nat) (r : Nvme) : (setDrive b n r).ver = b.ver := rfl
@[simp] theorem setDrive_tenants (b : Block) (n : Nat) (r : Nvme) : (setDrive b n r).tenants = b.tenants := rfl
@[simp] theorem setDrive_slots (b : Block) (n : Nat) (r : Nvme) : (setDrive b n r).slots = b.slots := rfl
@[simp] theorem setDrive_gt (b : Block) (n : Nat) (r : Nvme) : (setDrive b n r).gt = b.gt := rfl
@[simp] theorem setDrive_bd (b : Block) (n : Nat) (r : Nvme) : (setDrive b n r).bd = { b.bd with drives := tabPut b.bd.drives n r } := rfl
@[simp] theorem setDrive_sn (b : Block) (n : Nat) (r : Nvme) : (setDrive b n r).sn = b.sn := rfl
@[simp] theorem setDrive_hr (b : Block) (n : Nat) (r : Nvme) : (setDrive b n r).hr = b.hr := rfl
@[simp] theorem setDrive_sus (b : Block) (n : Nat) (r : Nvme) : (setDrive b n r).sus = b.sus := rfl
@[simp] theorem setDrive_ck (b : Block) (n : Nat) (r : Nvme) : (setDrive b n r).ck = b.ck := rfl
@[simp] theorem setDrive_host (b : Block) (n : Nat) (r : Nvme) : (setDrive b n r).host = b.host := rfl
@[simp] theorem setDrive_fw (b : Block) (n : Nat) (r : Nvme) : (setDrive b n r).fw = b.fw := rfl
@[simp] theorem setDrive_pw (b : Block) (n : Nat) (r : Nvme) : (setDrive b n r).pw = b.pw := rfl

@[simp] theorem setCr_freeCtr (b : Block) (s : Src) (n : Nat) (r : CRing) : (setCr b s n r).freeCtr = b.freeCtr := rfl
@[simp] theorem setCr_out (b : Block) (s : Src) (n : Nat) (r : CRing) : (setCr b s n r).out = b.out := rfl
@[simp] theorem setCr_leaf (b : Block) (s : Src) (n : Nat) (r : CRing) : (setCr b s n r).leaf = b.leaf := rfl
@[simp] theorem setCr_ident (b : Block) (s : Src) (n : Nat) (r : CRing) : (setCr b s n r).ident = b.ident := rfl
@[simp] theorem setCr_fly (b : Block) (s : Src) (n : Nat) (r : CRing) : (setCr b s n r).fly = b.fly := rfl
@[simp] theorem setCr_obs (b : Block) (s : Src) (n : Nat) (r : CRing) : (setCr b s n r).obs = b.obs := rfl
@[simp] theorem setCr_time (b : Block) (s : Src) (n : Nat) (r : CRing) : (setCr b s n r).time = b.time := rfl
@[simp] theorem setCr_spine (b : Block) (s : Src) (n : Nat) (r : CRing) : (setCr b s n r).spine = b.spine := rfl
@[simp] theorem setCr_links (b : Block) (s : Src) (n : Nat) (r : CRing) : (setCr b s n r).links = b.links := rfl
@[simp] theorem setCr_col (b : Block) (s : Src) (n : Nat) (r : CRing) : (setCr b s n r).col = b.col := rfl
@[simp] theorem setCr_ver (b : Block) (s : Src) (n : Nat) (r : CRing) : (setCr b s n r).ver = b.ver := rfl
@[simp] theorem setCr_tenants (b : Block) (s : Src) (n : Nat) (r : CRing) : (setCr b s n r).tenants = b.tenants := rfl
@[simp] theorem setCr_slots (b : Block) (s : Src) (n : Nat) (r : CRing) : (setCr b s n r).slots = b.slots := rfl
@[simp] theorem setCr_gt (b : Block) (s : Src) (n : Nat) (r : CRing) : (setCr b s n r).gt = b.gt := rfl
@[simp] theorem setCr_bd (b : Block) (s : Src) (n : Nat) (r : CRing) : (setCr b s n r).bd = b.bd := rfl
@[simp] theorem setCr_sn (b : Block) (s : Src) (n : Nat) (r : CRing) : (setCr b s n r).sn = b.sn := rfl
@[simp] theorem setCr_hr (b : Block) (s : Src) (n : Nat) (r : CRing) : (setCr b s n r).hr = b.hr := rfl
@[simp] theorem setCr_sus (b : Block) (s : Src) (n : Nat) (r : CRing) : (setCr b s n r).sus = b.sus := rfl
@[simp] theorem setCr_ck (b : Block) (s : Src) (n : Nat) (r : CRing) : (setCr b s n r).ck = b.ck := rfl
@[simp] theorem setCr_host (b : Block) (s : Src) (n : Nat) (r : CRing) : (setCr b s n r).host = { b.host with rings := ringPut b.host.rings s n r } := rfl
@[simp] theorem setCr_fw (b : Block) (s : Src) (n : Nat) (r : CRing) : (setCr b s n r).fw = b.fw := rfl
@[simp] theorem setCr_pw (b : Block) (s : Src) (n : Nat) (r : CRing) : (setCr b s n r).pw = b.pw := rfl

@[simp] theorem setRoute_freeCtr (b : Block) (n : Route) (r : KtRoute) : (setRoute b n r).freeCtr = b.freeCtr := rfl
@[simp] theorem setRoute_out (b : Block) (n : Route) (r : KtRoute) : (setRoute b n r).out = b.out := rfl
@[simp] theorem setRoute_leaf (b : Block) (n : Route) (r : KtRoute) : (setRoute b n r).leaf = b.leaf := rfl
@[simp] theorem setRoute_ident (b : Block) (n : Route) (r : KtRoute) : (setRoute b n r).ident = b.ident := rfl
@[simp] theorem setRoute_fly (b : Block) (n : Route) (r : KtRoute) : (setRoute b n r).fly = b.fly := rfl
@[simp] theorem setRoute_obs (b : Block) (n : Route) (r : KtRoute) : (setRoute b n r).obs = b.obs := rfl
@[simp] theorem setRoute_time (b : Block) (n : Route) (r : KtRoute) : (setRoute b n r).time = b.time := rfl
@[simp] theorem setRoute_spine (b : Block) (n : Route) (r : KtRoute) : (setRoute b n r).spine = b.spine := rfl
@[simp] theorem setRoute_links (b : Block) (n : Route) (r : KtRoute) : (setRoute b n r).links = b.links := rfl
@[simp] theorem setRoute_col (b : Block) (n : Route) (r : KtRoute) : (setRoute b n r).col = b.col := rfl
@[simp] theorem setRoute_ver (b : Block) (n : Route) (r : KtRoute) : (setRoute b n r).ver = b.ver := rfl
@[simp] theorem setRoute_tenants (b : Block) (n : Route) (r : KtRoute) : (setRoute b n r).tenants = b.tenants := rfl
@[simp] theorem setRoute_slots (b : Block) (n : Route) (r : KtRoute) : (setRoute b n r).slots = b.slots := rfl
@[simp] theorem setRoute_gt (b : Block) (n : Route) (r : KtRoute) : (setRoute b n r).gt = b.gt := rfl
@[simp] theorem setRoute_bd (b : Block) (n : Route) (r : KtRoute) : (setRoute b n r).bd = b.bd := rfl
@[simp] theorem setRoute_sn (b : Block) (n : Route) (r : KtRoute) : (setRoute b n r).sn = b.sn := rfl
@[simp] theorem setRoute_hr (b : Block) (n : Route) (r : KtRoute) : (setRoute b n r).hr = { b.hr with routes := routePut b.hr.routes n r } := rfl
@[simp] theorem setRoute_sus (b : Block) (n : Route) (r : KtRoute) : (setRoute b n r).sus = b.sus := rfl
@[simp] theorem setRoute_ck (b : Block) (n : Route) (r : KtRoute) : (setRoute b n r).ck = b.ck := rfl
@[simp] theorem setRoute_host (b : Block) (n : Route) (r : KtRoute) : (setRoute b n r).host = b.host := rfl
@[simp] theorem setRoute_fw (b : Block) (n : Route) (r : KtRoute) : (setRoute b n r).fw = b.fw := rfl
@[simp] theorem setRoute_pw (b : Block) (n : Route) (r : KtRoute) : (setRoute b n r).pw = b.pw := rfl

@[simp] theorem emit_freeCtr (b : Block) (o : Out) : (emit b o).freeCtr = b.freeCtr := rfl
@[simp] theorem emit_out (b : Block) (o : Out) : (emit b o).out = b.out ++ [o] := rfl
@[simp] theorem emit_leaf (b : Block) (o : Out) : (emit b o).leaf = b.leaf := rfl
@[simp] theorem emit_ident (b : Block) (o : Out) : (emit b o).ident = b.ident := rfl
@[simp] theorem emit_fly (b : Block) (o : Out) : (emit b o).fly = b.fly := rfl
@[simp] theorem emit_obs (b : Block) (o : Out) : (emit b o).obs = b.obs := rfl
@[simp] theorem emit_time (b : Block) (o : Out) : (emit b o).time = b.time := rfl
@[simp] theorem emit_spine (b : Block) (o : Out) : (emit b o).spine = b.spine := rfl
@[simp] theorem emit_links (b : Block) (o : Out) : (emit b o).links = b.links := rfl
@[simp] theorem emit_col (b : Block) (o : Out) : (emit b o).col = b.col := rfl
@[simp] theorem emit_ver (b : Block) (o : Out) : (emit b o).ver = b.ver := rfl
@[simp] theorem emit_tenants (b : Block) (o : Out) : (emit b o).tenants = b.tenants := rfl
@[simp] theorem emit_slots (b : Block) (o : Out) : (emit b o).slots = b.slots := rfl
@[simp] theorem emit_gt (b : Block) (o : Out) : (emit b o).gt = b.gt := rfl
@[simp] theorem emit_bd (b : Block) (o : Out) : (emit b o).bd = b.bd := rfl
@[simp] theorem emit_sn (b : Block) (o : Out) : (emit b o).sn = b.sn := rfl
@[simp] theorem emit_hr (b : Block) (o : Out) : (emit b o).hr = b.hr := rfl
@[simp] theorem emit_sus (b : Block) (o : Out) : (emit b o).sus = b.sus := rfl
@[simp] theorem emit_ck (b : Block) (o : Out) : (emit b o).ck = b.ck := rfl
@[simp] theorem emit_host (b : Block) (o : Out) : (emit b o).host = b.host := rfl
@[simp] theorem emit_fw (b : Block) (o : Out) : (emit b o).fw = b.fw := rfl
@[simp] theorem emit_pw (b : Block) (o : Out) : (emit b o).pw = b.pw := rfl

@[simp] theorem emits_freeCtr (b : Block) (l : List Out) : (emits b l).freeCtr = b.freeCtr := rfl
@[simp] theorem emits_out (b : Block) (l : List Out) : (emits b l).out = b.out ++ l := rfl
@[simp] theorem emits_leaf (b : Block) (l : List Out) : (emits b l).leaf = b.leaf := rfl
@[simp] theorem emits_ident (b : Block) (l : List Out) : (emits b l).ident = b.ident := rfl
@[simp] theorem emits_fly (b : Block) (l : List Out) : (emits b l).fly = b.fly := rfl
@[simp] theorem emits_obs (b : Block) (l : List Out) : (emits b l).obs = b.obs := rfl
@[simp] theorem emits_time (b : Block) (l : List Out) : (emits b l).time = b.time := rfl
@[simp] theorem emits_spine (b : Block) (l : List Out) : (emits b l).spine = b.spine := rfl
@[simp] theorem emits_links (b : Block) (l : List Out) : (emits b l).links = b.links := rfl
@[simp] theorem emits_col (b : Block) (l : List Out) : (emits b l).col = b.col := rfl
@[simp] theorem emits_ver (b : Block) (l : List Out) : (emits b l).ver = b.ver := rfl
@[simp] theorem emits_tenants (b : Block) (l : List Out) : (emits b l).tenants = b.tenants := rfl
@[simp] theorem emits_slots (b : Block) (l : List Out) : (emits b l).slots = b.slots := rfl
@[simp] theorem emits_gt (b : Block) (l : List Out) : (emits b l).gt = b.gt := rfl
@[simp] theorem emits_bd (b : Block) (l : List Out) : (emits b l).bd = b.bd := rfl
@[simp] theorem emits_sn (b : Block) (l : List Out) : (emits b l).sn = b.sn := rfl
@[simp] theorem emits_hr (b : Block) (l : List Out) : (emits b l).hr = b.hr := rfl
@[simp] theorem emits_sus (b : Block) (l : List Out) : (emits b l).sus = b.sus := rfl
@[simp] theorem emits_ck (b : Block) (l : List Out) : (emits b l).ck = b.ck := rfl
@[simp] theorem emits_host (b : Block) (l : List Out) : (emits b l).host = b.host := rfl
@[simp] theorem emits_fw (b : Block) (l : List Out) : (emits b l).fw = b.fw := rfl
@[simp] theorem emits_pw (b : Block) (l : List Out) : (emits b l).pw = b.pw := rfl

@[simp] theorem takeFree_freeCtr (b : Block) : (takeFree b).freeCtr = b.freeCtr + 1 := rfl
@[simp] theorem takeFree_out (b : Block) : (takeFree b).out = b.out := rfl
@[simp] theorem takeFree_leaf (b : Block) : (takeFree b).leaf = b.leaf := rfl
@[simp] theorem takeFree_ident (b : Block) : (takeFree b).ident = b.ident := rfl
@[simp] theorem takeFree_fly (b : Block) : (takeFree b).fly = b.fly := rfl
@[simp] theorem takeFree_obs (b : Block) : (takeFree b).obs = b.obs := rfl
@[simp] theorem takeFree_time (b : Block) : (takeFree b).time = b.time := rfl
@[simp] theorem takeFree_spine (b : Block) : (takeFree b).spine = b.spine := rfl
@[simp] theorem takeFree_links (b : Block) : (takeFree b).links = b.links := rfl
@[simp] theorem takeFree_col (b : Block) : (takeFree b).col = b.col := rfl
@[simp] theorem takeFree_ver (b : Block) : (takeFree b).ver = b.ver := rfl
@[simp] theorem takeFree_tenants (b : Block) : (takeFree b).tenants = b.tenants := rfl
@[simp] theorem takeFree_slots (b : Block) : (takeFree b).slots = b.slots := rfl
@[simp] theorem takeFree_gt (b : Block) : (takeFree b).gt = b.gt := rfl
@[simp] theorem takeFree_bd (b : Block) : (takeFree b).bd = b.bd := rfl
@[simp] theorem takeFree_sn (b : Block) : (takeFree b).sn = b.sn := rfl
@[simp] theorem takeFree_hr (b : Block) : (takeFree b).hr = b.hr := rfl
@[simp] theorem takeFree_sus (b : Block) : (takeFree b).sus = b.sus := rfl
@[simp] theorem takeFree_ck (b : Block) : (takeFree b).ck = b.ck := rfl
@[simp] theorem takeFree_host (b : Block) : (takeFree b).host = b.host := rfl
@[simp] theorem takeFree_fw (b : Block) : (takeFree b).fw = b.fw := rfl
@[simp] theorem takeFree_pw (b : Block) : (takeFree b).pw = b.pw := rfl

@[simp] theorem count_freeCtr (b : Block) (i n : Nat) : (count b i n).freeCtr = b.freeCtr := rfl
@[simp] theorem count_out (b : Block) (i n : Nat) : (count b i n).out = b.out := rfl
@[simp] theorem count_leaf (b : Block) (i n : Nat) : (count b i n).leaf = b.leaf := rfl
@[simp] theorem count_ident (b : Block) (i n : Nat) : (count b i n).ident = b.ident := rfl
@[simp] theorem count_fly (b : Block) (i n : Nat) : (count b i n).fly = b.fly := rfl
@[simp] theorem count_obs (b : Block) (i n : Nat) : (count b i n).obs = { b.obs with counters := tabPut b.obs.counters i (tabGet 0 b.obs.counters i + BitVec.ofNat 64 n) } := rfl
@[simp] theorem count_time (b : Block) (i n : Nat) : (count b i n).time = b.time := rfl
@[simp] theorem count_spine (b : Block) (i n : Nat) : (count b i n).spine = b.spine := rfl
@[simp] theorem count_links (b : Block) (i n : Nat) : (count b i n).links = b.links := rfl
@[simp] theorem count_col (b : Block) (i n : Nat) : (count b i n).col = b.col := rfl
@[simp] theorem count_ver (b : Block) (i n : Nat) : (count b i n).ver = b.ver := rfl
@[simp] theorem count_tenants (b : Block) (i n : Nat) : (count b i n).tenants = b.tenants := rfl
@[simp] theorem count_slots (b : Block) (i n : Nat) : (count b i n).slots = b.slots := rfl
@[simp] theorem count_gt (b : Block) (i n : Nat) : (count b i n).gt = b.gt := rfl
@[simp] theorem count_bd (b : Block) (i n : Nat) : (count b i n).bd = b.bd := rfl
@[simp] theorem count_sn (b : Block) (i n : Nat) : (count b i n).sn = b.sn := rfl
@[simp] theorem count_hr (b : Block) (i n : Nat) : (count b i n).hr = b.hr := rfl
@[simp] theorem count_sus (b : Block) (i n : Nat) : (count b i n).sus = b.sus := rfl
@[simp] theorem count_ck (b : Block) (i n : Nat) : (count b i n).ck = b.ck := rfl
@[simp] theorem count_host (b : Block) (i n : Nat) : (count b i n).host = b.host := rfl
@[simp] theorem count_fw (b : Block) (i n : Nat) : (count b i n).fw = b.fw := rfl
@[simp] theorem count_pw (b : Block) (i n : Nat) : (count b i n).pw = b.pw := rfl

@[simp] theorem zeroCounters_freeCtr (b : Block) (i n : Nat) : (zeroCounters b i n).freeCtr = b.freeCtr := rfl
@[simp] theorem zeroCounters_out (b : Block) (i n : Nat) : (zeroCounters b i n).out = b.out := rfl
@[simp] theorem zeroCounters_leaf (b : Block) (i n : Nat) : (zeroCounters b i n).leaf = b.leaf := rfl
@[simp] theorem zeroCounters_ident (b : Block) (i n : Nat) : (zeroCounters b i n).ident = b.ident := rfl
@[simp] theorem zeroCounters_fly (b : Block) (i n : Nat) : (zeroCounters b i n).fly = b.fly := rfl
@[simp] theorem zeroCounters_obs (b : Block) (i n : Nat) : (zeroCounters b i n).obs = { b.obs with counters := foldOver (fun t k => tabPut t k 0) b.obs.counters (upFrom i n) } := rfl
@[simp] theorem zeroCounters_time (b : Block) (i n : Nat) : (zeroCounters b i n).time = b.time := rfl
@[simp] theorem zeroCounters_spine (b : Block) (i n : Nat) : (zeroCounters b i n).spine = b.spine := rfl
@[simp] theorem zeroCounters_links (b : Block) (i n : Nat) : (zeroCounters b i n).links = b.links := rfl
@[simp] theorem zeroCounters_col (b : Block) (i n : Nat) : (zeroCounters b i n).col = b.col := rfl
@[simp] theorem zeroCounters_ver (b : Block) (i n : Nat) : (zeroCounters b i n).ver = b.ver := rfl
@[simp] theorem zeroCounters_tenants (b : Block) (i n : Nat) : (zeroCounters b i n).tenants = b.tenants := rfl
@[simp] theorem zeroCounters_slots (b : Block) (i n : Nat) : (zeroCounters b i n).slots = b.slots := rfl
@[simp] theorem zeroCounters_gt (b : Block) (i n : Nat) : (zeroCounters b i n).gt = b.gt := rfl
@[simp] theorem zeroCounters_bd (b : Block) (i n : Nat) : (zeroCounters b i n).bd = b.bd := rfl
@[simp] theorem zeroCounters_sn (b : Block) (i n : Nat) : (zeroCounters b i n).sn = b.sn := rfl
@[simp] theorem zeroCounters_hr (b : Block) (i n : Nat) : (zeroCounters b i n).hr = b.hr := rfl
@[simp] theorem zeroCounters_sus (b : Block) (i n : Nat) : (zeroCounters b i n).sus = b.sus := rfl
@[simp] theorem zeroCounters_ck (b : Block) (i n : Nat) : (zeroCounters b i n).ck = b.ck := rfl
@[simp] theorem zeroCounters_host (b : Block) (i n : Nat) : (zeroCounters b i n).host = b.host := rfl
@[simp] theorem zeroCounters_fw (b : Block) (i n : Nat) : (zeroCounters b i n).fw = b.fw := rfl
@[simp] theorem zeroCounters_pw (b : Block) (i n : Nat) : (zeroCounters b i n).pw = b.pw := rfl

@[simp] theorem leafSet_freeCtr (b : Block) (l : Leaf) (i : Nat) : (leafSet b l i).freeCtr = b.freeCtr := rfl
@[simp] theorem leafSet_out (b : Block) (l : Leaf) (i : Nat) : (leafSet b l i).out = b.out := rfl
@[simp] theorem leafSet_leaf (b : Block) (l : Leaf) (i : Nat) : (leafSet b l i).leaf = leafPut b.leaf l (putBit (leafGet b l) i true) := rfl
@[simp] theorem leafSet_ident (b : Block) (l : Leaf) (i : Nat) : (leafSet b l i).ident = b.ident := rfl
@[simp] theorem leafSet_fly (b : Block) (l : Leaf) (i : Nat) : (leafSet b l i).fly = b.fly := rfl
@[simp] theorem leafSet_obs (b : Block) (l : Leaf) (i : Nat) : (leafSet b l i).obs = b.obs := rfl
@[simp] theorem leafSet_time (b : Block) (l : Leaf) (i : Nat) : (leafSet b l i).time = b.time := rfl
@[simp] theorem leafSet_spine (b : Block) (l : Leaf) (i : Nat) : (leafSet b l i).spine = b.spine := rfl
@[simp] theorem leafSet_links (b : Block) (l : Leaf) (i : Nat) : (leafSet b l i).links = b.links := rfl
@[simp] theorem leafSet_col (b : Block) (l : Leaf) (i : Nat) : (leafSet b l i).col = b.col := rfl
@[simp] theorem leafSet_ver (b : Block) (l : Leaf) (i : Nat) : (leafSet b l i).ver = b.ver := rfl
@[simp] theorem leafSet_tenants (b : Block) (l : Leaf) (i : Nat) : (leafSet b l i).tenants = b.tenants := rfl
@[simp] theorem leafSet_slots (b : Block) (l : Leaf) (i : Nat) : (leafSet b l i).slots = b.slots := rfl
@[simp] theorem leafSet_gt (b : Block) (l : Leaf) (i : Nat) : (leafSet b l i).gt = b.gt := rfl
@[simp] theorem leafSet_bd (b : Block) (l : Leaf) (i : Nat) : (leafSet b l i).bd = b.bd := rfl
@[simp] theorem leafSet_sn (b : Block) (l : Leaf) (i : Nat) : (leafSet b l i).sn = b.sn := rfl
@[simp] theorem leafSet_hr (b : Block) (l : Leaf) (i : Nat) : (leafSet b l i).hr = b.hr := rfl
@[simp] theorem leafSet_sus (b : Block) (l : Leaf) (i : Nat) : (leafSet b l i).sus = b.sus := rfl
@[simp] theorem leafSet_ck (b : Block) (l : Leaf) (i : Nat) : (leafSet b l i).ck = b.ck := rfl
@[simp] theorem leafSet_host (b : Block) (l : Leaf) (i : Nat) : (leafSet b l i).host = b.host := rfl
@[simp] theorem leafSet_fw (b : Block) (l : Leaf) (i : Nat) : (leafSet b l i).fw = b.fw := rfl
@[simp] theorem leafSet_pw (b : Block) (l : Leaf) (i : Nat) : (leafSet b l i).pw = b.pw := rfl

@[simp] theorem clearLeaf_freeCtr (b : Block) (l : Leaf) (v : W32) : (clearLeaf b l v).freeCtr = b.freeCtr := rfl
@[simp] theorem clearLeaf_out (b : Block) (l : Leaf) (v : W32) : (clearLeaf b l v).out = b.out := rfl
@[simp] theorem clearLeaf_leaf (b : Block) (l : Leaf) (v : W32) : (clearLeaf b l v).leaf = leafPut b.leaf l (leafGet b l &&& ~~~v) := rfl
@[simp] theorem clearLeaf_ident (b : Block) (l : Leaf) (v : W32) : (clearLeaf b l v).ident = b.ident := rfl
@[simp] theorem clearLeaf_fly (b : Block) (l : Leaf) (v : W32) : (clearLeaf b l v).fly = b.fly := rfl
@[simp] theorem clearLeaf_obs (b : Block) (l : Leaf) (v : W32) : (clearLeaf b l v).obs = b.obs := rfl
@[simp] theorem clearLeaf_time (b : Block) (l : Leaf) (v : W32) : (clearLeaf b l v).time = b.time := rfl
@[simp] theorem clearLeaf_spine (b : Block) (l : Leaf) (v : W32) : (clearLeaf b l v).spine = b.spine := rfl
@[simp] theorem clearLeaf_links (b : Block) (l : Leaf) (v : W32) : (clearLeaf b l v).links = b.links := rfl
@[simp] theorem clearLeaf_col (b : Block) (l : Leaf) (v : W32) : (clearLeaf b l v).col = b.col := rfl
@[simp] theorem clearLeaf_ver (b : Block) (l : Leaf) (v : W32) : (clearLeaf b l v).ver = b.ver := rfl
@[simp] theorem clearLeaf_tenants (b : Block) (l : Leaf) (v : W32) : (clearLeaf b l v).tenants = b.tenants := rfl
@[simp] theorem clearLeaf_slots (b : Block) (l : Leaf) (v : W32) : (clearLeaf b l v).slots = b.slots := rfl
@[simp] theorem clearLeaf_gt (b : Block) (l : Leaf) (v : W32) : (clearLeaf b l v).gt = b.gt := rfl
@[simp] theorem clearLeaf_bd (b : Block) (l : Leaf) (v : W32) : (clearLeaf b l v).bd = b.bd := rfl
@[simp] theorem clearLeaf_sn (b : Block) (l : Leaf) (v : W32) : (clearLeaf b l v).sn = b.sn := rfl
@[simp] theorem clearLeaf_hr (b : Block) (l : Leaf) (v : W32) : (clearLeaf b l v).hr = b.hr := rfl
@[simp] theorem clearLeaf_sus (b : Block) (l : Leaf) (v : W32) : (clearLeaf b l v).sus = b.sus := rfl
@[simp] theorem clearLeaf_ck (b : Block) (l : Leaf) (v : W32) : (clearLeaf b l v).ck = b.ck := rfl
@[simp] theorem clearLeaf_host (b : Block) (l : Leaf) (v : W32) : (clearLeaf b l v).host = b.host := rfl
@[simp] theorem clearLeaf_fw (b : Block) (l : Leaf) (v : W32) : (clearLeaf b l v).fw = b.fw := rfl
@[simp] theorem clearLeaf_pw (b : Block) (l : Leaf) (v : W32) : (clearLeaf b l v).pw = b.pw := rfl

theorem modTen_eq (b : Block) (t : Nat) (f : TenantRec → TenantRec) : modTen b t f = setTen b t (f (getTen b t)) := rfl
theorem modSlot_eq (b : Block) (n : Nat) (f : SlotRec → SlotRec) : modSlot b n f = setSlot b n (f (getSlot b n)) := rfl
theorem modSn_eq (b : Block) (n : Nat) (f : Sentinel → Sentinel) : modSn b n f = setSn b n (f (getSn b n)) := rfl
theorem modLink_eq (b : Block) (n : Nat) (f : Link → Link) : modLink b n f = setLink b n (f (getLink b n)) := rfl
theorem modCore_eq (b : Block) (n : Nat) (f : Core → Core) : modCore b n f = setCore b n (f (getCore b n)) := rfl
theorem modPslot_eq (b : Block) (n : Nat) (f : ProgSlot → ProgSlot) : modPslot b n f = setPslot b n (f (getPslot b n)) := rfl
theorem modPort_eq (b : Block) (n : Nat) (f : SpPort → SpPort) : modPort b n f = setPort b n (f (getPort b n)) := rfl
theorem modHop_eq (b : Block) (n : Nat) (f : Hop → Hop) : modHop b n f = setHop b n (f (getHop b n)) := rfl
theorem modRing_eq (b : Block) (n : Nat) (f : Ring → Ring) : modRing b n f = setRing b n (f (getRing b n)) := rfl
theorem modChan_eq (b : Block) (n : Nat) (f : RedChan → RedChan) : modChan b n f = setChan b n (f (getChan b n)) := rfl
theorem modDom_eq (b : Block) (n : Nat) (f : Domain → Domain) : modDom b n f = setDom b n (f (getDom b n)) := rfl
theorem modEntry_eq (b : Block) (n : Nat) (f : Entry → Entry) : modEntry b n f = setEntry b n (f (getEntry b n)) := rfl
theorem modPll_eq (b : Block) (n : Nat) (f : Pll → Pll) : modPll b n f = setPll b n (f (getPll b n)) := rfl
theorem modRef_eq (b : Block) (n : Nat) (f : RefClk → RefClk) : modRef b n f = setRef b n (f (getRef b n)) := rfl
theorem modDdr_eq (b : Block) (n : Nat) (f : DdrCh → DdrCh) : modDdr b n f = setDdr b n (f (getDdr b n)) := rfl
theorem modPf_eq (b : Block) (n : Nat) (f : PfRec → PfRec) : modPf b n f = setPf b n (f (getPf b n)) := rfl
theorem modDrive_eq (b : Block) (n : Nat) (f : Nvme → Nvme) : modDrive b n f = setDrive b n (f (getDrive b n)) := rfl
theorem modCr_eq (b : Block) (s : Src) (n : Nat) (f : CRing → CRing) : modCr b s n f = setCr b s n (f (getCr b s n)) := rfl
theorem modRoute_eq (b : Block) (n : Route) (f : KtRoute → KtRoute) : modRoute b n f = setRoute b n (f (getRoute b n)) := rfl

end Sys2Proof.Machine
end

