-- ==== Sys2Proof/Laws/Reads.lean ====
section
/-!
SUPPORT. Laws/Reads.lean: what a read of one table gives after a write of it, and after a write of another.
-/

namespace Sys2Proof.Machine

@[simp] theorem getTen_setTen_same (b : Block) (t : Nat) (r : TenantRec) : getTen (setTen b t r) t = r := by simp [getTen, setTen]
theorem getTen_setTen_ne (b : Block) (t : Nat) (r : TenantRec) {k : Nat} (h : k ≠ t) : getTen (setTen b t r) k = getTen b k := tabGet_tabPut_ne _ _ _ h
@[simp] theorem setTen_setTen_same (b : Block) (t : Nat) (r : TenantRec) (q : TenantRec) : setTen (setTen b t r) t q = setTen b t q := by simp [setTen]
@[simp] theorem getSlot_setSlot_same (b : Block) (n : Nat) (r : SlotRec) : getSlot (setSlot b n r) n = r := by simp [getSlot, setSlot]
theorem getSlot_setSlot_ne (b : Block) (n : Nat) (r : SlotRec) {k : Nat} (h : k ≠ n) : getSlot (setSlot b n r) k = getSlot b k := tabGet_tabPut_ne _ _ _ h
@[simp] theorem setSlot_setSlot_same (b : Block) (n : Nat) (r : SlotRec) (q : SlotRec) : setSlot (setSlot b n r) n q = setSlot b n q := by simp [setSlot]
@[simp] theorem getSn_setSn_same (b : Block) (n : Nat) (r : Sentinel) : getSn (setSn b n r) n = r := by simp [getSn, setSn]
theorem getSn_setSn_ne (b : Block) (n : Nat) (r : Sentinel) {k : Nat} (h : k ≠ n) : getSn (setSn b n r) k = getSn b k := tabGet_tabPut_ne _ _ _ h
@[simp] theorem setSn_setSn_same (b : Block) (n : Nat) (r : Sentinel) (q : Sentinel) : setSn (setSn b n r) n q = setSn b n q := by simp [setSn]
@[simp] theorem getLink_setLink_same (b : Block) (n : Nat) (r : Link) : getLink (setLink b n r) n = r := by simp [getLink, setLink]
theorem getLink_setLink_ne (b : Block) (n : Nat) (r : Link) {k : Nat} (h : k ≠ n) : getLink (setLink b n r) k = getLink b k := tabGet_tabPut_ne _ _ _ h
@[simp] theorem setLink_setLink_same (b : Block) (n : Nat) (r : Link) (q : Link) : setLink (setLink b n r) n q = setLink b n q := by simp [setLink]
@[simp] theorem getPslot_setPslot_same (b : Block) (n : Nat) (r : ProgSlot) : getPslot (setPslot b n r) n = r := by simp [getPslot, setPslot]
theorem getPslot_setPslot_ne (b : Block) (n : Nat) (r : ProgSlot) {k : Nat} (h : k ≠ n) : getPslot (setPslot b n r) k = getPslot b k := tabGet_tabPut_ne _ _ _ h
@[simp] theorem setPslot_setPslot_same (b : Block) (n : Nat) (r : ProgSlot) (q : ProgSlot) : setPslot (setPslot b n r) n q = setPslot b n q := by simp [setPslot]
@[simp] theorem getPort_setPort_same (b : Block) (n : Nat) (r : SpPort) : getPort (setPort b n r) n = r := by simp [getPort, setPort]
theorem getPort_setPort_ne (b : Block) (n : Nat) (r : SpPort) {k : Nat} (h : k ≠ n) : getPort (setPort b n r) k = getPort b k := tabGet_tabPut_ne _ _ _ h
@[simp] theorem setPort_setPort_same (b : Block) (n : Nat) (r : SpPort) (q : SpPort) : setPort (setPort b n r) n q = setPort b n q := by simp [setPort]
@[simp] theorem getHop_setHop_same (b : Block) (n : Nat) (r : Hop) : getHop (setHop b n r) n = r := by simp [getHop, setHop]
theorem getHop_setHop_ne (b : Block) (n : Nat) (r : Hop) {k : Nat} (h : k ≠ n) : getHop (setHop b n r) k = getHop b k := tabGet_tabPut_ne _ _ _ h
@[simp] theorem setHop_setHop_same (b : Block) (n : Nat) (r : Hop) (q : Hop) : setHop (setHop b n r) n q = setHop b n q := by simp [setHop]
@[simp] theorem getRing_setRing_same (b : Block) (n : Nat) (r : Ring) : getRing (setRing b n r) n = r := by simp [getRing, setRing]
theorem getRing_setRing_ne (b : Block) (n : Nat) (r : Ring) {k : Nat} (h : k ≠ n) : getRing (setRing b n r) k = getRing b k := tabGet_tabPut_ne _ _ _ h
@[simp] theorem setRing_setRing_same (b : Block) (n : Nat) (r : Ring) (q : Ring) : setRing (setRing b n r) n q = setRing b n q := by simp [setRing]
@[simp] theorem getChan_setChan_same (b : Block) (n : Nat) (r : RedChan) : getChan (setChan b n r) n = r := by simp [getChan, setChan]
theorem getChan_setChan_ne (b : Block) (n : Nat) (r : RedChan) {k : Nat} (h : k ≠ n) : getChan (setChan b n r) k = getChan b k := tabGet_tabPut_ne _ _ _ h
@[simp] theorem setChan_setChan_same (b : Block) (n : Nat) (r : RedChan) (q : RedChan) : setChan (setChan b n r) n q = setChan b n q := by simp [setChan]
@[simp] theorem getDom_setDom_same (b : Block) (n : Nat) (r : Domain) : getDom (setDom b n r) n = r := by simp [getDom, setDom]
theorem getDom_setDom_ne (b : Block) (n : Nat) (r : Domain) {k : Nat} (h : k ≠ n) : getDom (setDom b n r) k = getDom b k := tabGet_tabPut_ne _ _ _ h
@[simp] theorem setDom_setDom_same (b : Block) (n : Nat) (r : Domain) (q : Domain) : setDom (setDom b n r) n q = setDom b n q := by simp [setDom]
@[simp] theorem getEntry_setEntry_same (b : Block) (n : Nat) (r : Entry) : getEntry (setEntry b n r) n = r := by simp [getEntry, setEntry]
theorem getEntry_setEntry_ne (b : Block) (n : Nat) (r : Entry) {k : Nat} (h : k ≠ n) : getEntry (setEntry b n r) k = getEntry b k := tabGet_tabPut_ne _ _ _ h
@[simp] theorem setEntry_setEntry_same (b : Block) (n : Nat) (r : Entry) (q : Entry) : setEntry (setEntry b n r) n q = setEntry b n q := by simp [setEntry]
@[simp] theorem getPll_setPll_same (b : Block) (n : Nat) (r : Pll) : getPll (setPll b n r) n = r := by simp [getPll, setPll]
theorem getPll_setPll_ne (b : Block) (n : Nat) (r : Pll) {k : Nat} (h : k ≠ n) : getPll (setPll b n r) k = getPll b k := tabGet_tabPut_ne _ _ _ h
@[simp] theorem setPll_setPll_same (b : Block) (n : Nat) (r : Pll) (q : Pll) : setPll (setPll b n r) n q = setPll b n q := by simp [setPll]
@[simp] theorem getRef_setRef_same (b : Block) (n : Nat) (r : RefClk) : getRef (setRef b n r) n = r := by simp [getRef, setRef]
theorem getRef_setRef_ne (b : Block) (n : Nat) (r : RefClk) {k : Nat} (h : k ≠ n) : getRef (setRef b n r) k = getRef b k := tabGet_tabPut_ne _ _ _ h
@[simp] theorem setRef_setRef_same (b : Block) (n : Nat) (r : RefClk) (q : RefClk) : setRef (setRef b n r) n q = setRef b n q := by simp [setRef]
@[simp] theorem getDdr_setDdr_same (b : Block) (n : Nat) (r : DdrCh) : getDdr (setDdr b n r) n = r := by simp [getDdr, setDdr]
theorem getDdr_setDdr_ne (b : Block) (n : Nat) (r : DdrCh) {k : Nat} (h : k ≠ n) : getDdr (setDdr b n r) k = getDdr b k := tabGet_tabPut_ne _ _ _ h
@[simp] theorem setDdr_setDdr_same (b : Block) (n : Nat) (r : DdrCh) (q : DdrCh) : setDdr (setDdr b n r) n q = setDdr b n q := by simp [setDdr]
@[simp] theorem getPf_setPf_same (b : Block) (n : Nat) (r : PfRec) : getPf (setPf b n r) n = r := by simp [getPf, setPf]
theorem getPf_setPf_ne (b : Block) (n : Nat) (r : PfRec) {k : Nat} (h : k ≠ n) : getPf (setPf b n r) k = getPf b k := tabGet_tabPut_ne _ _ _ h
@[simp] theorem setPf_setPf_same (b : Block) (n : Nat) (r : PfRec) (q : PfRec) : setPf (setPf b n r) n q = setPf b n q := by simp [setPf]
@[simp] theorem getDrive_setDrive_same (b : Block) (n : Nat) (r : Nvme) : getDrive (setDrive b n r) n = r := by simp [getDrive, setDrive]
theorem getDrive_setDrive_ne (b : Block) (n : Nat) (r : Nvme) {k : Nat} (h : k ≠ n) : getDrive (setDrive b n r) k = getDrive b k := tabGet_tabPut_ne _ _ _ h
@[simp] theorem setDrive_setDrive_same (b : Block) (n : Nat) (r : Nvme) (q : Nvme) : setDrive (setDrive b n r) n q = setDrive b n q := by simp [setDrive]

theorem routeFind_routePut (l : List (Route × KtRoute)) (n k : Route) (r : KtRoute) :
    routeFind (routePut l n r) k = if k = n then r else routeFind l k := by
  induction l with
  | nil => simp only [routePut, routeFind, eq_comm (a := n)]
  | cons x t ih =>
    obtain ⟨y, v⟩ := x
    simp only [routePut, routeFind, eq_comm (a := k)]
    by_cases hy : y = n
    · by_cases h : n = k <;> simp only [hy, h, if_true, if_false, routeFind]
    · by_cases hk : y = k
      · have : ¬n = k := fun e => hy (hk.trans e.symm)
        have h2 : ¬k = n := fun e => this e.symm
        simp only [hk, h2, this, if_true, if_false, routeFind]
      · simp only [hy, hk, if_false, routeFind, ih, eq_comm (a := k)]

@[simp] theorem getRoute_setRoute_same (b : Block) (n : Route) (r : KtRoute) : getRoute (setRoute b n r) n = r := by
  simp [getRoute, setRoute, routeFind_routePut]

theorem getRoute_setRoute_ne (b : Block) (n : Route) (r : KtRoute) {k : Route} (h : k ≠ n) :
    getRoute (setRoute b n r) k = getRoute b k := by
  simp [getRoute, setRoute, routeFind_routePut, h]

theorem ringFind_ringPut (l : List (Src × Nat × CRing)) (s q : Src) (n k : Nat) (r : CRing) :
    ringFind (ringPut l s n r) q k = if q = s ∧ k = n then r else ringFind l q k := by
  induction l with
  | nil => simp only [ringPut, ringFind, eq_comm (a := s), eq_comm (a := n)]
  | cons x t ih =>
    obtain ⟨y, i, v⟩ := x
    by_cases hy : y = s ∧ i = n
    · obtain ⟨rfl, rfl⟩ := hy
      by_cases h : y = q ∧ i = k
      · obtain ⟨rfl, rfl⟩ := h; simp [ringPut, ringFind]
      · have : ¬(q = y ∧ k = i) := fun e => h ⟨e.1.symm, e.2.symm⟩
        simp [ringPut, ringFind, h, this]
    · by_cases hk : y = q ∧ i = k
      · obtain ⟨rfl, rfl⟩ := hk
        simp [ringPut, ringFind, hy]
      · simp only [ringPut, ringFind, if_neg hy, if_neg hk, ih]

@[simp] theorem getCr_setCr_same (b : Block) (s : Src) (n : Nat) (r : CRing) : getCr (setCr b s n r) s n = r := by
  simp [getCr, setCr, ringFind_ringPut]

theorem leafFind_leafPut (l : List (Leaf × W32)) (n k : Leaf) (r : W32) :
    leafFind (leafPut l n r) k = if k = n then r else leafFind l k := by
  induction l with
  | nil => simp only [leafPut, leafFind, eq_comm (a := n)]
  | cons x t ih =>
    obtain ⟨y, v⟩ := x
    simp only [leafPut, leafFind, eq_comm (a := k)]
    by_cases hy : y = n
    · by_cases h : n = k <;> simp only [hy, h, if_true, if_false, leafFind]
    · by_cases hk : y = k
      · have : ¬n = k := fun e => hy (hk.trans e.symm)
        have h2 : ¬k = n := fun e => this e.symm
        simp only [hk, h2, this, if_true, if_false, leafFind]
      · simp only [hy, hk, if_false, leafFind, ih, eq_comm (a := k)]

theorem leafGet_leafSet (b : Block) (l k : Leaf) (i : Nat) :
    leafGet (leafSet b l i) k = if k = l then putBit (leafGet b l) i true else leafGet b k := by
  simp [leafGet, leafSet, leafFind_leafPut]

theorem leafGet_clearLeaf (b : Block) (l k : Leaf) (v : W32) :
    leafGet (clearLeaf b l v) k = if k = l then leafGet b l &&& ~~~v else leafGet b k := by
  simp [leafGet, clearLeaf, leafFind_leafPut]

@[simp] theorem getSlot_setTen (b : Block) (t : Nat) (r : TenantRec) (k : Nat) : getSlot (setTen b t r) k = getSlot b k := rfl
@[simp] theorem getSn_setTen (b : Block) (t : Nat) (r : TenantRec) (k : Nat) : getSn (setTen b t r) k = getSn b k := rfl
@[simp] theorem getLink_setTen (b : Block) (t : Nat) (r : TenantRec) (k : Nat) : getLink (setTen b t r) k = getLink b k := rfl
@[simp] theorem getCore_setTen (b : Block) (t : Nat) (r : TenantRec) (k : Nat) : getCore (setTen b t r) k = getCore b k := rfl
@[simp] theorem getPslot_setTen (b : Block) (t : Nat) (r : TenantRec) (k : Nat) : getPslot (setTen b t r) k = getPslot b k := rfl
@[simp] theorem getPort_setTen (b : Block) (t : Nat) (r : TenantRec) (k : Nat) : getPort (setTen b t r) k = getPort b k := rfl
@[simp] theorem getHop_setTen (b : Block) (t : Nat) (r : TenantRec) (k : Nat) : getHop (setTen b t r) k = getHop b k := rfl
@[simp] theorem getRing_setTen (b : Block) (t : Nat) (r : TenantRec) (k : Nat) : getRing (setTen b t r) k = getRing b k := rfl
@[simp] theorem getChan_setTen (b : Block) (t : Nat) (r : TenantRec) (k : Nat) : getChan (setTen b t r) k = getChan b k := rfl
@[simp] theorem getDom_setTen (b : Block) (t : Nat) (r : TenantRec) (k : Nat) : getDom (setTen b t r) k = getDom b k := rfl
@[simp] theorem getEntry_setTen (b : Block) (t : Nat) (r : TenantRec) (k : Nat) : getEntry (setTen b t r) k = getEntry b k := rfl
@[simp] theorem getPll_setTen (b : Block) (t : Nat) (r : TenantRec) (k : Nat) : getPll (setTen b t r) k = getPll b k := rfl
@[simp] theorem getRef_setTen (b : Block) (t : Nat) (r : TenantRec) (k : Nat) : getRef (setTen b t r) k = getRef b k := rfl
@[simp] theorem getDdr_setTen (b : Block) (t : Nat) (r : TenantRec) (k : Nat) : getDdr (setTen b t r) k = getDdr b k := rfl
@[simp] theorem getPf_setTen (b : Block) (t : Nat) (r : TenantRec) (k : Nat) : getPf (setTen b t r) k = getPf b k := rfl
@[simp] theorem getDrive_setTen (b : Block) (t : Nat) (r : TenantRec) (k : Nat) : getDrive (setTen b t r) k = getDrive b k := rfl
@[simp] theorem getCr_setTen (b : Block) (t : Nat) (r : TenantRec) (q : Src) (k : Nat) : getCr (setTen b t r) q k = getCr b q k := rfl
@[simp] theorem getRoute_setTen (b : Block) (t : Nat) (r : TenantRec) (k : Route) : getRoute (setTen b t r) k = getRoute b k := rfl
@[simp] theorem nowNs_setTen (b : Block) (t : Nat) (r : TenantRec) : nowNs (setTen b t r) = nowNs b := rfl
@[simp] theorem ownPlace_setTen (b : Block) (t : Nat) (r : TenantRec) : ownPlace (setTen b t r) = ownPlace b := rfl
@[simp] theorem leafGet_setTen (b : Block) (t : Nat) (r : TenantRec) (x : Leaf) : leafGet (setTen b t r) x = leafGet b x := rfl
@[simp] theorem getTen_setSlot (b : Block) (n : Nat) (r : SlotRec) (k : Nat) : getTen (setSlot b n r) k = getTen b k := rfl
@[simp] theorem getSn_setSlot (b : Block) (n : Nat) (r : SlotRec) (k : Nat) : getSn (setSlot b n r) k = getSn b k := rfl
@[simp] theorem getLink_setSlot (b : Block) (n : Nat) (r : SlotRec) (k : Nat) : getLink (setSlot b n r) k = getLink b k := rfl
@[simp] theorem getCore_setSlot (b : Block) (n : Nat) (r : SlotRec) (k : Nat) : getCore (setSlot b n r) k = getCore b k := rfl
@[simp] theorem getPslot_setSlot (b : Block) (n : Nat) (r : SlotRec) (k : Nat) : getPslot (setSlot b n r) k = getPslot b k := rfl
@[simp] theorem getPort_setSlot (b : Block) (n : Nat) (r : SlotRec) (k : Nat) : getPort (setSlot b n r) k = getPort b k := rfl
@[simp] theorem getHop_setSlot (b : Block) (n : Nat) (r : SlotRec) (k : Nat) : getHop (setSlot b n r) k = getHop b k := rfl
@[simp] theorem getRing_setSlot (b : Block) (n : Nat) (r : SlotRec) (k : Nat) : getRing (setSlot b n r) k = getRing b k := rfl
@[simp] theorem getChan_setSlot (b : Block) (n : Nat) (r : SlotRec) (k : Nat) : getChan (setSlot b n r) k = getChan b k := rfl
@[simp] theorem getDom_setSlot (b : Block) (n : Nat) (r : SlotRec) (k : Nat) : getDom (setSlot b n r) k = getDom b k := rfl
@[simp] theorem getEntry_setSlot (b : Block) (n : Nat) (r : SlotRec) (k : Nat) : getEntry (setSlot b n r) k = getEntry b k := rfl
@[simp] theorem getPll_setSlot (b : Block) (n : Nat) (r : SlotRec) (k : Nat) : getPll (setSlot b n r) k = getPll b k := rfl
@[simp] theorem getRef_setSlot (b : Block) (n : Nat) (r : SlotRec) (k : Nat) : getRef (setSlot b n r) k = getRef b k := rfl
@[simp] theorem getDdr_setSlot (b : Block) (n : Nat) (r : SlotRec) (k : Nat) : getDdr (setSlot b n r) k = getDdr b k := rfl
@[simp] theorem getPf_setSlot (b : Block) (n : Nat) (r : SlotRec) (k : Nat) : getPf (setSlot b n r) k = getPf b k := rfl
@[simp] theorem getDrive_setSlot (b : Block) (n : Nat) (r : SlotRec) (k : Nat) : getDrive (setSlot b n r) k = getDrive b k := rfl
@[simp] theorem getCr_setSlot (b : Block) (n : Nat) (r : SlotRec) (q : Src) (k : Nat) : getCr (setSlot b n r) q k = getCr b q k := rfl
@[simp] theorem getRoute_setSlot (b : Block) (n : Nat) (r : SlotRec) (k : Route) : getRoute (setSlot b n r) k = getRoute b k := rfl
@[simp] theorem nowNs_setSlot (b : Block) (n : Nat) (r : SlotRec) : nowNs (setSlot b n r) = nowNs b := rfl
@[simp] theorem ownPlace_setSlot (b : Block) (n : Nat) (r : SlotRec) : ownPlace (setSlot b n r) = ownPlace b := rfl
@[simp] theorem leafGet_setSlot (b : Block) (n : Nat) (r : SlotRec) (x : Leaf) : leafGet (setSlot b n r) x = leafGet b x := rfl
@[simp] theorem getTen_setSn (b : Block) (n : Nat) (r : Sentinel) (k : Nat) : getTen (setSn b n r) k = getTen b k := rfl
@[simp] theorem getSlot_setSn (b : Block) (n : Nat) (r : Sentinel) (k : Nat) : getSlot (setSn b n r) k = getSlot b k := rfl
@[simp] theorem getLink_setSn (b : Block) (n : Nat) (r : Sentinel) (k : Nat) : getLink (setSn b n r) k = getLink b k := rfl
@[simp] theorem getCore_setSn (b : Block) (n : Nat) (r : Sentinel) (k : Nat) : getCore (setSn b n r) k = getCore b k := rfl
@[simp] theorem getPslot_setSn (b : Block) (n : Nat) (r : Sentinel) (k : Nat) : getPslot (setSn b n r) k = getPslot b k := rfl
@[simp] theorem getPort_setSn (b : Block) (n : Nat) (r : Sentinel) (k : Nat) : getPort (setSn b n r) k = getPort b k := rfl
@[simp] theorem getHop_setSn (b : Block) (n : Nat) (r : Sentinel) (k : Nat) : getHop (setSn b n r) k = getHop b k := rfl
@[simp] theorem getRing_setSn (b : Block) (n : Nat) (r : Sentinel) (k : Nat) : getRing (setSn b n r) k = getRing b k := rfl
@[simp] theorem getChan_setSn (b : Block) (n : Nat) (r : Sentinel) (k : Nat) : getChan (setSn b n r) k = getChan b k := rfl
@[simp] theorem getDom_setSn (b : Block) (n : Nat) (r : Sentinel) (k : Nat) : getDom (setSn b n r) k = getDom b k := rfl
@[simp] theorem getEntry_setSn (b : Block) (n : Nat) (r : Sentinel) (k : Nat) : getEntry (setSn b n r) k = getEntry b k := rfl
@[simp] theorem getPll_setSn (b : Block) (n : Nat) (r : Sentinel) (k : Nat) : getPll (setSn b n r) k = getPll b k := rfl
@[simp] theorem getRef_setSn (b : Block) (n : Nat) (r : Sentinel) (k : Nat) : getRef (setSn b n r) k = getRef b k := rfl
@[simp] theorem getDdr_setSn (b : Block) (n : Nat) (r : Sentinel) (k : Nat) : getDdr (setSn b n r) k = getDdr b k := rfl
@[simp] theorem getPf_setSn (b : Block) (n : Nat) (r : Sentinel) (k : Nat) : getPf (setSn b n r) k = getPf b k := rfl
@[simp] theorem getDrive_setSn (b : Block) (n : Nat) (r : Sentinel) (k : Nat) : getDrive (setSn b n r) k = getDrive b k := rfl
@[simp] theorem getCr_setSn (b : Block) (n : Nat) (r : Sentinel) (q : Src) (k : Nat) : getCr (setSn b n r) q k = getCr b q k := rfl
@[simp] theorem getRoute_setSn (b : Block) (n : Nat) (r : Sentinel) (k : Route) : getRoute (setSn b n r) k = getRoute b k := rfl
@[simp] theorem nowNs_setSn (b : Block) (n : Nat) (r : Sentinel) : nowNs (setSn b n r) = nowNs b := rfl
@[simp] theorem ownPlace_setSn (b : Block) (n : Nat) (r : Sentinel) : ownPlace (setSn b n r) = ownPlace b := rfl
@[simp] theorem leafGet_setSn (b : Block) (n : Nat) (r : Sentinel) (x : Leaf) : leafGet (setSn b n r) x = leafGet b x := rfl
@[simp] theorem getTen_setLink (b : Block) (n : Nat) (r : Link) (k : Nat) : getTen (setLink b n r) k = getTen b k := rfl
@[simp] theorem getSlot_setLink (b : Block) (n : Nat) (r : Link) (k : Nat) : getSlot (setLink b n r) k = getSlot b k := rfl
@[simp] theorem getSn_setLink (b : Block) (n : Nat) (r : Link) (k : Nat) : getSn (setLink b n r) k = getSn b k := rfl
@[simp] theorem getCore_setLink (b : Block) (n : Nat) (r : Link) (k : Nat) : getCore (setLink b n r) k = getCore b k := rfl
@[simp] theorem getPslot_setLink (b : Block) (n : Nat) (r : Link) (k : Nat) : getPslot (setLink b n r) k = getPslot b k := rfl
@[simp] theorem getPort_setLink (b : Block) (n : Nat) (r : Link) (k : Nat) : getPort (setLink b n r) k = getPort b k := rfl
@[simp] theorem getHop_setLink (b : Block) (n : Nat) (r : Link) (k : Nat) : getHop (setLink b n r) k = getHop b k := rfl
@[simp] theorem getRing_setLink (b : Block) (n : Nat) (r : Link) (k : Nat) : getRing (setLink b n r) k = getRing b k := rfl
@[simp] theorem getChan_setLink (b : Block) (n : Nat) (r : Link) (k : Nat) : getChan (setLink b n r) k = getChan b k := rfl
@[simp] theorem getDom_setLink (b : Block) (n : Nat) (r : Link) (k : Nat) : getDom (setLink b n r) k = getDom b k := rfl
@[simp] theorem getEntry_setLink (b : Block) (n : Nat) (r : Link) (k : Nat) : getEntry (setLink b n r) k = getEntry b k := rfl
@[simp] theorem getPll_setLink (b : Block) (n : Nat) (r : Link) (k : Nat) : getPll (setLink b n r) k = getPll b k := rfl
@[simp] theorem getRef_setLink (b : Block) (n : Nat) (r : Link) (k : Nat) : getRef (setLink b n r) k = getRef b k := rfl
@[simp] theorem getDdr_setLink (b : Block) (n : Nat) (r : Link) (k : Nat) : getDdr (setLink b n r) k = getDdr b k := rfl
@[simp] theorem getPf_setLink (b : Block) (n : Nat) (r : Link) (k : Nat) : getPf (setLink b n r) k = getPf b k := rfl
@[simp] theorem getDrive_setLink (b : Block) (n : Nat) (r : Link) (k : Nat) : getDrive (setLink b n r) k = getDrive b k := rfl
@[simp] theorem getCr_setLink (b : Block) (n : Nat) (r : Link) (q : Src) (k : Nat) : getCr (setLink b n r) q k = getCr b q k := rfl
@[simp] theorem getRoute_setLink (b : Block) (n : Nat) (r : Link) (k : Route) : getRoute (setLink b n r) k = getRoute b k := rfl
@[simp] theorem nowNs_setLink (b : Block) (n : Nat) (r : Link) : nowNs (setLink b n r) = nowNs b := rfl
@[simp] theorem ownPlace_setLink (b : Block) (n : Nat) (r : Link) : ownPlace (setLink b n r) = ownPlace b := rfl
@[simp] theorem leafGet_setLink (b : Block) (n : Nat) (r : Link) (x : Leaf) : leafGet (setLink b n r) x = leafGet b x := rfl
@[simp] theorem getTen_setCore (b : Block) (n : Nat) (r : Core) (k : Nat) : getTen (setCore b n r) k = getTen b k := rfl
@[simp] theorem getSlot_setCore (b : Block) (n : Nat) (r : Core) (k : Nat) : getSlot (setCore b n r) k = getSlot b k := rfl
@[simp] theorem getSn_setCore (b : Block) (n : Nat) (r : Core) (k : Nat) : getSn (setCore b n r) k = getSn b k := rfl
@[simp] theorem getLink_setCore (b : Block) (n : Nat) (r : Core) (k : Nat) : getLink (setCore b n r) k = getLink b k := rfl
@[simp] theorem getPslot_setCore (b : Block) (n : Nat) (r : Core) (k : Nat) : getPslot (setCore b n r) k = getPslot b k := rfl
@[simp] theorem getPort_setCore (b : Block) (n : Nat) (r : Core) (k : Nat) : getPort (setCore b n r) k = getPort b k := rfl
@[simp] theorem getHop_setCore (b : Block) (n : Nat) (r : Core) (k : Nat) : getHop (setCore b n r) k = getHop b k := rfl
@[simp] theorem getRing_setCore (b : Block) (n : Nat) (r : Core) (k : Nat) : getRing (setCore b n r) k = getRing b k := rfl
@[simp] theorem getChan_setCore (b : Block) (n : Nat) (r : Core) (k : Nat) : getChan (setCore b n r) k = getChan b k := rfl
@[simp] theorem getDom_setCore (b : Block) (n : Nat) (r : Core) (k : Nat) : getDom (setCore b n r) k = getDom b k := rfl
@[simp] theorem getEntry_setCore (b : Block) (n : Nat) (r : Core) (k : Nat) : getEntry (setCore b n r) k = getEntry b k := rfl
@[simp] theorem getPll_setCore (b : Block) (n : Nat) (r : Core) (k : Nat) : getPll (setCore b n r) k = getPll b k := rfl
@[simp] theorem getRef_setCore (b : Block) (n : Nat) (r : Core) (k : Nat) : getRef (setCore b n r) k = getRef b k := rfl
@[simp] theorem getDdr_setCore (b : Block) (n : Nat) (r : Core) (k : Nat) : getDdr (setCore b n r) k = getDdr b k := rfl
@[simp] theorem getPf_setCore (b : Block) (n : Nat) (r : Core) (k : Nat) : getPf (setCore b n r) k = getPf b k := rfl
@[simp] theorem getDrive_setCore (b : Block) (n : Nat) (r : Core) (k : Nat) : getDrive (setCore b n r) k = getDrive b k := rfl
@[simp] theorem getCr_setCore (b : Block) (n : Nat) (r : Core) (q : Src) (k : Nat) : getCr (setCore b n r) q k = getCr b q k := rfl
@[simp] theorem getRoute_setCore (b : Block) (n : Nat) (r : Core) (k : Route) : getRoute (setCore b n r) k = getRoute b k := rfl
@[simp] theorem nowNs_setCore (b : Block) (n : Nat) (r : Core) : nowNs (setCore b n r) = nowNs b := rfl
@[simp] theorem ownPlace_setCore (b : Block) (n : Nat) (r : Core) : ownPlace (setCore b n r) = ownPlace b := rfl
@[simp] theorem leafGet_setCore (b : Block) (n : Nat) (r : Core) (x : Leaf) : leafGet (setCore b n r) x = leafGet b x := rfl
@[simp] theorem getTen_setPslot (b : Block) (n : Nat) (r : ProgSlot) (k : Nat) : getTen (setPslot b n r) k = getTen b k := rfl
@[simp] theorem getSlot_setPslot (b : Block) (n : Nat) (r : ProgSlot) (k : Nat) : getSlot (setPslot b n r) k = getSlot b k := rfl
@[simp] theorem getSn_setPslot (b : Block) (n : Nat) (r : ProgSlot) (k : Nat) : getSn (setPslot b n r) k = getSn b k := rfl
@[simp] theorem getLink_setPslot (b : Block) (n : Nat) (r : ProgSlot) (k : Nat) : getLink (setPslot b n r) k = getLink b k := rfl
@[simp] theorem getCore_setPslot (b : Block) (n : Nat) (r : ProgSlot) (k : Nat) : getCore (setPslot b n r) k = getCore b k := rfl
@[simp] theorem getPort_setPslot (b : Block) (n : Nat) (r : ProgSlot) (k : Nat) : getPort (setPslot b n r) k = getPort b k := rfl
@[simp] theorem getHop_setPslot (b : Block) (n : Nat) (r : ProgSlot) (k : Nat) : getHop (setPslot b n r) k = getHop b k := rfl
@[simp] theorem getRing_setPslot (b : Block) (n : Nat) (r : ProgSlot) (k : Nat) : getRing (setPslot b n r) k = getRing b k := rfl
@[simp] theorem getChan_setPslot (b : Block) (n : Nat) (r : ProgSlot) (k : Nat) : getChan (setPslot b n r) k = getChan b k := rfl
@[simp] theorem getDom_setPslot (b : Block) (n : Nat) (r : ProgSlot) (k : Nat) : getDom (setPslot b n r) k = getDom b k := rfl
@[simp] theorem getEntry_setPslot (b : Block) (n : Nat) (r : ProgSlot) (k : Nat) : getEntry (setPslot b n r) k = getEntry b k := rfl
@[simp] theorem getPll_setPslot (b : Block) (n : Nat) (r : ProgSlot) (k : Nat) : getPll (setPslot b n r) k = getPll b k := rfl
@[simp] theorem getRef_setPslot (b : Block) (n : Nat) (r : ProgSlot) (k : Nat) : getRef (setPslot b n r) k = getRef b k := rfl
@[simp] theorem getDdr_setPslot (b : Block) (n : Nat) (r : ProgSlot) (k : Nat) : getDdr (setPslot b n r) k = getDdr b k := rfl
@[simp] theorem getPf_setPslot (b : Block) (n : Nat) (r : ProgSlot) (k : Nat) : getPf (setPslot b n r) k = getPf b k := rfl
@[simp] theorem getDrive_setPslot (b : Block) (n : Nat) (r : ProgSlot) (k : Nat) : getDrive (setPslot b n r) k = getDrive b k := rfl
@[simp] theorem getCr_setPslot (b : Block) (n : Nat) (r : ProgSlot) (q : Src) (k : Nat) : getCr (setPslot b n r) q k = getCr b q k := rfl
@[simp] theorem getRoute_setPslot (b : Block) (n : Nat) (r : ProgSlot) (k : Route) : getRoute (setPslot b n r) k = getRoute b k := rfl
@[simp] theorem nowNs_setPslot (b : Block) (n : Nat) (r : ProgSlot) : nowNs (setPslot b n r) = nowNs b := rfl
@[simp] theorem ownPlace_setPslot (b : Block) (n : Nat) (r : ProgSlot) : ownPlace (setPslot b n r) = ownPlace b := rfl
@[simp] theorem leafGet_setPslot (b : Block) (n : Nat) (r : ProgSlot) (x : Leaf) : leafGet (setPslot b n r) x = leafGet b x := rfl
@[simp] theorem getTen_setPort (b : Block) (n : Nat) (r : SpPort) (k : Nat) : getTen (setPort b n r) k = getTen b k := rfl
@[simp] theorem getSlot_setPort (b : Block) (n : Nat) (r : SpPort) (k : Nat) : getSlot (setPort b n r) k = getSlot b k := rfl
@[simp] theorem getSn_setPort (b : Block) (n : Nat) (r : SpPort) (k : Nat) : getSn (setPort b n r) k = getSn b k := rfl
@[simp] theorem getLink_setPort (b : Block) (n : Nat) (r : SpPort) (k : Nat) : getLink (setPort b n r) k = getLink b k := rfl
@[simp] theorem getCore_setPort (b : Block) (n : Nat) (r : SpPort) (k : Nat) : getCore (setPort b n r) k = getCore b k := rfl
@[simp] theorem getPslot_setPort (b : Block) (n : Nat) (r : SpPort) (k : Nat) : getPslot (setPort b n r) k = getPslot b k := rfl
@[simp] theorem getHop_setPort (b : Block) (n : Nat) (r : SpPort) (k : Nat) : getHop (setPort b n r) k = getHop b k := rfl
@[simp] theorem getRing_setPort (b : Block) (n : Nat) (r : SpPort) (k : Nat) : getRing (setPort b n r) k = getRing b k := rfl
@[simp] theorem getChan_setPort (b : Block) (n : Nat) (r : SpPort) (k : Nat) : getChan (setPort b n r) k = getChan b k := rfl
@[simp] theorem getDom_setPort (b : Block) (n : Nat) (r : SpPort) (k : Nat) : getDom (setPort b n r) k = getDom b k := rfl
@[simp] theorem getEntry_setPort (b : Block) (n : Nat) (r : SpPort) (k : Nat) : getEntry (setPort b n r) k = getEntry b k := rfl
@[simp] theorem getPll_setPort (b : Block) (n : Nat) (r : SpPort) (k : Nat) : getPll (setPort b n r) k = getPll b k := rfl
@[simp] theorem getRef_setPort (b : Block) (n : Nat) (r : SpPort) (k : Nat) : getRef (setPort b n r) k = getRef b k := rfl
@[simp] theorem getDdr_setPort (b : Block) (n : Nat) (r : SpPort) (k : Nat) : getDdr (setPort b n r) k = getDdr b k := rfl
@[simp] theorem getPf_setPort (b : Block) (n : Nat) (r : SpPort) (k : Nat) : getPf (setPort b n r) k = getPf b k := rfl
@[simp] theorem getDrive_setPort (b : Block) (n : Nat) (r : SpPort) (k : Nat) : getDrive (setPort b n r) k = getDrive b k := rfl
@[simp] theorem getCr_setPort (b : Block) (n : Nat) (r : SpPort) (q : Src) (k : Nat) : getCr (setPort b n r) q k = getCr b q k := rfl
@[simp] theorem getRoute_setPort (b : Block) (n : Nat) (r : SpPort) (k : Route) : getRoute (setPort b n r) k = getRoute b k := rfl
@[simp] theorem nowNs_setPort (b : Block) (n : Nat) (r : SpPort) : nowNs (setPort b n r) = nowNs b := rfl
@[simp] theorem ownPlace_setPort (b : Block) (n : Nat) (r : SpPort) : ownPlace (setPort b n r) = ownPlace b := rfl
@[simp] theorem leafGet_setPort (b : Block) (n : Nat) (r : SpPort) (x : Leaf) : leafGet (setPort b n r) x = leafGet b x := rfl
@[simp] theorem getTen_setHop (b : Block) (n : Nat) (r : Hop) (k : Nat) : getTen (setHop b n r) k = getTen b k := rfl
@[simp] theorem getSlot_setHop (b : Block) (n : Nat) (r : Hop) (k : Nat) : getSlot (setHop b n r) k = getSlot b k := rfl
@[simp] theorem getSn_setHop (b : Block) (n : Nat) (r : Hop) (k : Nat) : getSn (setHop b n r) k = getSn b k := rfl
@[simp] theorem getLink_setHop (b : Block) (n : Nat) (r : Hop) (k : Nat) : getLink (setHop b n r) k = getLink b k := rfl
@[simp] theorem getCore_setHop (b : Block) (n : Nat) (r : Hop) (k : Nat) : getCore (setHop b n r) k = getCore b k := rfl
@[simp] theorem getPslot_setHop (b : Block) (n : Nat) (r : Hop) (k : Nat) : getPslot (setHop b n r) k = getPslot b k := rfl
@[simp] theorem getPort_setHop (b : Block) (n : Nat) (r : Hop) (k : Nat) : getPort (setHop b n r) k = getPort b k := rfl
@[simp] theorem getRing_setHop (b : Block) (n : Nat) (r : Hop) (k : Nat) : getRing (setHop b n r) k = getRing b k := rfl
@[simp] theorem getChan_setHop (b : Block) (n : Nat) (r : Hop) (k : Nat) : getChan (setHop b n r) k = getChan b k := rfl
@[simp] theorem getDom_setHop (b : Block) (n : Nat) (r : Hop) (k : Nat) : getDom (setHop b n r) k = getDom b k := rfl
@[simp] theorem getEntry_setHop (b : Block) (n : Nat) (r : Hop) (k : Nat) : getEntry (setHop b n r) k = getEntry b k := rfl
@[simp] theorem getPll_setHop (b : Block) (n : Nat) (r : Hop) (k : Nat) : getPll (setHop b n r) k = getPll b k := rfl
@[simp] theorem getRef_setHop (b : Block) (n : Nat) (r : Hop) (k : Nat) : getRef (setHop b n r) k = getRef b k := rfl
@[simp] theorem getDdr_setHop (b : Block) (n : Nat) (r : Hop) (k : Nat) : getDdr (setHop b n r) k = getDdr b k := rfl
@[simp] theorem getPf_setHop (b : Block) (n : Nat) (r : Hop) (k : Nat) : getPf (setHop b n r) k = getPf b k := rfl
@[simp] theorem getDrive_setHop (b : Block) (n : Nat) (r : Hop) (k : Nat) : getDrive (setHop b n r) k = getDrive b k := rfl
@[simp] theorem getCr_setHop (b : Block) (n : Nat) (r : Hop) (q : Src) (k : Nat) : getCr (setHop b n r) q k = getCr b q k := rfl
@[simp] theorem getRoute_setHop (b : Block) (n : Nat) (r : Hop) (k : Route) : getRoute (setHop b n r) k = getRoute b k := rfl
@[simp] theorem nowNs_setHop (b : Block) (n : Nat) (r : Hop) : nowNs (setHop b n r) = nowNs b := rfl
@[simp] theorem ownPlace_setHop (b : Block) (n : Nat) (r : Hop) : ownPlace (setHop b n r) = ownPlace b := rfl
@[simp] theorem leafGet_setHop (b : Block) (n : Nat) (r : Hop) (x : Leaf) : leafGet (setHop b n r) x = leafGet b x := rfl
@[simp] theorem getTen_setRing (b : Block) (n : Nat) (r : Ring) (k : Nat) : getTen (setRing b n r) k = getTen b k := rfl
@[simp] theorem getSlot_setRing (b : Block) (n : Nat) (r : Ring) (k : Nat) : getSlot (setRing b n r) k = getSlot b k := rfl
@[simp] theorem getSn_setRing (b : Block) (n : Nat) (r : Ring) (k : Nat) : getSn (setRing b n r) k = getSn b k := rfl
@[simp] theorem getLink_setRing (b : Block) (n : Nat) (r : Ring) (k : Nat) : getLink (setRing b n r) k = getLink b k := rfl
@[simp] theorem getCore_setRing (b : Block) (n : Nat) (r : Ring) (k : Nat) : getCore (setRing b n r) k = getCore b k := rfl
@[simp] theorem getPslot_setRing (b : Block) (n : Nat) (r : Ring) (k : Nat) : getPslot (setRing b n r) k = getPslot b k := rfl
@[simp] theorem getPort_setRing (b : Block) (n : Nat) (r : Ring) (k : Nat) : getPort (setRing b n r) k = getPort b k := rfl
@[simp] theorem getHop_setRing (b : Block) (n : Nat) (r : Ring) (k : Nat) : getHop (setRing b n r) k = getHop b k := rfl
@[simp] theorem getChan_setRing (b : Block) (n : Nat) (r : Ring) (k : Nat) : getChan (setRing b n r) k = getChan b k := rfl
@[simp] theorem getDom_setRing (b : Block) (n : Nat) (r : Ring) (k : Nat) : getDom (setRing b n r) k = getDom b k := rfl
@[simp] theorem getEntry_setRing (b : Block) (n : Nat) (r : Ring) (k : Nat) : getEntry (setRing b n r) k = getEntry b k := rfl
@[simp] theorem getPll_setRing (b : Block) (n : Nat) (r : Ring) (k : Nat) : getPll (setRing b n r) k = getPll b k := rfl
@[simp] theorem getRef_setRing (b : Block) (n : Nat) (r : Ring) (k : Nat) : getRef (setRing b n r) k = getRef b k := rfl
@[simp] theorem getDdr_setRing (b : Block) (n : Nat) (r : Ring) (k : Nat) : getDdr (setRing b n r) k = getDdr b k := rfl
@[simp] theorem getPf_setRing (b : Block) (n : Nat) (r : Ring) (k : Nat) : getPf (setRing b n r) k = getPf b k := rfl
@[simp] theorem getDrive_setRing (b : Block) (n : Nat) (r : Ring) (k : Nat) : getDrive (setRing b n r) k = getDrive b k := rfl
@[simp] theorem getCr_setRing (b : Block) (n : Nat) (r : Ring) (q : Src) (k : Nat) : getCr (setRing b n r) q k = getCr b q k := rfl
@[simp] theorem getRoute_setRing (b : Block) (n : Nat) (r : Ring) (k : Route) : getRoute (setRing b n r) k = getRoute b k := rfl
@[simp] theorem nowNs_setRing (b : Block) (n : Nat) (r : Ring) : nowNs (setRing b n r) = nowNs b := rfl
@[simp] theorem ownPlace_setRing (b : Block) (n : Nat) (r : Ring) : ownPlace (setRing b n r) = ownPlace b := rfl
@[simp] theorem leafGet_setRing (b : Block) (n : Nat) (r : Ring) (x : Leaf) : leafGet (setRing b n r) x = leafGet b x := rfl
@[simp] theorem getTen_setChan (b : Block) (n : Nat) (r : RedChan) (k : Nat) : getTen (setChan b n r) k = getTen b k := rfl
@[simp] theorem getSlot_setChan (b : Block) (n : Nat) (r : RedChan) (k : Nat) : getSlot (setChan b n r) k = getSlot b k := rfl
@[simp] theorem getSn_setChan (b : Block) (n : Nat) (r : RedChan) (k : Nat) : getSn (setChan b n r) k = getSn b k := rfl
@[simp] theorem getLink_setChan (b : Block) (n : Nat) (r : RedChan) (k : Nat) : getLink (setChan b n r) k = getLink b k := rfl
@[simp] theorem getCore_setChan (b : Block) (n : Nat) (r : RedChan) (k : Nat) : getCore (setChan b n r) k = getCore b k := rfl
@[simp] theorem getPslot_setChan (b : Block) (n : Nat) (r : RedChan) (k : Nat) : getPslot (setChan b n r) k = getPslot b k := rfl
@[simp] theorem getPort_setChan (b : Block) (n : Nat) (r : RedChan) (k : Nat) : getPort (setChan b n r) k = getPort b k := rfl
@[simp] theorem getHop_setChan (b : Block) (n : Nat) (r : RedChan) (k : Nat) : getHop (setChan b n r) k = getHop b k := rfl
@[simp] theorem getRing_setChan (b : Block) (n : Nat) (r : RedChan) (k : Nat) : getRing (setChan b n r) k = getRing b k := rfl
@[simp] theorem getDom_setChan (b : Block) (n : Nat) (r : RedChan) (k : Nat) : getDom (setChan b n r) k = getDom b k := rfl
@[simp] theorem getEntry_setChan (b : Block) (n : Nat) (r : RedChan) (k : Nat) : getEntry (setChan b n r) k = getEntry b k := rfl
@[simp] theorem getPll_setChan (b : Block) (n : Nat) (r : RedChan) (k : Nat) : getPll (setChan b n r) k = getPll b k := rfl
@[simp] theorem getRef_setChan (b : Block) (n : Nat) (r : RedChan) (k : Nat) : getRef (setChan b n r) k = getRef b k := rfl
@[simp] theorem getDdr_setChan (b : Block) (n : Nat) (r : RedChan) (k : Nat) : getDdr (setChan b n r) k = getDdr b k := rfl
@[simp] theorem getPf_setChan (b : Block) (n : Nat) (r : RedChan) (k : Nat) : getPf (setChan b n r) k = getPf b k := rfl
@[simp] theorem getDrive_setChan (b : Block) (n : Nat) (r : RedChan) (k : Nat) : getDrive (setChan b n r) k = getDrive b k := rfl
@[simp] theorem getCr_setChan (b : Block) (n : Nat) (r : RedChan) (q : Src) (k : Nat) : getCr (setChan b n r) q k = getCr b q k := rfl
@[simp] theorem getRoute_setChan (b : Block) (n : Nat) (r : RedChan) (k : Route) : getRoute (setChan b n r) k = getRoute b k := rfl
@[simp] theorem nowNs_setChan (b : Block) (n : Nat) (r : RedChan) : nowNs (setChan b n r) = nowNs b := rfl
@[simp] theorem ownPlace_setChan (b : Block) (n : Nat) (r : RedChan) : ownPlace (setChan b n r) = ownPlace b := rfl
@[simp] theorem leafGet_setChan (b : Block) (n : Nat) (r : RedChan) (x : Leaf) : leafGet (setChan b n r) x = leafGet b x := rfl
@[simp] theorem getTen_setDom (b : Block) (n : Nat) (r : Domain) (k : Nat) : getTen (setDom b n r) k = getTen b k := rfl
@[simp] theorem getSlot_setDom (b : Block) (n : Nat) (r : Domain) (k : Nat) : getSlot (setDom b n r) k = getSlot b k := rfl
@[simp] theorem getSn_setDom (b : Block) (n : Nat) (r : Domain) (k : Nat) : getSn (setDom b n r) k = getSn b k := rfl
@[simp] theorem getLink_setDom (b : Block) (n : Nat) (r : Domain) (k : Nat) : getLink (setDom b n r) k = getLink b k := rfl
@[simp] theorem getCore_setDom (b : Block) (n : Nat) (r : Domain) (k : Nat) : getCore (setDom b n r) k = getCore b k := rfl
@[simp] theorem getPslot_setDom (b : Block) (n : Nat) (r : Domain) (k : Nat) : getPslot (setDom b n r) k = getPslot b k := rfl
@[simp] theorem getPort_setDom (b : Block) (n : Nat) (r : Domain) (k : Nat) : getPort (setDom b n r) k = getPort b k := rfl
@[simp] theorem getHop_setDom (b : Block) (n : Nat) (r : Domain) (k : Nat) : getHop (setDom b n r) k = getHop b k := rfl
@[simp] theorem getRing_setDom (b : Block) (n : Nat) (r : Domain) (k : Nat) : getRing (setDom b n r) k = getRing b k := rfl
@[simp] theorem getChan_setDom (b : Block) (n : Nat) (r : Domain) (k : Nat) : getChan (setDom b n r) k = getChan b k := rfl
@[simp] theorem getEntry_setDom (b : Block) (n : Nat) (r : Domain) (k : Nat) : getEntry (setDom b n r) k = getEntry b k := rfl
@[simp] theorem getPll_setDom (b : Block) (n : Nat) (r : Domain) (k : Nat) : getPll (setDom b n r) k = getPll b k := rfl
@[simp] theorem getRef_setDom (b : Block) (n : Nat) (r : Domain) (k : Nat) : getRef (setDom b n r) k = getRef b k := rfl
@[simp] theorem getDdr_setDom (b : Block) (n : Nat) (r : Domain) (k : Nat) : getDdr (setDom b n r) k = getDdr b k := rfl
@[simp] theorem getPf_setDom (b : Block) (n : Nat) (r : Domain) (k : Nat) : getPf (setDom b n r) k = getPf b k := rfl
@[simp] theorem getDrive_setDom (b : Block) (n : Nat) (r : Domain) (k : Nat) : getDrive (setDom b n r) k = getDrive b k := rfl
@[simp] theorem getCr_setDom (b : Block) (n : Nat) (r : Domain) (q : Src) (k : Nat) : getCr (setDom b n r) q k = getCr b q k := rfl
@[simp] theorem getRoute_setDom (b : Block) (n : Nat) (r : Domain) (k : Route) : getRoute (setDom b n r) k = getRoute b k := rfl
@[simp] theorem nowNs_setDom (b : Block) (n : Nat) (r : Domain) : nowNs (setDom b n r) = nowNs b := rfl
@[simp] theorem ownPlace_setDom (b : Block) (n : Nat) (r : Domain) : ownPlace (setDom b n r) = ownPlace b := rfl
@[simp] theorem leafGet_setDom (b : Block) (n : Nat) (r : Domain) (x : Leaf) : leafGet (setDom b n r) x = leafGet b x := rfl
@[simp] theorem getTen_setEntry (b : Block) (n : Nat) (r : Entry) (k : Nat) : getTen (setEntry b n r) k = getTen b k := rfl
@[simp] theorem getSlot_setEntry (b : Block) (n : Nat) (r : Entry) (k : Nat) : getSlot (setEntry b n r) k = getSlot b k := rfl
@[simp] theorem getSn_setEntry (b : Block) (n : Nat) (r : Entry) (k : Nat) : getSn (setEntry b n r) k = getSn b k := rfl
@[simp] theorem getLink_setEntry (b : Block) (n : Nat) (r : Entry) (k : Nat) : getLink (setEntry b n r) k = getLink b k := rfl
@[simp] theorem getCore_setEntry (b : Block) (n : Nat) (r : Entry) (k : Nat) : getCore (setEntry b n r) k = getCore b k := rfl
@[simp] theorem getPslot_setEntry (b : Block) (n : Nat) (r : Entry) (k : Nat) : getPslot (setEntry b n r) k = getPslot b k := rfl
@[simp] theorem getPort_setEntry (b : Block) (n : Nat) (r : Entry) (k : Nat) : getPort (setEntry b n r) k = getPort b k := rfl
@[simp] theorem getHop_setEntry (b : Block) (n : Nat) (r : Entry) (k : Nat) : getHop (setEntry b n r) k = getHop b k := rfl
@[simp] theorem getRing_setEntry (b : Block) (n : Nat) (r : Entry) (k : Nat) : getRing (setEntry b n r) k = getRing b k := rfl
@[simp] theorem getChan_setEntry (b : Block) (n : Nat) (r : Entry) (k : Nat) : getChan (setEntry b n r) k = getChan b k := rfl
@[simp] theorem getDom_setEntry (b : Block) (n : Nat) (r : Entry) (k : Nat) : getDom (setEntry b n r) k = getDom b k := rfl
@[simp] theorem getPll_setEntry (b : Block) (n : Nat) (r : Entry) (k : Nat) : getPll (setEntry b n r) k = getPll b k := rfl
@[simp] theorem getRef_setEntry (b : Block) (n : Nat) (r : Entry) (k : Nat) : getRef (setEntry b n r) k = getRef b k := rfl
@[simp] theorem getDdr_setEntry (b : Block) (n : Nat) (r : Entry) (k : Nat) : getDdr (setEntry b n r) k = getDdr b k := rfl
@[simp] theorem getPf_setEntry (b : Block) (n : Nat) (r : Entry) (k : Nat) : getPf (setEntry b n r) k = getPf b k := rfl
@[simp] theorem getDrive_setEntry (b : Block) (n : Nat) (r : Entry) (k : Nat) : getDrive (setEntry b n r) k = getDrive b k := rfl
@[simp] theorem getCr_setEntry (b : Block) (n : Nat) (r : Entry) (q : Src) (k : Nat) : getCr (setEntry b n r) q k = getCr b q k := rfl
@[simp] theorem getRoute_setEntry (b : Block) (n : Nat) (r : Entry) (k : Route) : getRoute (setEntry b n r) k = getRoute b k := rfl
@[simp] theorem nowNs_setEntry (b : Block) (n : Nat) (r : Entry) : nowNs (setEntry b n r) = nowNs b := rfl
@[simp] theorem ownPlace_setEntry (b : Block) (n : Nat) (r : Entry) : ownPlace (setEntry b n r) = ownPlace b := rfl
@[simp] theorem leafGet_setEntry (b : Block) (n : Nat) (r : Entry) (x : Leaf) : leafGet (setEntry b n r) x = leafGet b x := rfl
@[simp] theorem getTen_setPll (b : Block) (n : Nat) (r : Pll) (k : Nat) : getTen (setPll b n r) k = getTen b k := rfl
@[simp] theorem getSlot_setPll (b : Block) (n : Nat) (r : Pll) (k : Nat) : getSlot (setPll b n r) k = getSlot b k := rfl
@[simp] theorem getSn_setPll (b : Block) (n : Nat) (r : Pll) (k : Nat) : getSn (setPll b n r) k = getSn b k := rfl
@[simp] theorem getLink_setPll (b : Block) (n : Nat) (r : Pll) (k : Nat) : getLink (setPll b n r) k = getLink b k := rfl
@[simp] theorem getCore_setPll (b : Block) (n : Nat) (r : Pll) (k : Nat) : getCore (setPll b n r) k = getCore b k := rfl
@[simp] theorem getPslot_setPll (b : Block) (n : Nat) (r : Pll) (k : Nat) : getPslot (setPll b n r) k = getPslot b k := rfl
@[simp] theorem getPort_setPll (b : Block) (n : Nat) (r : Pll) (k : Nat) : getPort (setPll b n r) k = getPort b k := rfl
@[simp] theorem getHop_setPll (b : Block) (n : Nat) (r : Pll) (k : Nat) : getHop (setPll b n r) k = getHop b k := rfl
@[simp] theorem getRing_setPll (b : Block) (n : Nat) (r : Pll) (k : Nat) : getRing (setPll b n r) k = getRing b k := rfl
@[simp] theorem getChan_setPll (b : Block) (n : Nat) (r : Pll) (k : Nat) : getChan (setPll b n r) k = getChan b k := rfl
@[simp] theorem getDom_setPll (b : Block) (n : Nat) (r : Pll) (k : Nat) : getDom (setPll b n r) k = getDom b k := rfl
@[simp] theorem getEntry_setPll (b : Block) (n : Nat) (r : Pll) (k : Nat) : getEntry (setPll b n r) k = getEntry b k := rfl
@[simp] theorem getRef_setPll (b : Block) (n : Nat) (r : Pll) (k : Nat) : getRef (setPll b n r) k = getRef b k := rfl
@[simp] theorem getDdr_setPll (b : Block) (n : Nat) (r : Pll) (k : Nat) : getDdr (setPll b n r) k = getDdr b k := rfl
@[simp] theorem getPf_setPll (b : Block) (n : Nat) (r : Pll) (k : Nat) : getPf (setPll b n r) k = getPf b k := rfl
@[simp] theorem getDrive_setPll (b : Block) (n : Nat) (r : Pll) (k : Nat) : getDrive (setPll b n r) k = getDrive b k := rfl
@[simp] theorem getCr_setPll (b : Block) (n : Nat) (r : Pll) (q : Src) (k : Nat) : getCr (setPll b n r) q k = getCr b q k := rfl
@[simp] theorem getRoute_setPll (b : Block) (n : Nat) (r : Pll) (k : Route) : getRoute (setPll b n r) k = getRoute b k := rfl
@[simp] theorem nowNs_setPll (b : Block) (n : Nat) (r : Pll) : nowNs (setPll b n r) = nowNs b := rfl
@[simp] theorem ownPlace_setPll (b : Block) (n : Nat) (r : Pll) : ownPlace (setPll b n r) = ownPlace b := rfl
@[simp] theorem leafGet_setPll (b : Block) (n : Nat) (r : Pll) (x : Leaf) : leafGet (setPll b n r) x = leafGet b x := rfl
@[simp] theorem getTen_setRef (b : Block) (n : Nat) (r : RefClk) (k : Nat) : getTen (setRef b n r) k = getTen b k := rfl
@[simp] theorem getSlot_setRef (b : Block) (n : Nat) (r : RefClk) (k : Nat) : getSlot (setRef b n r) k = getSlot b k := rfl
@[simp] theorem getSn_setRef (b : Block) (n : Nat) (r : RefClk) (k : Nat) : getSn (setRef b n r) k = getSn b k := rfl
@[simp] theorem getLink_setRef (b : Block) (n : Nat) (r : RefClk) (k : Nat) : getLink (setRef b n r) k = getLink b k := rfl
@[simp] theorem getCore_setRef (b : Block) (n : Nat) (r : RefClk) (k : Nat) : getCore (setRef b n r) k = getCore b k := rfl
@[simp] theorem getPslot_setRef (b : Block) (n : Nat) (r : RefClk) (k : Nat) : getPslot (setRef b n r) k = getPslot b k := rfl
@[simp] theorem getPort_setRef (b : Block) (n : Nat) (r : RefClk) (k : Nat) : getPort (setRef b n r) k = getPort b k := rfl
@[simp] theorem getHop_setRef (b : Block) (n : Nat) (r : RefClk) (k : Nat) : getHop (setRef b n r) k = getHop b k := rfl
@[simp] theorem getRing_setRef (b : Block) (n : Nat) (r : RefClk) (k : Nat) : getRing (setRef b n r) k = getRing b k := rfl
@[simp] theorem getChan_setRef (b : Block) (n : Nat) (r : RefClk) (k : Nat) : getChan (setRef b n r) k = getChan b k := rfl
@[simp] theorem getDom_setRef (b : Block) (n : Nat) (r : RefClk) (k : Nat) : getDom (setRef b n r) k = getDom b k := rfl
@[simp] theorem getEntry_setRef (b : Block) (n : Nat) (r : RefClk) (k : Nat) : getEntry (setRef b n r) k = getEntry b k := rfl
@[simp] theorem getPll_setRef (b : Block) (n : Nat) (r : RefClk) (k : Nat) : getPll (setRef b n r) k = getPll b k := rfl
@[simp] theorem getDdr_setRef (b : Block) (n : Nat) (r : RefClk) (k : Nat) : getDdr (setRef b n r) k = getDdr b k := rfl
@[simp] theorem getPf_setRef (b : Block) (n : Nat) (r : RefClk) (k : Nat) : getPf (setRef b n r) k = getPf b k := rfl
@[simp] theorem getDrive_setRef (b : Block) (n : Nat) (r : RefClk) (k : Nat) : getDrive (setRef b n r) k = getDrive b k := rfl
@[simp] theorem getCr_setRef (b : Block) (n : Nat) (r : RefClk) (q : Src) (k : Nat) : getCr (setRef b n r) q k = getCr b q k := rfl
@[simp] theorem getRoute_setRef (b : Block) (n : Nat) (r : RefClk) (k : Route) : getRoute (setRef b n r) k = getRoute b k := rfl
@[simp] theorem nowNs_setRef (b : Block) (n : Nat) (r : RefClk) : nowNs (setRef b n r) = nowNs b := rfl
@[simp] theorem ownPlace_setRef (b : Block) (n : Nat) (r : RefClk) : ownPlace (setRef b n r) = ownPlace b := rfl
@[simp] theorem leafGet_setRef (b : Block) (n : Nat) (r : RefClk) (x : Leaf) : leafGet (setRef b n r) x = leafGet b x := rfl
@[simp] theorem getTen_setDdr (b : Block) (n : Nat) (r : DdrCh) (k : Nat) : getTen (setDdr b n r) k = getTen b k := rfl
@[simp] theorem getSlot_setDdr (b : Block) (n : Nat) (r : DdrCh) (k : Nat) : getSlot (setDdr b n r) k = getSlot b k := rfl
@[simp] theorem getSn_setDdr (b : Block) (n : Nat) (r : DdrCh) (k : Nat) : getSn (setDdr b n r) k = getSn b k := rfl
@[simp] theorem getLink_setDdr (b : Block) (n : Nat) (r : DdrCh) (k : Nat) : getLink (setDdr b n r) k = getLink b k := rfl
@[simp] theorem getCore_setDdr (b : Block) (n : Nat) (r : DdrCh) (k : Nat) : getCore (setDdr b n r) k = getCore b k := rfl
@[simp] theorem getPslot_setDdr (b : Block) (n : Nat) (r : DdrCh) (k : Nat) : getPslot (setDdr b n r) k = getPslot b k := rfl
@[simp] theorem getPort_setDdr (b : Block) (n : Nat) (r : DdrCh) (k : Nat) : getPort (setDdr b n r) k = getPort b k := rfl
@[simp] theorem getHop_setDdr (b : Block) (n : Nat) (r : DdrCh) (k : Nat) : getHop (setDdr b n r) k = getHop b k := rfl
@[simp] theorem getRing_setDdr (b : Block) (n : Nat) (r : DdrCh) (k : Nat) : getRing (setDdr b n r) k = getRing b k := rfl
@[simp] theorem getChan_setDdr (b : Block) (n : Nat) (r : DdrCh) (k : Nat) : getChan (setDdr b n r) k = getChan b k := rfl
@[simp] theorem getDom_setDdr (b : Block) (n : Nat) (r : DdrCh) (k : Nat) : getDom (setDdr b n r) k = getDom b k := rfl
@[simp] theorem getEntry_setDdr (b : Block) (n : Nat) (r : DdrCh) (k : Nat) : getEntry (setDdr b n r) k = getEntry b k := rfl
@[simp] theorem getPll_setDdr (b : Block) (n : Nat) (r : DdrCh) (k : Nat) : getPll (setDdr b n r) k = getPll b k := rfl
@[simp] theorem getRef_setDdr (b : Block) (n : Nat) (r : DdrCh) (k : Nat) : getRef (setDdr b n r) k = getRef b k := rfl
@[simp] theorem getPf_setDdr (b : Block) (n : Nat) (r : DdrCh) (k : Nat) : getPf (setDdr b n r) k = getPf b k := rfl
@[simp] theorem getDrive_setDdr (b : Block) (n : Nat) (r : DdrCh) (k : Nat) : getDrive (setDdr b n r) k = getDrive b k := rfl
@[simp] theorem getCr_setDdr (b : Block) (n : Nat) (r : DdrCh) (q : Src) (k : Nat) : getCr (setDdr b n r) q k = getCr b q k := rfl
@[simp] theorem getRoute_setDdr (b : Block) (n : Nat) (r : DdrCh) (k : Route) : getRoute (setDdr b n r) k = getRoute b k := rfl
@[simp] theorem nowNs_setDdr (b : Block) (n : Nat) (r : DdrCh) : nowNs (setDdr b n r) = nowNs b := rfl
@[simp] theorem ownPlace_setDdr (b : Block) (n : Nat) (r : DdrCh) : ownPlace (setDdr b n r) = ownPlace b := rfl
@[simp] theorem leafGet_setDdr (b : Block) (n : Nat) (r : DdrCh) (x : Leaf) : leafGet (setDdr b n r) x = leafGet b x := rfl
@[simp] theorem getTen_setPf (b : Block) (n : Nat) (r : PfRec) (k : Nat) : getTen (setPf b n r) k = getTen b k := rfl
@[simp] theorem getSlot_setPf (b : Block) (n : Nat) (r : PfRec) (k : Nat) : getSlot (setPf b n r) k = getSlot b k := rfl
@[simp] theorem getSn_setPf (b : Block) (n : Nat) (r : PfRec) (k : Nat) : getSn (setPf b n r) k = getSn b k := rfl
@[simp] theorem getLink_setPf (b : Block) (n : Nat) (r : PfRec) (k : Nat) : getLink (setPf b n r) k = getLink b k := rfl
@[simp] theorem getCore_setPf (b : Block) (n : Nat) (r : PfRec) (k : Nat) : getCore (setPf b n r) k = getCore b k := rfl
@[simp] theorem getPslot_setPf (b : Block) (n : Nat) (r : PfRec) (k : Nat) : getPslot (setPf b n r) k = getPslot b k := rfl
@[simp] theorem getPort_setPf (b : Block) (n : Nat) (r : PfRec) (k : Nat) : getPort (setPf b n r) k = getPort b k := rfl
@[simp] theorem getHop_setPf (b : Block) (n : Nat) (r : PfRec) (k : Nat) : getHop (setPf b n r) k = getHop b k := rfl
@[simp] theorem getRing_setPf (b : Block) (n : Nat) (r : PfRec) (k : Nat) : getRing (setPf b n r) k = getRing b k := rfl
@[simp] theorem getChan_setPf (b : Block) (n : Nat) (r : PfRec) (k : Nat) : getChan (setPf b n r) k = getChan b k := rfl
@[simp] theorem getDom_setPf (b : Block) (n : Nat) (r : PfRec) (k : Nat) : getDom (setPf b n r) k = getDom b k := rfl
@[simp] theorem getEntry_setPf (b : Block) (n : Nat) (r : PfRec) (k : Nat) : getEntry (setPf b n r) k = getEntry b k := rfl
@[simp] theorem getPll_setPf (b : Block) (n : Nat) (r : PfRec) (k : Nat) : getPll (setPf b n r) k = getPll b k := rfl
@[simp] theorem getRef_setPf (b : Block) (n : Nat) (r : PfRec) (k : Nat) : getRef (setPf b n r) k = getRef b k := rfl
@[simp] theorem getDdr_setPf (b : Block) (n : Nat) (r : PfRec) (k : Nat) : getDdr (setPf b n r) k = getDdr b k := rfl
@[simp] theorem getDrive_setPf (b : Block) (n : Nat) (r : PfRec) (k : Nat) : getDrive (setPf b n r) k = getDrive b k := rfl
@[simp] theorem getCr_setPf (b : Block) (n : Nat) (r : PfRec) (q : Src) (k : Nat) : getCr (setPf b n r) q k = getCr b q k := rfl
@[simp] theorem getRoute_setPf (b : Block) (n : Nat) (r : PfRec) (k : Route) : getRoute (setPf b n r) k = getRoute b k := rfl
@[simp] theorem nowNs_setPf (b : Block) (n : Nat) (r : PfRec) : nowNs (setPf b n r) = nowNs b := rfl
@[simp] theorem ownPlace_setPf (b : Block) (n : Nat) (r : PfRec) : ownPlace (setPf b n r) = ownPlace b := rfl
@[simp] theorem leafGet_setPf (b : Block) (n : Nat) (r : PfRec) (x : Leaf) : leafGet (setPf b n r) x = leafGet b x := rfl
@[simp] theorem getTen_setDrive (b : Block) (n : Nat) (r : Nvme) (k : Nat) : getTen (setDrive b n r) k = getTen b k := rfl
@[simp] theorem getSlot_setDrive (b : Block) (n : Nat) (r : Nvme) (k : Nat) : getSlot (setDrive b n r) k = getSlot b k := rfl
@[simp] theorem getSn_setDrive (b : Block) (n : Nat) (r : Nvme) (k : Nat) : getSn (setDrive b n r) k = getSn b k := rfl
@[simp] theorem getLink_setDrive (b : Block) (n : Nat) (r : Nvme) (k : Nat) : getLink (setDrive b n r) k = getLink b k := rfl
@[simp] theorem getCore_setDrive (b : Block) (n : Nat) (r : Nvme) (k : Nat) : getCore (setDrive b n r) k = getCore b k := rfl
@[simp] theorem getPslot_setDrive (b : Block) (n : Nat) (r : Nvme) (k : Nat) : getPslot (setDrive b n r) k = getPslot b k := rfl
@[simp] theorem getPort_setDrive (b : Block) (n : Nat) (r : Nvme) (k : Nat) : getPort (setDrive b n r) k = getPort b k := rfl
@[simp] theorem getHop_setDrive (b : Block) (n : Nat) (r : Nvme) (k : Nat) : getHop (setDrive b n r) k = getHop b k := rfl
@[simp] theorem getRing_setDrive (b : Block) (n : Nat) (r : Nvme) (k : Nat) : getRing (setDrive b n r) k = getRing b k := rfl
@[simp] theorem getChan_setDrive (b : Block) (n : Nat) (r : Nvme) (k : Nat) : getChan (setDrive b n r) k = getChan b k := rfl
@[simp] theorem getDom_setDrive (b : Block) (n : Nat) (r : Nvme) (k : Nat) : getDom (setDrive b n r) k = getDom b k := rfl
@[simp] theorem getEntry_setDrive (b : Block) (n : Nat) (r : Nvme) (k : Nat) : getEntry (setDrive b n r) k = getEntry b k := rfl
@[simp] theorem getPll_setDrive (b : Block) (n : Nat) (r : Nvme) (k : Nat) : getPll (setDrive b n r) k = getPll b k := rfl
@[simp] theorem getRef_setDrive (b : Block) (n : Nat) (r : Nvme) (k : Nat) : getRef (setDrive b n r) k = getRef b k := rfl
@[simp] theorem getDdr_setDrive (b : Block) (n : Nat) (r : Nvme) (k : Nat) : getDdr (setDrive b n r) k = getDdr b k := rfl
@[simp] theorem getPf_setDrive (b : Block) (n : Nat) (r : Nvme) (k : Nat) : getPf (setDrive b n r) k = getPf b k := rfl
@[simp] theorem getCr_setDrive (b : Block) (n : Nat) (r : Nvme) (q : Src) (k : Nat) : getCr (setDrive b n r) q k = getCr b q k := rfl
@[simp] theorem getRoute_setDrive (b : Block) (n : Nat) (r : Nvme) (k : Route) : getRoute (setDrive b n r) k = getRoute b k := rfl
@[simp] theorem nowNs_setDrive (b : Block) (n : Nat) (r : Nvme) : nowNs (setDrive b n r) = nowNs b := rfl
@[simp] theorem ownPlace_setDrive (b : Block) (n : Nat) (r : Nvme) : ownPlace (setDrive b n r) = ownPlace b := rfl
@[simp] theorem leafGet_setDrive (b : Block) (n : Nat) (r : Nvme) (x : Leaf) : leafGet (setDrive b n r) x = leafGet b x := rfl
@[simp] theorem getTen_setCr (b : Block) (s : Src) (n : Nat) (r : CRing) (k : Nat) : getTen (setCr b s n r) k = getTen b k := rfl
@[simp] theorem getSlot_setCr (b : Block) (s : Src) (n : Nat) (r : CRing) (k : Nat) : getSlot (setCr b s n r) k = getSlot b k := rfl
@[simp] theorem getSn_setCr (b : Block) (s : Src) (n : Nat) (r : CRing) (k : Nat) : getSn (setCr b s n r) k = getSn b k := rfl
@[simp] theorem getLink_setCr (b : Block) (s : Src) (n : Nat) (r : CRing) (k : Nat) : getLink (setCr b s n r) k = getLink b k := rfl
@[simp] theorem getCore_setCr (b : Block) (s : Src) (n : Nat) (r : CRing) (k : Nat) : getCore (setCr b s n r) k = getCore b k := rfl
@[simp] theorem getPslot_setCr (b : Block) (s : Src) (n : Nat) (r : CRing) (k : Nat) : getPslot (setCr b s n r) k = getPslot b k := rfl
@[simp] theorem getPort_setCr (b : Block) (s : Src) (n : Nat) (r : CRing) (k : Nat) : getPort (setCr b s n r) k = getPort b k := rfl
@[simp] theorem getHop_setCr (b : Block) (s : Src) (n : Nat) (r : CRing) (k : Nat) : getHop (setCr b s n r) k = getHop b k := rfl
@[simp] theorem getRing_setCr (b : Block) (s : Src) (n : Nat) (r : CRing) (k : Nat) : getRing (setCr b s n r) k = getRing b k := rfl
@[simp] theorem getChan_setCr (b : Block) (s : Src) (n : Nat) (r : CRing) (k : Nat) : getChan (setCr b s n r) k = getChan b k := rfl
@[simp] theorem getDom_setCr (b : Block) (s : Src) (n : Nat) (r : CRing) (k : Nat) : getDom (setCr b s n r) k = getDom b k := rfl
@[simp] theorem getEntry_setCr (b : Block) (s : Src) (n : Nat) (r : CRing) (k : Nat) : getEntry (setCr b s n r) k = getEntry b k := rfl
@[simp] theorem getPll_setCr (b : Block) (s : Src) (n : Nat) (r : CRing) (k : Nat) : getPll (setCr b s n r) k = getPll b k := rfl
@[simp] theorem getRef_setCr (b : Block) (s : Src) (n : Nat) (r : CRing) (k : Nat) : getRef (setCr b s n r) k = getRef b k := rfl
@[simp] theorem getDdr_setCr (b : Block) (s : Src) (n : Nat) (r : CRing) (k : Nat) : getDdr (setCr b s n r) k = getDdr b k := rfl
@[simp] theorem getPf_setCr (b : Block) (s : Src) (n : Nat) (r : CRing) (k : Nat) : getPf (setCr b s n r) k = getPf b k := rfl
@[simp] theorem getDrive_setCr (b : Block) (s : Src) (n : Nat) (r : CRing) (k : Nat) : getDrive (setCr b s n r) k = getDrive b k := rfl
@[simp] theorem getRoute_setCr (b : Block) (s : Src) (n : Nat) (r : CRing) (k : Route) : getRoute (setCr b s n r) k = getRoute b k := rfl
@[simp] theorem nowNs_setCr (b : Block) (s : Src) (n : Nat) (r : CRing) : nowNs (setCr b s n r) = nowNs b := rfl
@[simp] theorem ownPlace_setCr (b : Block) (s : Src) (n : Nat) (r : CRing) : ownPlace (setCr b s n r) = ownPlace b := rfl
@[simp] theorem leafGet_setCr (b : Block) (s : Src) (n : Nat) (r : CRing) (x : Leaf) : leafGet (setCr b s n r) x = leafGet b x := rfl
@[simp] theorem getTen_setRoute (b : Block) (n : Route) (r : KtRoute) (k : Nat) : getTen (setRoute b n r) k = getTen b k := rfl
@[simp] theorem getSlot_setRoute (b : Block) (n : Route) (r : KtRoute) (k : Nat) : getSlot (setRoute b n r) k = getSlot b k := rfl
@[simp] theorem getSn_setRoute (b : Block) (n : Route) (r : KtRoute) (k : Nat) : getSn (setRoute b n r) k = getSn b k := rfl
@[simp] theorem getLink_setRoute (b : Block) (n : Route) (r : KtRoute) (k : Nat) : getLink (setRoute b n r) k = getLink b k := rfl
@[simp] theorem getCore_setRoute (b : Block) (n : Route) (r : KtRoute) (k : Nat) : getCore (setRoute b n r) k = getCore b k := rfl
@[simp] theorem getPslot_setRoute (b : Block) (n : Route) (r : KtRoute) (k : Nat) : getPslot (setRoute b n r) k = getPslot b k := rfl
@[simp] theorem getPort_setRoute (b : Block) (n : Route) (r : KtRoute) (k : Nat) : getPort (setRoute b n r) k = getPort b k := rfl
@[simp] theorem getHop_setRoute (b : Block) (n : Route) (r : KtRoute) (k : Nat) : getHop (setRoute b n r) k = getHop b k := rfl
@[simp] theorem getRing_setRoute (b : Block) (n : Route) (r : KtRoute) (k : Nat) : getRing (setRoute b n r) k = getRing b k := rfl
@[simp] theorem getChan_setRoute (b : Block) (n : Route) (r : KtRoute) (k : Nat) : getChan (setRoute b n r) k = getChan b k := rfl
@[simp] theorem getDom_setRoute (b : Block) (n : Route) (r : KtRoute) (k : Nat) : getDom (setRoute b n r) k = getDom b k := rfl
@[simp] theorem getEntry_setRoute (b : Block) (n : Route) (r : KtRoute) (k : Nat) : getEntry (setRoute b n r) k = getEntry b k := rfl
@[simp] theorem getPll_setRoute (b : Block) (n : Route) (r : KtRoute) (k : Nat) : getPll (setRoute b n r) k = getPll b k := rfl
@[simp] theorem getRef_setRoute (b : Block) (n : Route) (r : KtRoute) (k : Nat) : getRef (setRoute b n r) k = getRef b k := rfl
@[simp] theorem getDdr_setRoute (b : Block) (n : Route) (r : KtRoute) (k : Nat) : getDdr (setRoute b n r) k = getDdr b k := rfl
@[simp] theorem getPf_setRoute (b : Block) (n : Route) (r : KtRoute) (k : Nat) : getPf (setRoute b n r) k = getPf b k := rfl
@[simp] theorem getDrive_setRoute (b : Block) (n : Route) (r : KtRoute) (k : Nat) : getDrive (setRoute b n r) k = getDrive b k := rfl
@[simp] theorem getCr_setRoute (b : Block) (n : Route) (r : KtRoute) (q : Src) (k : Nat) : getCr (setRoute b n r) q k = getCr b q k := rfl
@[simp] theorem nowNs_setRoute (b : Block) (n : Route) (r : KtRoute) : nowNs (setRoute b n r) = nowNs b := rfl
@[simp] theorem ownPlace_setRoute (b : Block) (n : Route) (r : KtRoute) : ownPlace (setRoute b n r) = ownPlace b := rfl
@[simp] theorem leafGet_setRoute (b : Block) (n : Route) (r : KtRoute) (x : Leaf) : leafGet (setRoute b n r) x = leafGet b x := rfl
@[simp] theorem getTen_emit (b : Block) (o : Out) (k : Nat) : getTen (emit b o) k = getTen b k := rfl
@[simp] theorem getSlot_emit (b : Block) (o : Out) (k : Nat) : getSlot (emit b o) k = getSlot b k := rfl
@[simp] theorem getSn_emit (b : Block) (o : Out) (k : Nat) : getSn (emit b o) k = getSn b k := rfl
@[simp] theorem getLink_emit (b : Block) (o : Out) (k : Nat) : getLink (emit b o) k = getLink b k := rfl
@[simp] theorem getCore_emit (b : Block) (o : Out) (k : Nat) : getCore (emit b o) k = getCore b k := rfl
@[simp] theorem getPslot_emit (b : Block) (o : Out) (k : Nat) : getPslot (emit b o) k = getPslot b k := rfl
@[simp] theorem getPort_emit (b : Block) (o : Out) (k : Nat) : getPort (emit b o) k = getPort b k := rfl
@[simp] theorem getHop_emit (b : Block) (o : Out) (k : Nat) : getHop (emit b o) k = getHop b k := rfl
@[simp] theorem getRing_emit (b : Block) (o : Out) (k : Nat) : getRing (emit b o) k = getRing b k := rfl
@[simp] theorem getChan_emit (b : Block) (o : Out) (k : Nat) : getChan (emit b o) k = getChan b k := rfl
@[simp] theorem getDom_emit (b : Block) (o : Out) (k : Nat) : getDom (emit b o) k = getDom b k := rfl
@[simp] theorem getEntry_emit (b : Block) (o : Out) (k : Nat) : getEntry (emit b o) k = getEntry b k := rfl
@[simp] theorem getPll_emit (b : Block) (o : Out) (k : Nat) : getPll (emit b o) k = getPll b k := rfl
@[simp] theorem getRef_emit (b : Block) (o : Out) (k : Nat) : getRef (emit b o) k = getRef b k := rfl
@[simp] theorem getDdr_emit (b : Block) (o : Out) (k : Nat) : getDdr (emit b o) k = getDdr b k := rfl
@[simp] theorem getPf_emit (b : Block) (o : Out) (k : Nat) : getPf (emit b o) k = getPf b k := rfl
@[simp] theorem getDrive_emit (b : Block) (o : Out) (k : Nat) : getDrive (emit b o) k = getDrive b k := rfl
@[simp] theorem getCr_emit (b : Block) (o : Out) (q : Src) (k : Nat) : getCr (emit b o) q k = getCr b q k := rfl
@[simp] theorem getRoute_emit (b : Block) (o : Out) (k : Route) : getRoute (emit b o) k = getRoute b k := rfl
@[simp] theorem nowNs_emit (b : Block) (o : Out) : nowNs (emit b o) = nowNs b := rfl
@[simp] theorem ownPlace_emit (b : Block) (o : Out) : ownPlace (emit b o) = ownPlace b := rfl
@[simp] theorem leafGet_emit (b : Block) (o : Out) (x : Leaf) : leafGet (emit b o) x = leafGet b x := rfl
@[simp] theorem getTen_emits (b : Block) (l : List Out) (k : Nat) : getTen (emits b l) k = getTen b k := rfl
@[simp] theorem getSlot_emits (b : Block) (l : List Out) (k : Nat) : getSlot (emits b l) k = getSlot b k := rfl
@[simp] theorem getSn_emits (b : Block) (l : List Out) (k : Nat) : getSn (emits b l) k = getSn b k := rfl
@[simp] theorem getLink_emits (b : Block) (l : List Out) (k : Nat) : getLink (emits b l) k = getLink b k := rfl
@[simp] theorem getCore_emits (b : Block) (l : List Out) (k : Nat) : getCore (emits b l) k = getCore b k := rfl
@[simp] theorem getPslot_emits (b : Block) (l : List Out) (k : Nat) : getPslot (emits b l) k = getPslot b k := rfl
@[simp] theorem getPort_emits (b : Block) (l : List Out) (k : Nat) : getPort (emits b l) k = getPort b k := rfl
@[simp] theorem getHop_emits (b : Block) (l : List Out) (k : Nat) : getHop (emits b l) k = getHop b k := rfl
@[simp] theorem getRing_emits (b : Block) (l : List Out) (k : Nat) : getRing (emits b l) k = getRing b k := rfl
@[simp] theorem getChan_emits (b : Block) (l : List Out) (k : Nat) : getChan (emits b l) k = getChan b k := rfl
@[simp] theorem getDom_emits (b : Block) (l : List Out) (k : Nat) : getDom (emits b l) k = getDom b k := rfl
@[simp] theorem getEntry_emits (b : Block) (l : List Out) (k : Nat) : getEntry (emits b l) k = getEntry b k := rfl
@[simp] theorem getPll_emits (b : Block) (l : List Out) (k : Nat) : getPll (emits b l) k = getPll b k := rfl
@[simp] theorem getRef_emits (b : Block) (l : List Out) (k : Nat) : getRef (emits b l) k = getRef b k := rfl
@[simp] theorem getDdr_emits (b : Block) (l : List Out) (k : Nat) : getDdr (emits b l) k = getDdr b k := rfl
@[simp] theorem getPf_emits (b : Block) (l : List Out) (k : Nat) : getPf (emits b l) k = getPf b k := rfl
@[simp] theorem getDrive_emits (b : Block) (l : List Out) (k : Nat) : getDrive (emits b l) k = getDrive b k := rfl
@[simp] theorem getCr_emits (b : Block) (l : List Out) (q : Src) (k : Nat) : getCr (emits b l) q k = getCr b q k := rfl
@[simp] theorem getRoute_emits (b : Block) (l : List Out) (k : Route) : getRoute (emits b l) k = getRoute b k := rfl
@[simp] theorem nowNs_emits (b : Block) (l : List Out) : nowNs (emits b l) = nowNs b := rfl
@[simp] theorem ownPlace_emits (b : Block) (l : List Out) : ownPlace (emits b l) = ownPlace b := rfl
@[simp] theorem leafGet_emits (b : Block) (l : List Out) (x : Leaf) : leafGet (emits b l) x = leafGet b x := rfl
@[simp] theorem getTen_takeFree (b : Block) (k : Nat) : getTen (takeFree b) k = getTen b k := rfl
@[simp] theorem getSlot_takeFree (b : Block) (k : Nat) : getSlot (takeFree b) k = getSlot b k := rfl
@[simp] theorem getSn_takeFree (b : Block) (k : Nat) : getSn (takeFree b) k = getSn b k := rfl
@[simp] theorem getLink_takeFree (b : Block) (k : Nat) : getLink (takeFree b) k = getLink b k := rfl
@[simp] theorem getPslot_takeFree (b : Block) (k : Nat) : getPslot (takeFree b) k = getPslot b k := rfl
@[simp] theorem getPort_takeFree (b : Block) (k : Nat) : getPort (takeFree b) k = getPort b k := rfl
@[simp] theorem getHop_takeFree (b : Block) (k : Nat) : getHop (takeFree b) k = getHop b k := rfl
@[simp] theorem getRing_takeFree (b : Block) (k : Nat) : getRing (takeFree b) k = getRing b k := rfl
@[simp] theorem getChan_takeFree (b : Block) (k : Nat) : getChan (takeFree b) k = getChan b k := rfl
@[simp] theorem getDom_takeFree (b : Block) (k : Nat) : getDom (takeFree b) k = getDom b k := rfl
@[simp] theorem getEntry_takeFree (b : Block) (k : Nat) : getEntry (takeFree b) k = getEntry b k := rfl
@[simp] theorem getPll_takeFree (b : Block) (k : Nat) : getPll (takeFree b) k = getPll b k := rfl
@[simp] theorem getRef_takeFree (b : Block) (k : Nat) : getRef (takeFree b) k = getRef b k := rfl
@[simp] theorem getDdr_takeFree (b : Block) (k : Nat) : getDdr (takeFree b) k = getDdr b k := rfl
@[simp] theorem getPf_takeFree (b : Block) (k : Nat) : getPf (takeFree b) k = getPf b k := rfl
@[simp] theorem getDrive_takeFree (b : Block) (k : Nat) : getDrive (takeFree b) k = getDrive b k := rfl
@[simp] theorem getCr_takeFree (b : Block) (q : Src) (k : Nat) : getCr (takeFree b) q k = getCr b q k := rfl
@[simp] theorem getRoute_takeFree (b : Block) (k : Route) : getRoute (takeFree b) k = getRoute b k := rfl
@[simp] theorem nowNs_takeFree (b : Block) : nowNs (takeFree b) = nowNs b := rfl
@[simp] theorem ownPlace_takeFree (b : Block) : ownPlace (takeFree b) = ownPlace b := rfl
@[simp] theorem leafGet_takeFree (b : Block) (x : Leaf) : leafGet (takeFree b) x = leafGet b x := rfl
@[simp] theorem getTen_count (b : Block) (i n : Nat) (k : Nat) : getTen (count b i n) k = getTen b k := rfl
@[simp] theorem getSlot_count (b : Block) (i n : Nat) (k : Nat) : getSlot (count b i n) k = getSlot b k := rfl
@[simp] theorem getSn_count (b : Block) (i n : Nat) (k : Nat) : getSn (count b i n) k = getSn b k := rfl
@[simp] theorem getLink_count (b : Block) (i n : Nat) (k : Nat) : getLink (count b i n) k = getLink b k := rfl
@[simp] theorem getPslot_count (b : Block) (i n : Nat) (k : Nat) : getPslot (count b i n) k = getPslot b k := rfl
@[simp] theorem getPort_count (b : Block) (i n : Nat) (k : Nat) : getPort (count b i n) k = getPort b k := rfl
@[simp] theorem getHop_count (b : Block) (i n : Nat) (k : Nat) : getHop (count b i n) k = getHop b k := rfl
@[simp] theorem getRing_count (b : Block) (i n : Nat) (k : Nat) : getRing (count b i n) k = getRing b k := rfl
@[simp] theorem getChan_count (b : Block) (i n : Nat) (k : Nat) : getChan (count b i n) k = getChan b k := rfl
@[simp] theorem getDom_count (b : Block) (i n : Nat) (k : Nat) : getDom (count b i n) k = getDom b k := rfl
@[simp] theorem getEntry_count (b : Block) (i n : Nat) (k : Nat) : getEntry (count b i n) k = getEntry b k := rfl
@[simp] theorem getPll_count (b : Block) (i n : Nat) (k : Nat) : getPll (count b i n) k = getPll b k := rfl
@[simp] theorem getRef_count (b : Block) (i n : Nat) (k : Nat) : getRef (count b i n) k = getRef b k := rfl
@[simp] theorem getDdr_count (b : Block) (i n : Nat) (k : Nat) : getDdr (count b i n) k = getDdr b k := rfl
@[simp] theorem getPf_count (b : Block) (i n : Nat) (k : Nat) : getPf (count b i n) k = getPf b k := rfl
@[simp] theorem getDrive_count (b : Block) (i n : Nat) (k : Nat) : getDrive (count b i n) k = getDrive b k := rfl
@[simp] theorem getCr_count (b : Block) (i n : Nat) (q : Src) (k : Nat) : getCr (count b i n) q k = getCr b q k := rfl
@[simp] theorem getRoute_count (b : Block) (i n : Nat) (k : Route) : getRoute (count b i n) k = getRoute b k := rfl
@[simp] theorem nowNs_count (b : Block) (i n : Nat) : nowNs (count b i n) = nowNs b := rfl
@[simp] theorem ownPlace_count (b : Block) (i n : Nat) : ownPlace (count b i n) = ownPlace b := rfl
@[simp] theorem leafGet_count (b : Block) (i n : Nat) (x : Leaf) : leafGet (count b i n) x = leafGet b x := rfl
@[simp] theorem getTen_zeroCounters (b : Block) (i n : Nat) (k : Nat) : getTen (zeroCounters b i n) k = getTen b k := rfl
@[simp] theorem getSlot_zeroCounters (b : Block) (i n : Nat) (k : Nat) : getSlot (zeroCounters b i n) k = getSlot b k := rfl
@[simp] theorem getSn_zeroCounters (b : Block) (i n : Nat) (k : Nat) : getSn (zeroCounters b i n) k = getSn b k := rfl
@[simp] theorem getLink_zeroCounters (b : Block) (i n : Nat) (k : Nat) : getLink (zeroCounters b i n) k = getLink b k := rfl
@[simp] theorem getCore_zeroCounters (b : Block) (i n : Nat) (k : Nat) : getCore (zeroCounters b i n) k = getCore b k := rfl
@[simp] theorem getPslot_zeroCounters (b : Block) (i n : Nat) (k : Nat) : getPslot (zeroCounters b i n) k = getPslot b k := rfl
@[simp] theorem getPort_zeroCounters (b : Block) (i n : Nat) (k : Nat) : getPort (zeroCounters b i n) k = getPort b k := rfl
@[simp] theorem getHop_zeroCounters (b : Block) (i n : Nat) (k : Nat) : getHop (zeroCounters b i n) k = getHop b k := rfl
@[simp] theorem getRing_zeroCounters (b : Block) (i n : Nat) (k : Nat) : getRing (zeroCounters b i n) k = getRing b k := rfl
@[simp] theorem getChan_zeroCounters (b : Block) (i n : Nat) (k : Nat) : getChan (zeroCounters b i n) k = getChan b k := rfl
@[simp] theorem getDom_zeroCounters (b : Block) (i n : Nat) (k : Nat) : getDom (zeroCounters b i n) k = getDom b k := rfl
@[simp] theorem getEntry_zeroCounters (b : Block) (i n : Nat) (k : Nat) : getEntry (zeroCounters b i n) k = getEntry b k := rfl
@[simp] theorem getPll_zeroCounters (b : Block) (i n : Nat) (k : Nat) : getPll (zeroCounters b i n) k = getPll b k := rfl
@[simp] theorem getRef_zeroCounters (b : Block) (i n : Nat) (k : Nat) : getRef (zeroCounters b i n) k = getRef b k := rfl
@[simp] theorem getDdr_zeroCounters (b : Block) (i n : Nat) (k : Nat) : getDdr (zeroCounters b i n) k = getDdr b k := rfl
@[simp] theorem getPf_zeroCounters (b : Block) (i n : Nat) (k : Nat) : getPf (zeroCounters b i n) k = getPf b k := rfl
@[simp] theorem getDrive_zeroCounters (b : Block) (i n : Nat) (k : Nat) : getDrive (zeroCounters b i n) k = getDrive b k := rfl
@[simp] theorem getCr_zeroCounters (b : Block) (i n : Nat) (q : Src) (k : Nat) : getCr (zeroCounters b i n) q k = getCr b q k := rfl
@[simp] theorem getRoute_zeroCounters (b : Block) (i n : Nat) (k : Route) : getRoute (zeroCounters b i n) k = getRoute b k := rfl
@[simp] theorem nowNs_zeroCounters (b : Block) (i n : Nat) : nowNs (zeroCounters b i n) = nowNs b := rfl
@[simp] theorem ownPlace_zeroCounters (b : Block) (i n : Nat) : ownPlace (zeroCounters b i n) = ownPlace b := rfl
@[simp] theorem leafGet_zeroCounters (b : Block) (i n : Nat) (x : Leaf) : leafGet (zeroCounters b i n) x = leafGet b x := rfl
@[simp] theorem getTen_leafSet (b : Block) (l : Leaf) (i : Nat) (k : Nat) : getTen (leafSet b l i) k = getTen b k := rfl
@[simp] theorem getSlot_leafSet (b : Block) (l : Leaf) (i : Nat) (k : Nat) : getSlot (leafSet b l i) k = getSlot b k := rfl
@[simp] theorem getSn_leafSet (b : Block) (l : Leaf) (i : Nat) (k : Nat) : getSn (leafSet b l i) k = getSn b k := rfl
@[simp] theorem getLink_leafSet (b : Block) (l : Leaf) (i : Nat) (k : Nat) : getLink (leafSet b l i) k = getLink b k := rfl
@[simp] theorem getCore_leafSet (b : Block) (l : Leaf) (i : Nat) (k : Nat) : getCore (leafSet b l i) k = getCore b k := rfl
@[simp] theorem getPslot_leafSet (b : Block) (l : Leaf) (i : Nat) (k : Nat) : getPslot (leafSet b l i) k = getPslot b k := rfl
@[simp] theorem getPort_leafSet (b : Block) (l : Leaf) (i : Nat) (k : Nat) : getPort (leafSet b l i) k = getPort b k := rfl
@[simp] theorem getHop_leafSet (b : Block) (l : Leaf) (i : Nat) (k : Nat) : getHop (leafSet b l i) k = getHop b k := rfl
@[simp] theorem getRing_leafSet (b : Block) (l : Leaf) (i : Nat) (k : Nat) : getRing (leafSet b l i) k = getRing b k := rfl
@[simp] theorem getChan_leafSet (b : Block) (l : Leaf) (i : Nat) (k : Nat) : getChan (leafSet b l i) k = getChan b k := rfl
@[simp] theorem getDom_leafSet (b : Block) (l : Leaf) (i : Nat) (k : Nat) : getDom (leafSet b l i) k = getDom b k := rfl
@[simp] theorem getEntry_leafSet (b : Block) (l : Leaf) (i : Nat) (k : Nat) : getEntry (leafSet b l i) k = getEntry b k := rfl
@[simp] theorem getPll_leafSet (b : Block) (l : Leaf) (i : Nat) (k : Nat) : getPll (leafSet b l i) k = getPll b k := rfl
@[simp] theorem getRef_leafSet (b : Block) (l : Leaf) (i : Nat) (k : Nat) : getRef (leafSet b l i) k = getRef b k := rfl
@[simp] theorem getDdr_leafSet (b : Block) (l : Leaf) (i : Nat) (k : Nat) : getDdr (leafSet b l i) k = getDdr b k := rfl
@[simp] theorem getPf_leafSet (b : Block) (l : Leaf) (i : Nat) (k : Nat) : getPf (leafSet b l i) k = getPf b k := rfl
@[simp] theorem getDrive_leafSet (b : Block) (l : Leaf) (i : Nat) (k : Nat) : getDrive (leafSet b l i) k = getDrive b k := rfl
@[simp] theorem getCr_leafSet (b : Block) (l : Leaf) (i : Nat) (q : Src) (k : Nat) : getCr (leafSet b l i) q k = getCr b q k := rfl
@[simp] theorem getRoute_leafSet (b : Block) (l : Leaf) (i : Nat) (k : Route) : getRoute (leafSet b l i) k = getRoute b k := rfl
@[simp] theorem nowNs_leafSet (b : Block) (l : Leaf) (i : Nat) : nowNs (leafSet b l i) = nowNs b := rfl
@[simp] theorem ownPlace_leafSet (b : Block) (l : Leaf) (i : Nat) : ownPlace (leafSet b l i) = ownPlace b := rfl
@[simp] theorem getTen_clearLeaf (b : Block) (l : Leaf) (v : W32) (k : Nat) : getTen (clearLeaf b l v) k = getTen b k := rfl
@[simp] theorem getSlot_clearLeaf (b : Block) (l : Leaf) (v : W32) (k : Nat) : getSlot (clearLeaf b l v) k = getSlot b k := rfl
@[simp] theorem getSn_clearLeaf (b : Block) (l : Leaf) (v : W32) (k : Nat) : getSn (clearLeaf b l v) k = getSn b k := rfl
@[simp] theorem getLink_clearLeaf (b : Block) (l : Leaf) (v : W32) (k : Nat) : getLink (clearLeaf b l v) k = getLink b k := rfl
@[simp] theorem getCore_clearLeaf (b : Block) (l : Leaf) (v : W32) (k : Nat) : getCore (clearLeaf b l v) k = getCore b k := rfl
@[simp] theorem getPslot_clearLeaf (b : Block) (l : Leaf) (v : W32) (k : Nat) : getPslot (clearLeaf b l v) k = getPslot b k := rfl
@[simp] theorem getPort_clearLeaf (b : Block) (l : Leaf) (v : W32) (k : Nat) : getPort (clearLeaf b l v) k = getPort b k := rfl
@[simp] theorem getHop_clearLeaf (b : Block) (l : Leaf) (v : W32) (k : Nat) : getHop (clearLeaf b l v) k = getHop b k := rfl
@[simp] theorem getRing_clearLeaf (b : Block) (l : Leaf) (v : W32) (k : Nat) : getRing (clearLeaf b l v) k = getRing b k := rfl
@[simp] theorem getChan_clearLeaf (b : Block) (l : Leaf) (v : W32) (k : Nat) : getChan (clearLeaf b l v) k = getChan b k := rfl
@[simp] theorem getDom_clearLeaf (b : Block) (l : Leaf) (v : W32) (k : Nat) : getDom (clearLeaf b l v) k = getDom b k := rfl
@[simp] theorem getEntry_clearLeaf (b : Block) (l : Leaf) (v : W32) (k : Nat) : getEntry (clearLeaf b l v) k = getEntry b k := rfl
@[simp] theorem getPll_clearLeaf (b : Block) (l : Leaf) (v : W32) (k : Nat) : getPll (clearLeaf b l v) k = getPll b k := rfl
@[simp] theorem getRef_clearLeaf (b : Block) (l : Leaf) (v : W32) (k : Nat) : getRef (clearLeaf b l v) k = getRef b k := rfl
@[simp] theorem getDdr_clearLeaf (b : Block) (l : Leaf) (v : W32) (k : Nat) : getDdr (clearLeaf b l v) k = getDdr b k := rfl
@[simp] theorem getPf_clearLeaf (b : Block) (l : Leaf) (v : W32) (k : Nat) : getPf (clearLeaf b l v) k = getPf b k := rfl
@[simp] theorem getDrive_clearLeaf (b : Block) (l : Leaf) (v : W32) (k : Nat) : getDrive (clearLeaf b l v) k = getDrive b k := rfl
@[simp] theorem getCr_clearLeaf (b : Block) (l : Leaf) (v : W32) (q : Src) (k : Nat) : getCr (clearLeaf b l v) q k = getCr b q k := rfl
@[simp] theorem getRoute_clearLeaf (b : Block) (l : Leaf) (v : W32) (k : Route) : getRoute (clearLeaf b l v) k = getRoute b k := rfl
@[simp] theorem nowNs_clearLeaf (b : Block) (l : Leaf) (v : W32) : nowNs (clearLeaf b l v) = nowNs b := rfl
@[simp] theorem ownPlace_clearLeaf (b : Block) (l : Leaf) (v : W32) : ownPlace (clearLeaf b l v) = ownPlace b := rfl

end Sys2Proof.Machine
end

