-- ==== Sys2Proof/Laws/Ops.lean ====
section
/-!
SUPPORT. Laws/Ops.lean: everything that each shared operation can do, said once: acting, repeating, raising and recording an
event, completing a command, and the checks of a register write.
-/

namespace Sys2Proof.Machine

/-! ## Acting and repeating -/

theorem act_eq (s : State) (f : Block → Block) : act s f = .next { s with blk := f s.blk } := rfl

/-- A command that acts by `f` completes, and what holds of `f`'s block holds after it. -/
theorem answers_of_act {i : Instr} {s : State} {f : Block → Block} {P : Block → Prop} (h : exec i s = act s f)
    (hp : P (f s.blk)) : Answers i s P := ⟨_, h, rfl, hp⟩

/-- What a completed command's block has. -/
theorem answers_iff_of_act {i : Instr} {s : State} {f : Block → Block} {P : Block → Prop} (h : exec i s = act s f) :
    Answers i s P ↔ P (f s.blk) := by
  constructor
  · rintro ⟨t, ht, _, hp⟩
    rw [h, act_eq, Host.Outcome.next.injEq] at ht
    subst ht; exact hp
  · exact answers_of_act h

@[simp] theorem onlyIf_true (f : Block → Block) (b : Block) : onlyIf true f b = f b := rfl
@[simp] theorem onlyIf_false (f : Block → Block) (b : Block) : onlyIf false f b = b := rfl

@[simp] theorem each_nil {α : Type} (f : α → Block → Block) (b : Block) : each [] f b = b := rfl
@[simp] theorem each_cons {α : Type} (x : α) (r : List α) (f : α → Block → Block) (b : Block) :
    each (x :: r) f b = each r f (f x b) := rfl

/-- What every step of a repetition keeps, the repetition keeps. -/
theorem each_keeps {α : Type} {P : Block → Prop} {f : α → Block → Block} (l : List α) (hf : ∀ x b, P b → P (f x b)) :
    ∀ b, P b → P (each l f b) := by
  induction l with
  | nil => exact fun _ h => h
  | cons x r ih => exact fun b h => ih _ (hf x b h)

/-- A field that no step of a repetition changes. -/
theorem each_field {α β : Type} (g : Block → β) {f : α → Block → Block} (l : List α) (hf : ∀ x b, g (f x b) = g b) (b : Block) :
    g (each l f b) = g b :=
  each_keeps (P := fun c => g c = g b) l (fun x c h => (hf x c).trans h) b rfl

theorem onlyIf_keeps {P : Block → Prop} {f : Block → Block} (c : Bool) {b : Block} (hf : P (f b)) (h : P b) : P (onlyIf c f b) := by
  cases c
  · exact h
  · exact hf

/-! ## Events -/

/-- Between two blocks nothing has changed but what a raised event changes: open values, what is sent, leaf bits, the
Flyleaf, counters, the functions' pending groups and the last readings. -/
def ReportsOnly (b b' : Block) : Prop :=
  b' = { b with
         freeCtr := b'.freeCtr, out := b'.out, leaf := b'.leaf, fly := b'.fly, obs := b'.obs,
         host := { b.host with pfs := b'.host.pfs }, pw := { b.pw with temps := b'.pw.temps, volts := b'.pw.volts } }

theorem ReportsOnly.refl (b : Block) : ReportsOnly b b := rfl

theorem ReportsOnly.trans {a b c : Block} (h : ReportsOnly a b) (k : ReportsOnly b c) : ReportsOnly a c := by
  unfold ReportsOnly at *
  rw [k]; rw [h]

theorem reportsOnly_takeFree (b : Block) : ReportsOnly b (takeFree b) := rfl
theorem reportsOnly_emit (b : Block) (o : Out) : ReportsOnly b (emit b o) := rfl
theorem reportsOnly_count (b : Block) (i n : Nat) : ReportsOnly b (count b i n) := rfl
theorem reportsOnly_setPf (b : Block) (n : Nat) (r : PfRec) : ReportsOnly b (setPf b n r) := rfl
theorem reportsOnly_modPf (b : Block) (n : Nat) (f : PfRec → PfRec) : ReportsOnly b (modPf b n f) := rfl
theorem reportsOnly_leafSet (b : Block) (l : Leaf) (i : Nat) : ReportsOnly b (leafSet b l i) := rfl
theorem reportsOnly_clearLeaf (b : Block) (l : Leaf) (v : W32) : ReportsOnly b (clearLeaf b l v) := rfl
theorem reportsOnly_msix (b : Block) (pf vf v : Nat) : ReportsOnly b (msix b pf vf v) := rfl

theorem reportsOnly_keepMeas (b : Block) (m : Meas) (t v : W16) : ReportsOnly b (keepMeas b m t v) := by
  cases m <;> rfl

theorem reportsOnly_pendPf (g v pf : Nat) (b : Block) : ReportsOnly b (pendPf g v pf b) := by
  unfold pendPf; split
  · exact (reportsOnly_modPf b pf _).trans (reportsOnly_msix _ _ _ _)
  · exact reportsOnly_modPf b pf _

theorem reportsOnly_each {α : Type} {f : α → Block → Block} (l : List α) (hf : ∀ x b, ReportsOnly b (f x b)) (b : Block) :
    ReportsOnly b (each l f b) :=
  each_keeps (P := ReportsOnly b) l (fun x c h => h.trans (hf x c)) b (.refl b)

theorem reportsOnly_fly (b : Block) (f : Flyleaf) : ReportsOnly b { b with fly := f } := rfl

theorem reportsOnly_flyWrite (b : Block) (ty : Nat) (a : About) (su : Bool) : ReportsOnly b (flyWrite b ty a su) := by
  unfold flyWrite; split
  · exact .refl b
  · exact (((reportsOnly_takeFree b).trans (reportsOnly_takeFree _)).trans (reportsOnly_keepMeas _ _ _ _)).trans
      (reportsOnly_fly _ _)

theorem reportsOnly_raiseLeaf (b : Block) (l : Leaf) (i : Nat) (a : About) : ReportsOnly b (raiseLeaf b l i a) := by
  unfold raiseLeaf
  dsimp only
  split
  · exact reportsOnly_fly _ _
  · have h1 := reportsOnly_each ((leafCopies l).filter fun x => !leafBit b x i) (fun x c => reportsOnly_leafSet c x i) b
    have h2 := h1.trans (reportsOnly_each ((leafCopies l).filter fun x => !leafBit b x i)
      (fun x c => reportsOnly_each (leafGroups x i) (fun g c => reportsOnly_each (leafPfs x) (fun pf c => reportsOnly_pendPf g g pf c) c) c) _)
    split
    · exact h2
    · exact (h2.trans (reportsOnly_flyWrite _ _ _ _)).trans (reportsOnly_fly _ _)

theorem reportsOnly_lapCheck (b : Block) : ReportsOnly b (lapCheck b) := by
  unfold lapCheck; split
  · exact reportsOnly_raiseLeaf _ _ _ _
  · exact .refl b

/-- Raising a leaf bit changes nothing but what an event may change. -/
theorem reportsOnly_raise (b : Block) (l : Leaf) (i : Nat) (a : About) : ReportsOnly b (raise b l i a) :=
  (reportsOnly_raiseLeaf _ _ _ _).trans (reportsOnly_lapCheck _)

/-- Recording an event changes nothing but what an event may change. -/
theorem reportsOnly_flyEvent (b : Block) (ty : Nat) (a : About) : ReportsOnly b (flyEvent b ty a) :=
  (reportsOnly_flyWrite _ _ _ _).trans (reportsOnly_lapCheck _)

theorem reportsOnly_refuse (b : Block) (l : Leaf) : ReportsOnly b (refuse b l) := reportsOnly_raise _ _ _ _

theorem reportsOnly_badSource (b : Block) (pf off : Nat) : ReportsOnly b (badSource b pf off) := reportsOnly_flyEvent _ _ _

/-! What an event leaves of each part. -/

theorem ReportsOnly.ident_eq {b b' : Block} (h : ReportsOnly b b') : b'.ident = b.ident := by rw [h]
theorem ReportsOnly.time_eq {b b' : Block} (h : ReportsOnly b b') : b'.time = b.time := by rw [h]
theorem ReportsOnly.spine_eq {b b' : Block} (h : ReportsOnly b b') : b'.spine = b.spine := by rw [h]
theorem ReportsOnly.links_eq {b b' : Block} (h : ReportsOnly b b') : b'.links = b.links := by rw [h]
theorem ReportsOnly.col_eq {b b' : Block} (h : ReportsOnly b b') : b'.col = b.col := by rw [h]
theorem ReportsOnly.ver_eq {b b' : Block} (h : ReportsOnly b b') : b'.ver = b.ver := by rw [h]
theorem ReportsOnly.tenants_eq {b b' : Block} (h : ReportsOnly b b') : b'.tenants = b.tenants := by rw [h]
theorem ReportsOnly.slots_eq {b b' : Block} (h : ReportsOnly b b') : b'.slots = b.slots := by rw [h]
theorem ReportsOnly.gt_eq {b b' : Block} (h : ReportsOnly b b') : b'.gt = b.gt := by rw [h]
theorem ReportsOnly.bd_eq {b b' : Block} (h : ReportsOnly b b') : b'.bd = b.bd := by rw [h]
theorem ReportsOnly.sn_eq {b b' : Block} (h : ReportsOnly b b') : b'.sn = b.sn := by rw [h]
theorem ReportsOnly.hr_eq {b b' : Block} (h : ReportsOnly b b') : b'.hr = b.hr := by rw [h]
theorem ReportsOnly.sus_eq {b b' : Block} (h : ReportsOnly b b') : b'.sus = b.sus := by rw [h]
theorem ReportsOnly.ck_eq {b b' : Block} (h : ReportsOnly b b') : b'.ck = b.ck := by rw [h]
theorem ReportsOnly.fw_eq {b b' : Block} (h : ReportsOnly b b') : b'.fw = b.fw := by rw [h]
theorem ReportsOnly.done_eq {b b' : Block} (h : ReportsOnly b b') : b'.host.done = b.host.done := by rw [h]
theorem ReportsOnly.rings_eq {b b' : Block} (h : ReportsOnly b b') : b'.host.rings = b.host.rings := by rw [h]
theorem ReportsOnly.outstanding_eq {b b' : Block} (h : ReportsOnly b b') : b'.host.outstanding = b.host.outstanding := by rw [h]

@[simp] theorem raise_ident (b : Block) (l : Leaf) (i : Nat) (a : About) : (raise b l i a).ident = b.ident := (reportsOnly_raise b l i a).ident_eq
@[simp] theorem raise_time (b : Block) (l : Leaf) (i : Nat) (a : About) : (raise b l i a).time = b.time := (reportsOnly_raise b l i a).time_eq
@[simp] theorem raise_spine (b : Block) (l : Leaf) (i : Nat) (a : About) : (raise b l i a).spine = b.spine := (reportsOnly_raise b l i a).spine_eq
@[simp] theorem raise_links (b : Block) (l : Leaf) (i : Nat) (a : About) : (raise b l i a).links = b.links := (reportsOnly_raise b l i a).links_eq
@[simp] theorem raise_col (b : Block) (l : Leaf) (i : Nat) (a : About) : (raise b l i a).col = b.col := (reportsOnly_raise b l i a).col_eq
@[simp] theorem raise_ver (b : Block) (l : Leaf) (i : Nat) (a : About) : (raise b l i a).ver = b.ver := (reportsOnly_raise b l i a).ver_eq
@[simp] theorem raise_tenants (b : Block) (l : Leaf) (i : Nat) (a : About) : (raise b l i a).tenants = b.tenants := (reportsOnly_raise b l i a).tenants_eq
@[simp] theorem raise_slots (b : Block) (l : Leaf) (i : Nat) (a : About) : (raise b l i a).slots = b.slots := (reportsOnly_raise b l i a).slots_eq
@[simp] theorem raise_gt (b : Block) (l : Leaf) (i : Nat) (a : About) : (raise b l i a).gt = b.gt := (reportsOnly_raise b l i a).gt_eq
@[simp] theorem raise_bd (b : Block) (l : Leaf) (i : Nat) (a : About) : (raise b l i a).bd = b.bd := (reportsOnly_raise b l i a).bd_eq
@[simp] theorem raise_sn (b : Block) (l : Leaf) (i : Nat) (a : About) : (raise b l i a).sn = b.sn := (reportsOnly_raise b l i a).sn_eq
@[simp] theorem raise_hr (b : Block) (l : Leaf) (i : Nat) (a : About) : (raise b l i a).hr = b.hr := (reportsOnly_raise b l i a).hr_eq
@[simp] theorem raise_sus (b : Block) (l : Leaf) (i : Nat) (a : About) : (raise b l i a).sus = b.sus := (reportsOnly_raise b l i a).sus_eq
@[simp] theorem raise_ck (b : Block) (l : Leaf) (i : Nat) (a : About) : (raise b l i a).ck = b.ck := (reportsOnly_raise b l i a).ck_eq
@[simp] theorem raise_fw (b : Block) (l : Leaf) (i : Nat) (a : About) : (raise b l i a).fw = b.fw := (reportsOnly_raise b l i a).fw_eq
@[simp] theorem raise_done (b : Block) (l : Leaf) (i : Nat) (a : About) : (raise b l i a).host.done = b.host.done := (reportsOnly_raise b l i a).done_eq

@[simp] theorem flyEvent_ident (b : Block) (ty : Nat) (a : About) : (flyEvent b ty a).ident = b.ident := (reportsOnly_flyEvent b ty a).ident_eq
@[simp] theorem flyEvent_time (b : Block) (ty : Nat) (a : About) : (flyEvent b ty a).time = b.time := (reportsOnly_flyEvent b ty a).time_eq
@[simp] theorem flyEvent_spine (b : Block) (ty : Nat) (a : About) : (flyEvent b ty a).spine = b.spine := (reportsOnly_flyEvent b ty a).spine_eq
@[simp] theorem flyEvent_links (b : Block) (ty : Nat) (a : About) : (flyEvent b ty a).links = b.links := (reportsOnly_flyEvent b ty a).links_eq
@[simp] theorem flyEvent_col (b : Block) (ty : Nat) (a : About) : (flyEvent b ty a).col = b.col := (reportsOnly_flyEvent b ty a).col_eq
@[simp] theorem flyEvent_ver (b : Block) (ty : Nat) (a : About) : (flyEvent b ty a).ver = b.ver := (reportsOnly_flyEvent b ty a).ver_eq
@[simp] theorem flyEvent_tenants (b : Block) (ty : Nat) (a : About) : (flyEvent b ty a).tenants = b.tenants := (reportsOnly_flyEvent b ty a).tenants_eq
@[simp] theorem flyEvent_slots (b : Block) (ty : Nat) (a : About) : (flyEvent b ty a).slots = b.slots := (reportsOnly_flyEvent b ty a).slots_eq
@[simp] theorem flyEvent_gt (b : Block) (ty : Nat) (a : About) : (flyEvent b ty a).gt = b.gt := (reportsOnly_flyEvent b ty a).gt_eq
@[simp] theorem flyEvent_bd (b : Block) (ty : Nat) (a : About) : (flyEvent b ty a).bd = b.bd := (reportsOnly_flyEvent b ty a).bd_eq
@[simp] theorem flyEvent_sn (b : Block) (ty : Nat) (a : About) : (flyEvent b ty a).sn = b.sn := (reportsOnly_flyEvent b ty a).sn_eq
@[simp] theorem flyEvent_hr (b : Block) (ty : Nat) (a : About) : (flyEvent b ty a).hr = b.hr := (reportsOnly_flyEvent b ty a).hr_eq
@[simp] theorem flyEvent_sus (b : Block) (ty : Nat) (a : About) : (flyEvent b ty a).sus = b.sus := (reportsOnly_flyEvent b ty a).sus_eq
@[simp] theorem flyEvent_ck (b : Block) (ty : Nat) (a : About) : (flyEvent b ty a).ck = b.ck := (reportsOnly_flyEvent b ty a).ck_eq
@[simp] theorem flyEvent_fw (b : Block) (ty : Nat) (a : About) : (flyEvent b ty a).fw = b.fw := (reportsOnly_flyEvent b ty a).fw_eq
@[simp] theorem flyEvent_done (b : Block) (ty : Nat) (a : About) : (flyEvent b ty a).host.done = b.host.done := (reportsOnly_flyEvent b ty a).done_eq

/-! ## Completing a command -/

/-- A command completes by one reply; INTERNAL is recorded besides. -/
theorem replied_completeAt (b : Block) (iss : Issuer) (op : Nat) (st : Byte) (r0 r1 : Nat) (t : Ns) (dup : Bool) :
    Replied iss op st b (completeAt b iss op st r0 r1 t dup) := by
  unfold completeAt
  dsimp only
  split
  · exact ⟨_, flyEvent_done _ _ _, rfl, rfl, rfl⟩
  · exact ⟨_, rfl, rfl, rfl, rfl⟩

theorem replied_complete (b : Block) (iss : Issuer) (op : Nat) (st : Byte) : Replied iss op st b (complete b iss op st) :=
  replied_completeAt _ _ _ _ _ _ _ _

@[simp] theorem completeAt_ident (b : Block) (iss : Issuer) (op : Nat) (st : Byte) (r0 r1 : Nat) (t : Ns) (dup : Bool) :
    (completeAt b iss op st r0 r1 t dup).ident = b.ident := by
  unfold completeAt; dsimp only; split
  · exact flyEvent_ident _ _ _
  · rfl
@[simp] theorem complete_ident (b : Block) (iss : Issuer) (op : Nat) (st : Byte) : (complete b iss op st).ident = b.ident :=
  completeAt_ident _ _ _ _ _ _ _ _
@[simp] theorem completeOpt_ident (b : Block) (i : Option Issuer) (op : Nat) (st : Byte) : (completeOpt b i op st).ident = b.ident := by
  cases i with
  | none => rfl
  | some v => exact complete_ident b v op st
@[simp] theorem completeAt_time (b : Block) (iss : Issuer) (op : Nat) (st : Byte) (r0 r1 : Nat) (t : Ns) (dup : Bool) :
    (completeAt b iss op st r0 r1 t dup).time = b.time := by
  unfold completeAt; dsimp only; split
  · exact flyEvent_time _ _ _
  · rfl
@[simp] theorem complete_time (b : Block) (iss : Issuer) (op : Nat) (st : Byte) : (complete b iss op st).time = b.time :=
  completeAt_time _ _ _ _ _ _ _ _
@[simp] theorem completeOpt_time (b : Block) (i : Option Issuer) (op : Nat) (st : Byte) : (completeOpt b i op st).time = b.time := by
  cases i with
  | none => rfl
  | some v => exact complete_time b v op st
@[simp] theorem completeAt_spine (b : Block) (iss : Issuer) (op : Nat) (st : Byte) (r0 r1 : Nat) (t : Ns) (dup : Bool) :
    (completeAt b iss op st r0 r1 t dup).spine = b.spine := by
  unfold completeAt; dsimp only; split
  · exact flyEvent_spine _ _ _
  · rfl
@[simp] theorem complete_spine (b : Block) (iss : Issuer) (op : Nat) (st : Byte) : (complete b iss op st).spine = b.spine :=
  completeAt_spine _ _ _ _ _ _ _ _
@[simp] theorem completeOpt_spine (b : Block) (i : Option Issuer) (op : Nat) (st : Byte) : (completeOpt b i op st).spine = b.spine := by
  cases i with
  | none => rfl
  | some v => exact complete_spine b v op st
@[simp] theorem completeAt_links (b : Block) (iss : Issuer) (op : Nat) (st : Byte) (r0 r1 : Nat) (t : Ns) (dup : Bool) :
    (completeAt b iss op st r0 r1 t dup).links = b.links := by
  unfold completeAt; dsimp only; split
  · exact flyEvent_links _ _ _
  · rfl
@[simp] theorem complete_links (b : Block) (iss : Issuer) (op : Nat) (st : Byte) : (complete b iss op st).links = b.links :=
  completeAt_links _ _ _ _ _ _ _ _
@[simp] theorem completeOpt_links (b : Block) (i : Option Issuer) (op : Nat) (st : Byte) : (completeOpt b i op st).links = b.links := by
  cases i with
  | none => rfl
  | some v => exact complete_links b v op st
@[simp] theorem completeAt_col (b : Block) (iss : Issuer) (op : Nat) (st : Byte) (r0 r1 : Nat) (t : Ns) (dup : Bool) :
    (completeAt b iss op st r0 r1 t dup).col = b.col := by
  unfold completeAt; dsimp only; split
  · exact flyEvent_col _ _ _
  · rfl
@[simp] theorem complete_col (b : Block) (iss : Issuer) (op : Nat) (st : Byte) : (complete b iss op st).col = b.col :=
  completeAt_col _ _ _ _ _ _ _ _
@[simp] theorem completeOpt_col (b : Block) (i : Option Issuer) (op : Nat) (st : Byte) : (completeOpt b i op st).col = b.col := by
  cases i with
  | none => rfl
  | some v => exact complete_col b v op st
@[simp] theorem completeAt_ver (b : Block) (iss : Issuer) (op : Nat) (st : Byte) (r0 r1 : Nat) (t : Ns) (dup : Bool) :
    (completeAt b iss op st r0 r1 t dup).ver = b.ver := by
  unfold completeAt; dsimp only; split
  · exact flyEvent_ver _ _ _
  · rfl
@[simp] theorem complete_ver (b : Block) (iss : Issuer) (op : Nat) (st : Byte) : (complete b iss op st).ver = b.ver :=
  completeAt_ver _ _ _ _ _ _ _ _
@[simp] theorem completeOpt_ver (b : Block) (i : Option Issuer) (op : Nat) (st : Byte) : (completeOpt b i op st).ver = b.ver := by
  cases i with
  | none => rfl
  | some v => exact complete_ver b v op st
@[simp] theorem completeAt_tenants (b : Block) (iss : Issuer) (op : Nat) (st : Byte) (r0 r1 : Nat) (t : Ns) (dup : Bool) :
    (completeAt b iss op st r0 r1 t dup).tenants = b.tenants := by
  unfold completeAt; dsimp only; split
  · exact flyEvent_tenants _ _ _
  · rfl
@[simp] theorem complete_tenants (b : Block) (iss : Issuer) (op : Nat) (st : Byte) : (complete b iss op st).tenants = b.tenants :=
  completeAt_tenants _ _ _ _ _ _ _ _
@[simp] theorem completeOpt_tenants (b : Block) (i : Option Issuer) (op : Nat) (st : Byte) : (completeOpt b i op st).tenants = b.tenants := by
  cases i with
  | none => rfl
  | some v => exact complete_tenants b v op st
@[simp] theorem completeAt_slots (b : Block) (iss : Issuer) (op : Nat) (st : Byte) (r0 r1 : Nat) (t : Ns) (dup : Bool) :
    (completeAt b iss op st r0 r1 t dup).slots = b.slots := by
  unfold completeAt; dsimp only; split
  · exact flyEvent_slots _ _ _
  · rfl
@[simp] theorem complete_slots (b : Block) (iss : Issuer) (op : Nat) (st : Byte) : (complete b iss op st).slots = b.slots :=
  completeAt_slots _ _ _ _ _ _ _ _
@[simp] theorem completeOpt_slots (b : Block) (i : Option Issuer) (op : Nat) (st : Byte) : (completeOpt b i op st).slots = b.slots := by
  cases i with
  | none => rfl
  | some v => exact complete_slots b v op st
@[simp] theorem completeAt_gt (b : Block) (iss : Issuer) (op : Nat) (st : Byte) (r0 r1 : Nat) (t : Ns) (dup : Bool) :
    (completeAt b iss op st r0 r1 t dup).gt = b.gt := by
  unfold completeAt; dsimp only; split
  · exact flyEvent_gt _ _ _
  · rfl
@[simp] theorem complete_gt (b : Block) (iss : Issuer) (op : Nat) (st : Byte) : (complete b iss op st).gt = b.gt :=
  completeAt_gt _ _ _ _ _ _ _ _
@[simp] theorem completeOpt_gt (b : Block) (i : Option Issuer) (op : Nat) (st : Byte) : (completeOpt b i op st).gt = b.gt := by
  cases i with
  | none => rfl
  | some v => exact complete_gt b v op st
@[simp] theorem completeAt_bd (b : Block) (iss : Issuer) (op : Nat) (st : Byte) (r0 r1 : Nat) (t : Ns) (dup : Bool) :
    (completeAt b iss op st r0 r1 t dup).bd = b.bd := by
  unfold completeAt; dsimp only; split
  · exact flyEvent_bd _ _ _
  · rfl
@[simp] theorem complete_bd (b : Block) (iss : Issuer) (op : Nat) (st : Byte) : (complete b iss op st).bd = b.bd :=
  completeAt_bd _ _ _ _ _ _ _ _
@[simp] theorem completeOpt_bd (b : Block) (i : Option Issuer) (op : Nat) (st : Byte) : (completeOpt b i op st).bd = b.bd := by
  cases i with
  | none => rfl
  | some v => exact complete_bd b v op st
@[simp] theorem completeAt_sn (b : Block) (iss : Issuer) (op : Nat) (st : Byte) (r0 r1 : Nat) (t : Ns) (dup : Bool) :
    (completeAt b iss op st r0 r1 t dup).sn = b.sn := by
  unfold completeAt; dsimp only; split
  · exact flyEvent_sn _ _ _
  · rfl
@[simp] theorem complete_sn (b : Block) (iss : Issuer) (op : Nat) (st : Byte) : (complete b iss op st).sn = b.sn :=
  completeAt_sn _ _ _ _ _ _ _ _
@[simp] theorem completeOpt_sn (b : Block) (i : Option Issuer) (op : Nat) (st : Byte) : (completeOpt b i op st).sn = b.sn := by
  cases i with
  | none => rfl
  | some v => exact complete_sn b v op st
@[simp] theorem completeAt_hr (b : Block) (iss : Issuer) (op : Nat) (st : Byte) (r0 r1 : Nat) (t : Ns) (dup : Bool) :
    (completeAt b iss op st r0 r1 t dup).hr = b.hr := by
  unfold completeAt; dsimp only; split
  · exact flyEvent_hr _ _ _
  · rfl
@[simp] theorem complete_hr (b : Block) (iss : Issuer) (op : Nat) (st : Byte) : (complete b iss op st).hr = b.hr :=
  completeAt_hr _ _ _ _ _ _ _ _
@[simp] theorem completeOpt_hr (b : Block) (i : Option Issuer) (op : Nat) (st : Byte) : (completeOpt b i op st).hr = b.hr := by
  cases i with
  | none => rfl
  | some v => exact complete_hr b v op st
@[simp] theorem completeAt_sus (b : Block) (iss : Issuer) (op : Nat) (st : Byte) (r0 r1 : Nat) (t : Ns) (dup : Bool) :
    (completeAt b iss op st r0 r1 t dup).sus = b.sus := by
  unfold completeAt; dsimp only; split
  · exact flyEvent_sus _ _ _
  · rfl
@[simp] theorem complete_sus (b : Block) (iss : Issuer) (op : Nat) (st : Byte) : (complete b iss op st).sus = b.sus :=
  completeAt_sus _ _ _ _ _ _ _ _
@[simp] theorem completeOpt_sus (b : Block) (i : Option Issuer) (op : Nat) (st : Byte) : (completeOpt b i op st).sus = b.sus := by
  cases i with
  | none => rfl
  | some v => exact complete_sus b v op st
@[simp] theorem completeAt_ck (b : Block) (iss : Issuer) (op : Nat) (st : Byte) (r0 r1 : Nat) (t : Ns) (dup : Bool) :
    (completeAt b iss op st r0 r1 t dup).ck = b.ck := by
  unfold completeAt; dsimp only; split
  · exact flyEvent_ck _ _ _
  · rfl
@[simp] theorem complete_ck (b : Block) (iss : Issuer) (op : Nat) (st : Byte) : (complete b iss op st).ck = b.ck :=
  completeAt_ck _ _ _ _ _ _ _ _
@[simp] theorem completeOpt_ck (b : Block) (i : Option Issuer) (op : Nat) (st : Byte) : (completeOpt b i op st).ck = b.ck := by
  cases i with
  | none => rfl
  | some v => exact complete_ck b v op st
@[simp] theorem completeAt_fw (b : Block) (iss : Issuer) (op : Nat) (st : Byte) (r0 r1 : Nat) (t : Ns) (dup : Bool) :
    (completeAt b iss op st r0 r1 t dup).fw = b.fw := by
  unfold completeAt; dsimp only; split
  · exact flyEvent_fw _ _ _
  · rfl
@[simp] theorem complete_fw (b : Block) (iss : Issuer) (op : Nat) (st : Byte) : (complete b iss op st).fw = b.fw :=
  completeAt_fw _ _ _ _ _ _ _ _
@[simp] theorem completeOpt_fw (b : Block) (i : Option Issuer) (op : Nat) (st : Byte) : (completeOpt b i op st).fw = b.fw := by
  cases i with
  | none => rfl
  | some v => exact complete_fw b v op st

/-! ## Leaf bits -/

theorem leafBit_leafSet_same (b : Block) (l : Leaf) (i : Nat) (h : i < 32) : leafBit (leafSet b l i) l i = true := by
  simp only [leafBit, leafGet_leafSet, if_true, putBit, BitVec.getLsbD_or, Bool.or_eq_true]
  exact Or.inr (by rw [BitVec.getLsbD_ofNat]; simp [h])

/-- Setting a bit leaves every bit that is set. -/
theorem leafBit_leafSet_of (b : Block) (l k : Leaf) (i j : Nat) (h : leafBit b k j = true) : leafBit (leafSet b l i) k j = true := by
  simp only [leafBit, leafGet_leafSet] at *
  split
  · next e => subst e; simp only [putBit, if_true, BitVec.getLsbD_or, h, Bool.true_or]
  · exact h

theorem leafBit_of_leaf {b b' : Block} (h : b'.leaf = b.leaf) (l : Leaf) (i : Nat) : leafBit b' l i = leafBit b l i := by
  simp [leafBit, leafGet, h]

theorem pendPf_leaf (g v pf : Nat) (b : Block) : (pendPf g v pf b).leaf = b.leaf := by
  unfold pendPf; split <;> rfl

theorem keepMeas_leaf (b : Block) (m : Meas) (t v : W16) : (keepMeas b m t v).leaf = b.leaf := by cases m <;> rfl

theorem flyWrite_leaf (b : Block) (ty : Nat) (a : About) (su : Bool) : (flyWrite b ty a su).leaf = b.leaf := by
  unfold flyWrite; split
  · rfl
  · exact keepMeas_leaf _ _ _ _

theorem pendGroups_leaf (l : List Leaf) (i : Nat) (b : Block) :
    (each l (fun x => each (leafGroups x i) fun g => each (leafPfs x) (pendPf g g)) b).leaf = b.leaf :=
  each_field (·.leaf) l (fun x c => each_field (·.leaf) _ (fun g c => each_field (·.leaf) _ (fun pf c => pendPf_leaf g g pf c) c) c) b

/-- A raise keeps every leaf bit that is set. -/
theorem leafBit_raiseLeaf_of (b : Block) (l k : Leaf) (i j : Nat) (a : About) (h : leafBit b k j = true) :
    leafBit (raiseLeaf b l i a) k j = true := by
  unfold raiseLeaf
  dsimp only
  split
  · exact h
  · have h1 := each_keeps (P := fun c => leafBit c k j = true) ((leafCopies l).filter fun x => !leafBit b x i)
      (fun x c hc => leafBit_leafSet_of c x k i j hc) b h
    have h2 := (leafBit_of_leaf (pendGroups_leaf ((leafCopies l).filter fun x => !leafBit b x i) i _) k j).trans h1
    split
    · exact h2
    · exact (leafBit_of_leaf (flyWrite_leaf _ _ _ _) k j).trans h2

/-- A raise sets its bit in every copy of the register. -/
theorem leafBit_raiseLeaf (b : Block) (l : Leaf) (i : Nat) (a : About) {k : Leaf} (hk : k ∈ leafCopies l) (hi : i < 32) :
    leafBit (raiseLeaf b l i a) k i = true := by
  by_cases h : leafBit b k i = true
  · exact leafBit_raiseLeaf_of b l k i i a h
  · have hf : k ∈ (leafCopies l).filter fun x => !leafBit b x i := by
      simp [List.mem_filter, hk, h]
    have hset : ∀ (m : List Leaf) (c : Block), k ∈ m → leafBit (each m (fun x c => leafSet c x i) c) k i = true := by
      intro m
      induction m with
      | nil => intro c hm; simp at hm
      | cons x r ih =>
        intro c hm
        rcases List.mem_cons.mp hm with rfl | hr
        · exact each_keeps (P := fun d => leafBit d k i = true) r (fun y d hd => leafBit_leafSet_of d y k i i hd) _
            (leafBit_leafSet_same c k i hi)
        · exact ih _ hr
    unfold raiseLeaf
    dsimp only
    split
    · next he => rw [List.isEmpty_iff] at he; rw [he] at hf; simp at hf
    · have h2 := (leafBit_of_leaf (pendGroups_leaf ((leafCopies l).filter fun x => !leafBit b x i) i _) k i).trans
        (hset _ b hf)
      split
      · exact h2
      · exact (leafBit_of_leaf (flyWrite_leaf _ _ _ _) k i).trans h2

theorem leafBit_lapCheck_of (b : Block) (k : Leaf) (j : Nat) (h : leafBit b k j = true) : leafBit (lapCheck b) k j = true := by
  unfold lapCheck; split
  · exact leafBit_raiseLeaf_of _ _ _ _ _ _ h
  · exact h

theorem leafBit_raise (b : Block) (l : Leaf) (i : Nat) (a : About) {k : Leaf} (hk : k ∈ leafCopies l) (hi : i < 32) :
    leafBit (raise b l i a) k i = true :=
  leafBit_lapCheck_of _ _ _ (leafBit_raiseLeaf b l i a hk hi)

theorem leafBit_raise_of (b : Block) (l k : Leaf) (i j : Nat) (a : About) (h : leafBit b k j = true) :
    leafBit (raise b l i a) k j = true :=
  leafBit_lapCheck_of _ _ _ (leafBit_raiseLeaf_of b l k i j a h)

theorem leafBit_flyEvent_of (b : Block) (ty : Nat) (a : About) (k : Leaf) (j : Nat) (h : leafBit b k j = true) :
    leafBit (flyEvent b ty a) k j = true :=
  leafBit_lapCheck_of _ _ _ ((leafBit_of_leaf (flyWrite_leaf _ _ _ _) k j).trans h)

/-- A refused field sets the error flag of its block (R10). -/
theorem leafBit_refuse (b : Block) (l : Leaf) (h : l ∈ leafCopies l) : leafBit (refuse b l) l 0 = true :=
  leafBit_raise b l 0 _ h (by decide)

/-! ## Register writes -/

theorem adminWrite_admin (b : Block) (pf off : Nat) (f : Block → Block) (h : b.ident.adminPf = pf) :
    adminWrite b pf off f = f b := by simp [adminWrite, h]

theorem adminWrite_other (b : Block) (pf off : Nat) (f : Block → Block) (h : b.ident.adminPf ≠ pf) :
    adminWrite b pf off f = badSource b pf off := by simp [adminWrite, Ne.symm h]

@[simp] theorem fieldIf_true (l : Leaf) (f : Block → Block) (b : Block) : fieldIf true l f b = f b := rfl
@[simp] theorem fieldIf_false (l : Leaf) (f : Block → Block) (b : Block) : fieldIf false l f b = refuse b l := rfl

theorem within_iff (lo hi v : Nat) : within lo hi v = true ↔ lo ≤ v ∧ v ≤ hi := by simp [within]

end Sys2Proof.Machine
end

