-- ==== Sys2Proof/Tests/Slice0.lean ====
section
/-!
SUPPORT. Tests/Slice0.lean: the model's own tests: ill-formed terms that WellFormed refuses, small checks of one command
against the manual's tables, and for every statement with hypotheses a state and operands that meet them, clause by clause,
at the bounds of their ranges.
-/

namespace Sys2Proof.Tests

open Machine

/-! ## States that the tests build on -/

/-- A state with nothing waiting. -/
abbrev st (b : Block) : State := { blk := b }

/-- A block whose Collator runs, with `k` as core 0. -/
abbrev run (k : Core) : Block :=
  { pw := { porstN := true }, ck := { plls := [(0, { state := .ready }), (2, { state := .ready })] }, col := { cores := [(0, k)] } }

/-- A tenant with its one rank on slot 0 of this tray (place 0.0.0.0.0), created by PF 0. -/
abbrev ten : TenantRec := { exists' := true, ranks := 1, places := [0x1000000000] }

/-- A block with tenant 1 as `r`. -/
abbrev withTen (r : TenantRec) : Block := { tenants := [(1, r)] }

/-- A command of PF 0, which administrates, for tenant 1. -/
abbrev pf0 : Issuer := { tenant := 1 }

/-- Tray 5 of rack 0: it joins no uplink ring, tray 0 heads ring 0, and its east hop is in use. -/
abbrev mid : Block :=
  { ident := { tray := 5 }, spine := { ports := [(1, { state := .active })], rings := [(0, { map := 1 })] } }

/-- The place of slot 0 of tray 5. -/
abbrev midSlot : Place := 0x1000050000

/-! ## Frames -/

/-- A check value differs from the next number. -/
theorem crc_succ (x : W32) : x + 1 ≠ x := by
  intro h
  have := congrArg BitVec.toNat h
  simp at this
  omega

/-- A frame's trailer is its own. -/
theorem sealed_crc (ty : FrameType) (f : DataFrame) : (sealFrame ty f).crc = frameCrc ty (sealFrame ty f) := rfl

/-- A frame whose trailer is one more than its own is refused. -/
theorem resealed (ty : FrameType) (f : DataFrame) :
    (sealFrame ty f).crc + 1 ≠ frameCrc ty { sealFrame ty f with crc := (sealFrame ty f).crc + 1 } := crc_succ (frameCrc ty f)

/-- A frame of tenant 1 for a tray, from another GLT, that is a whole transfer. -/
abbrev frameTo (dest : Place) (l : List Byte) : DataFrame :=
  { tenant := 1, dest := dest, src := 0x2000010000, stream := 9, payload := l, length := l.length }

/-- Such a frame with its trailer arrives at its DEST. -/
theorem arrives_sealed (b : Block) (p : Fin 8) (ty : FrameType) (f : DataFrame) (h : freshFrame b p f)
    (hl : f.last = true ∧ f.offset = 0 ∧ f.payload.length = f.length ∧ b.spine.partials = [] ∧ trayOf f.dest = ownPlace b) :
    arrives b p ty (sealFrame ty f) :=
  ⟨h, ⟨rfl, hl.1, hl.2.1, hl.2.2.1, by simp [hl.2.2.2.1]⟩, hl.2.2.2.2⟩

/-- Every frame of tenant 1 for this tray arrives where no data frame was taken yet. -/
theorem arrives_here (b : Block) (p : Fin 8) (ty : FrameType) (l : List Byte) (h : (getHop b (portHop p)).drxAny = false)
    (hp : b.spine.partials = []) (d : trayOf (ownPlace b) = ownPlace b) : arrives b p ty (sealFrame ty (frameTo (ownPlace b) l)) :=
  arrives_sealed b p ty _ ⟨rfl, by simp [h]⟩ ⟨rfl, rfl, rfl, hp, d⟩

/-! ## Images -/

/-- The smallest image of a kind and key slot (Table 13.16): a header of 256 bytes and 96 bytes of signature. -/
abbrev fwRaw (kind key : Nat) : List Byte :=
  leBytes 4 0x4D495746 ++ leBytes 2 1 ++ leBytes 1 kind ++ leBytes 1 key ++ leBytes 4 352 ++ zeroBytes 340

/-! ## Link frames and link control sets -/

/-- A link frame with its check code. -/
abbrev whole (f : LinkFrame) : LinkFrame := { f with crc := linkCrc f }

theorem whole_frameWhole (f : LinkFrame) (h : f.correctable = true) : frameWhole (whole f) = true := by
  have e : linkCrc (whole f) = linkCrc f := rfl
  simp [frameWhole, e, h]

theorem uncorrectable_frameWhole (f : LinkFrame) (h : f.correctable = false) : frameWhole f = false := by simp [frameWhole, h]

/-- The header of a link control set with its check code. -/
abbrev lcsHdr (h : LcsHdr) (x : Lcs) : LcsHdr := { h with crc := crc16 (lcsBytes h x) }

theorem lcsHdr_fresh (b : Block) (l : Nat) (h : LcsHdr) (x : Lcs) (hs : (getLink b l).lcsSeen = none) :
    lcsFresh b l (lcsHdr h x) x = true := by
  have e : lcsBytes (lcsHdr h x) x = lcsBytes h x := rfl
  simp [lcsFresh, e, hs]

/-- A header whose check code is one more than its own. -/
abbrev lcsBad (h : LcsHdr) (x : Lcs) : LcsHdr := { h with crc := crc16 (lcsBytes h x) + 1 }

theorem lcsBad_broken (b : Block) (l : Nat) (h : LcsHdr) (x : Lcs) : lcsFresh b l (lcsBad h x) x = false := by
  have n (c : W16) : (c + 1 == c) = false := by
    simp only [beq_eq_false_iff_ne]
    intro h
    have := congrArg BitVec.toNat h
    simp at this
    omega
  have e : ((lcsBad h x).crc == crc16 (lcsBytes (lcsBad h x) x)) = false := n (crc16 (lcsBytes h x))
  unfold lcsFresh
  rw [e, Bool.false_and]
/-! ## Well-formed commands -/

theorem test_wf_TapDesc : ({} : TapDesc).wf = true ∧ (
      [{ m := 2 ^ 16 }, { n := 2 ^ 16 }, { k := 2 ^ 32 }] : List TapDesc).all (fun x => !x.wf) = true := by decide

theorem test_wf_TileHdr : ({} : TileHdr).wf = true ∧ (
      [{ recLen := 2 ^ 32 }, { gathering := 2 ^ 32 }, { aOff := 2 ^ 32 }, { saOff := 2 ^ 32 }, { bOff := 2 ^ 32 },
       { sbOff := 2 ^ 32 }, { cOff := 2 ^ 32 }, { yOff := 2 ^ 32 }, { subM := 2 ^ 16 }, { subN := 2 ^ 16 },
       { rowOff := 2 ^ 16 }, { colOff := 2 ^ 16 }, { tap := { m := 2 ^ 16 } }] : List TileHdr).all (fun x => !x.wf) = true := by decide

theorem test_wf_PolicySetP : ({ rates := List.replicate 8 0 } : PolicySetP).wf = true ∧ (
      [{ rates := List.replicate 8 0, quota := 2 ^ 32 }, { rates := List.replicate 8 0, fromGathering := 2 ^ 32 },
       { rates := List.replicate 8 0, waiveGathering := 2 ^ 32 }, { rates := [] }] : List PolicySetP).all (fun x => !x.wf) = true := by decide

theorem test_wf_ProgLoadP : ({} : ProgLoadP).wf = true ∧ (
      [{ slot := 2 ^ 8 }, { length := 1 }, { image := [0] }] : List ProgLoadP).all (fun x => !x.wf) = true := by decide

theorem test_wf_VerdictReadP : ({} : VerdictReadP).wf = true ∧ (
      [{ gathering := 2 ^ 32 }, { first := 2 ^ 32 }, { bufLen := 2 ^ 32 }, { dest := 2 ^ 64 }] : List VerdictReadP).all (fun x => !x.wf) = true := by decide

theorem test_wf_RedBody : ({} : RedBody).wf = true ∧ (
      [{ round := 2 ^ 16 }, { count := 2 ^ 16 }, { values := [0, 0, 0, 0, 0] }] : List RedBody).all (fun x => !x.wf) = true := by decide

theorem test_wf_BarBody : ({} : BarBody).wf = true ∧ (
      [{ round := 2 ^ 16 }, { count := 2 ^ 16 }, { release := 2 ^ 34 * 1000000000 }] : List BarBody).all (fun x => !x.wf) = true := by decide

theorem test_wf_VoteBody : ({} : VoteBody).wf = true ∧ (
      [{ gathering := 2 ^ 32 }, { count := 2 ^ 16 }, { completion := 2 ^ 34 * 1000000000 }] : List VoteBody).all (fun x => !x.wf) = true := by decide

theorem test_wf_HoldBody : ({} : HoldBody).wf = true ∧ (
      [{ time := 2 ^ 34 * 1000000000 }] : List HoldBody).all (fun x => !x.wf) = true := by decide

theorem test_wf_RepBody : ({} : RepBody).wf = true ∧ (
      [{ distinct := 2 ^ 8 }, { count := 2 ^ 16 }] : List RepBody).all (fun x => !x.wf) = true := by decide

theorem test_wf_SyncBody : ({} : SyncBody).wf = true ∧ (
      [{ t1 := 2 ^ 34 * 1000000000 * 65536 }] : List SyncBody).all (fun x => !x.wf) = true := by decide

theorem test_wf_ReducePostP : ({ operands := [0, 0, 0, 0] } : ReducePostP).wf = true ∧ (
      [{ operands := [0, 0, 0, 0], rank := 2 ^ 32 }, { operands := [0, 0, 0, 0], resultAddr := 2 ^ 64 },
       { operands := [0, 0, 0] }] : List ReducePostP).all (fun x => !x.wf) = true := by decide

theorem test_wf_BarrierArmP : ({} : BarrierArmP).wf = true ∧ (
      [{ group := 2 ^ 8 }, { rank := 2 ^ 32 }, { membersLen := 2 ^ 32 }, { resultAddr := 2 ^ 64 }] : List BarrierArmP).all (fun x => !x.wf) = true := by decide

theorem test_wf_SewVoteP : ({} : SewVoteP).wf = true ∧ (
      [{ gathering := 2 ^ 32 }, { resultAddr := 2 ^ 64 }] : List SewVoteP).all (fun x => !x.wf) = true := by decide

theorem test_wf_BroadcastP : ({} : BroadcastP).wf = true ∧ (
      [{ source := 2 ^ 64 }, { length := 2 ^ 64 }, { destOffset := 2 ^ 64 }, { resultAddr := 2 ^ 64 }] : List BroadcastP).all (fun x => !x.wf) = true := by decide

theorem test_wf_TimeSetP : ({} : TimeSetP).wf = true ∧ (
      [{ span := 2 ^ 32 }, { nsec := 2 ^ 32 }, { sec := 2 ^ 48 }, { adj := 2 ^ 31 }, { adj := -(2 ^ 31) - 1 }] : List TimeSetP).all (fun x => !x.wf) = true := by decide

theorem test_wf_TimeLaunchP : ({} : TimeLaunchP).wf = true ∧ (
      [{ nsec := 2 ^ 32 }, { sec := 2 ^ 48 }] : List TimeLaunchP).all (fun x => !x.wf) = true := by decide

theorem test_wf_HoldAtP : ({} : HoldAtP).wf = true ∧ (
      [{ resultAddr := 2 ^ 64 }, { nsec := 2 ^ 32 }, { sec := 2 ^ 48 }] : List HoldAtP).all (fun x => !x.wf) = true := by decide

theorem test_wf_ReleaseAtP : ({} : ReleaseAtP).wf = true ∧ (
      [{ nsec := 2 ^ 32 }, { sec := 2 ^ 48 }] : List ReleaseAtP).all (fun x => !x.wf) = true := by decide

theorem test_wf_TipInP : ({} : TipInP).wf = true ∧ (
      [{ rank := 2 ^ 32 }, { resultAddr := 2 ^ 64 }] : List TipInP).all (fun x => !x.wf) = true := by decide

theorem test_wf_RegionDesc : ({} : RegionDesc).wf = true ∧ (
      [{ base := 2 ^ 64 }, { length := 2 ^ 64 }, { groupSize := 2 ^ 8 }, { repFirst := 2 ^ 32 },
       { repStride := 2 ^ 32 }] : List RegionDesc).all (fun x => !x.wf) = true := by decide

theorem test_wf_PagePush : (
      [{ gathering := 2 ^ 32 }, { page := 2 ^ 32 }, { data := [0] }] : List PagePush).all (fun x => !x.wf) = true := by decide

theorem test_wf_Xfer : ({} : Xfer).wf = true ∧ (
      [{ member := 2 ^ 8 }, { gathering := 2 ^ 32 }, { row := 2 ^ 32 }, { length := 2 ^ 64 },
       { length := 2, bytes := [0] }] : List Xfer).all (fun x => !x.wf) = true := by decide

theorem test_wf_BindReadReq : ({} : BindReadReq).wf = true ∧ (
      [{ offset := 2 ^ 48 }, { length := 2 ^ 64 }, { gathering := 2 ^ 32 }] : List BindReadReq).all (fun x => !x.wf) = true := by decide

theorem test_wf_DigestMsg : ({} : DigestMsg).wf = true ∧ (
      [{ member := 2 ^ 8 }, { groupSize := 2 ^ 8 }, { length := 2 ^ 64 }] : List DigestMsg).all (fun x => !x.wf) = true := by decide

theorem test_wf_GatherArmP : ({} : GatherArmP).wf = true ∧ (
      [{ count := 2 ^ 8 }, { rank := 2 ^ 32 }, { fromGathering := 2 ^ 32 }, { list := [{ base := 2 ^ 64 }] }] : List GatherArmP).all (fun x => !x.wf) = true := by decide

theorem test_wf_GatherStartP : ({} : GatherStartP).wf = true ∧ (
      [{ gathering := 2 ^ 32 }] : List GatherStartP).all (fun x => !x.wf) = true := by decide

theorem test_wf_SewP : ({} : SewP).wf = true ∧ (
      [{ sigShift := 2 ^ 8 }, { k := 2 ^ 8 }, { m := 2 ^ 8 }, { retain := 2 ^ 8 }, { coldEvery := 2 ^ 8 },
       { fromGathering := 2 ^ 32 }, { loadArea := 2 ^ 32 }, { mapCount := 2 ^ 32 }, { gathering := 2 ^ 32 }] : List SewP).all (fun x => !x.wf) = true := by decide

theorem test_wf_BindRestoreP : ({} : BindRestoreP).wf = true ∧ (
      [{ region := 2 ^ 8 }, { rank := 2 ^ 32 }, { gathering := 2 ^ 32 }, { place := 2 ^ 64 }, { target := 2 ^ 64 },
       { resultAddr := 2 ^ 64 }] : List BindRestoreP).all (fun x => !x.wf) = true := by decide

theorem test_wf_ColophonReadP : ({} : ColophonReadP).wf = true ∧ (
      [{ gathering := 2 ^ 32 }, { offset := 2 ^ 64 }, { length := 2 ^ 64 }, { dest := 2 ^ 64 }] : List ColophonReadP).all (fun x => !x.wf) = true := by decide

theorem test_wf_Declare : ({} : Declare).wf = true ∧ (
      [{ nUnits := 2 ^ 16 }, { nEngines := 2 ^ 16 }, { nDomains := 2 ^ 8 }, { holdReach := 2 ^ 32 },
       { memPages := 2 ^ 32 }, { memBase := 2 ^ 64 }, { domains := List.replicate 65 {} }] : List Declare).all (fun x => !x.wf) = true := by decide

theorem test_wf_Segment : ({} : Segment).wf = true ∧ (
      [{ offset := 2 ^ 32 }, { total := 2 ^ 32 }] : List Segment).all (fun x => !x.wf) = true := by decide

theorem test_wf_ReleaseMsg : ({} : ReleaseMsg).wf = true ∧ (
      [{ gathering := 2 ^ 32 }, { regions := [{ length := 2 ^ 64 }] }] : List ReleaseMsg).all (fun x => !x.wf) = true := by decide

theorem test_wf_RestorePush : (
      [{ addr := 2 ^ 64 }, { data := [0] }] : List RestorePush).all (fun x => !x.wf) = true := by decide

theorem test_wf_TenantCreateP : ({} : TenantCreateP).wf = true ∧ (
      [{ vf := 2 ^ 16 }, { ranks := 2 ^ 32 }, { s := 2 ^ 8 }] : List TenantCreateP).all (fun x => !x.wf) = true := by decide

theorem test_wf_SetPlacesP : ({} : SetPlacesP).wf = true ∧ (
      [{ vf := 2 ^ 16 }, { count := 2 ^ 32 }] : List SetPlacesP).all (fun x => !x.wf) = true := by decide

theorem test_wf_FwStageP : ({} : FwStageP).wf = true ∧ (
      [{ kind := 2 ^ 8 }, { length := 2 ^ 32 }] : List FwStageP).all (fun x => !x.wf) = true := by decide

theorem test_wf_FwRebindP : ({} : FwRebindP).wf = true ∧ (
      [{ kind := 2 ^ 8 }, { nsec := 2 ^ 32 }, { sec := 2 ^ 48 }] : List FwRebindP).all (fun x => !x.wf) = true := by decide

theorem test_wf_SpecimenLoadP : ({} : SpecimenLoadP).wf = true ∧ (
      [{ length := 2 ^ 32 }] : List SpecimenLoadP).all (fun x => !x.wf) = true := by decide

theorem test_wf_CountersReadP : ({} : CountersReadP).wf = true ∧ (
      [{ first := 2 ^ 32 }, { count := 2 ^ 32 }, { dest := 2 ^ 64 }] : List CountersReadP).all (fun x => !x.wf) = true := by decide

theorem test_wf_MarginReadP : ({} : MarginReadP).wf = true ∧ (
      [{ slot := 2 ^ 8 }, { index := 2 ^ 16 }, { first := 2 ^ 16 }, { count := 2 ^ 16 }, { dest := 2 ^ 64 }] : List MarginReadP).all (fun x => !x.wf) = true := by decide

theorem test_wf_FlyleafReadP : ({} : FlyleafReadP).wf = true ∧ (
      [{ firstSeq := 2 ^ 48 }, { count := 2 ^ 32 }, { dest := 2 ^ 64 }] : List FlyleafReadP).all (fun x => !x.wf) = true := by decide

theorem test_wf_LinkFrame : ({} : LinkFrame).wf = true ∧ (
      [{ length := 545 }, { units := 18 }] : List LinkFrame).all (fun x => !x.wf) = true := by decide

theorem test_wf_DataFrame : ({ length := 64, payload := List.replicate 64 0 } : DataFrame).wf = true ∧ (
      [{}, { length := 65, payload := List.replicate 65 0 }, { length := 64 }, { length := 64, payload := List.replicate 64 0, offset := 2 ^ 48 },
       { length := 4160 }] : List DataFrame).all (fun x => !x.wf) = true := by decide

/-- Lists of bytes at the end of their range and beyond it. -/
theorem test_wf_lengths (n : Nat) :
    ({ body := List.replicate n 0 } : LinkFrame).wf = decide (n ≤ 544) ∧
    (Instr.fwChunk 0 0 n (List.replicate n 0)).wf = decide (n ≤ 496) ∧
    ({ length := 64, payload := List.replicate n 0 } : DataFrame).wf = (n == 64) := by
  simp [LinkFrame.wf, Instr.wf, DataFrame.wf, fits]

/-- Terms that direct checks refuse, each beside its nearest well-formed neighbour. -/
theorem test_wf_Instr :
    ([.registerWrite (.pf 0) 0x100000 4 0, .registerWrite (.vf 0 1) 0x10000 4 0, .registerWrite (.pf 0) 0 0 0, .registerWrite (.pf 0) 0 9 0,
      .rcCounterRead (.vf 0 1) ⟨0x10000, 4⟩ 0, .rcCounterRead (.pf 0) ⟨0x20000000, 4⟩ 0, .storageLinkEvent 0 (.memRead (2 ^ 64) 4),
      .cpl 0 .none 0 (2 ^ 32) 0 [], .tileRecordReceived 0 { recLen := 255 } [],
      .intervalCloseReceived 0 (2 ^ 32), .verdictDeadline 0 (2 ^ 32), .redTimeout 0 65536, .redWatchdog 0 65536, .stIncrWrite 0 5 0,
      .fwReq 0 .none 0 (2 ^ 64), .bindingFree 0 (2 ^ 32), .written 0 { addr := 2 ^ 64 }, .hello 0 { declare := some { nUnits := 2 ^ 32 } },
      .fwChunk 0 (2 ^ 32) 0 [], .fwChunk 0 0 1 [], .policy 0 { rates := [] }, .regRd 0 0x800 none, .identity .i3c [] (some {}), .widthGo 0 {} 0 false (2 ^ 48),
      .retuneGo 0 {} (2 ^ 48), .ddrTempPoll (List.replicate 17 0), .ddrUe (2 ^ 41), .identify {} (2 ^ 64) false, .flyleafClear {} {} false,
      .holdTest 256, .sentinelThermal 0 0 2048, .sentinelThermal 0 0 (-2049)] : List Instr).all (fun i => !i.wf) = true ∧
    ([.registerWrite (.pf 0) 0xFFFFF 1 0, .registerWrite (.vf 0 1) 0xFFFF 8 0, .rcCounterRead (.pf 0) ⟨0x1FFFFFFF, 8⟩ 3, .fwChunk 0 (2 ^ 32 - 1) 0 [],
      .cpl 0 .none 0 (2 ^ 32 - 1) 0 [],
      .intervalCloseReceived 0 (2 ^ 32 - 1), .redTimeout 0 65535, .stIncrWrite 0 4 0, .stIncrWrite 0 8 0, .fwReq 0 .none 0 (2 ^ 64 - 1),
      .policy 0 { rates := List.replicate 8 none }, .regRd 0 0x7FF none, .widthGo 0 {} 0 false (2 ^ 48 - 1), .ddrTempPoll (List.replicate 16 0),
      .ddrUe (2 ^ 41 - 1), .holdTest 255, .sentinelThermal 0 0 2047, .sentinelThermal 0 0 (-2048)] : List Instr).all (fun i => i.wf) = true := by
  decide

/-- Stamps beyond the 34 bits of seconds of R111. -/
theorem test_wf_times :
    let t : Ns := 2 ^ 34 * nsPerSec
    ([.unfold 0 {} t, .sync 0 {} {} (t * 65536), .delayReq 0 {} 0 0 (t * 65536), .delayResp 0 {} (t * 65536) 0,
      .timed 0 {} 0 0 0 (t * 65536), .syncInEdge (t * 65536), .holdAtMessage 0 t, .releaseAtMessage 0 t,
      .sentinelTimeExchange 0 t] : List Instr).all (fun i => !i.wf) = true ∧
    ([.unfold 0 {} (t - 1), .holdAtMessage 0 (t - 1), .syncInEdge (t * 65536 - 1)] : List Instr).all (fun i => i.wf) = true := by decide

/-! ## What the statements assume can be met: chapters 2-4 -/

/-- A ready core; loads and stores that end exactly at the end of the SRAM; a legal pairing and its highest slice; a pass. -/
theorem witness_ScalarAndDpuResults :
    let b := run { g := [(1, 0xFFFF8), (2, 0x00)], passes := [{ sum := 1 }] }
    (coreRuns b 0 = true ∧ (getCore b 0).wait = .none) ∧
    (gGet (getCore b 0) 1 + immOf 0).toNat + accessBytes 3 = 0x100000 ∧
    pairOk (field (gGet (getCore b 0) 2) 0 4) (field (gGet (getCore b 0) 2) 4 4) = true ∧
    0 < inSlices (dpuOf (getCore b 0) 0).aFmt.toNat ∧ (dpuOf (getCore b 0) 0).aFmt ≠ 5 ∧
    (getCore b 0).passes = [{ sum := 1 }] := by decide

theorem witness_VectorInstructionResults :
    let b := run { g := [(1, 0xFFFC0), (3, 0x20), (4, 0x804)] }
    (coreRuns b 0 = true ∧ (getCore b 0).wait = .none) ∧ (gGet (getCore b 0) 1 + immOf 0).toNat + 64 = 0x100000 ∧
    formOk (fpForm (gGet (getCore b 0) 3)) = true ∧ (fmtOf 0 0).isSome = true ∧
    formOk (fpForm (gGet (getCore b 0) 4)) = true ∧ (fmtOf 4 8).isSome = true := by decide

theorem witness_XaccInstructionResults :
    let t : Tile := {}
    let b : Block := { run { g := [(1, 127), (2, 0xFFFC0), (3, 7), (4, 0x10)], tile := some 0 } with ver := { tiles := [t] } }
    (coreRuns b 0 = true ∧ (getCore b 0).wait = .none) ∧ xBusy (getCore b 0) 0 = false ∧
    (gGet (getCore b 0) 1).toNat = 127 ∧ xBusy (getCore b 0) 127 = false ∧ imageAt (gGet (getCore b 0) 2).toNat = true ∧
    (gGet (getCore b 0) 3).toNat < 8 ∧
    ((fpForm (gGet (getCore b 0) 4)).fmt ≤ 8 ∧ (fpForm (gGet (getCore b 0) 4)).rnd ≤ 4 ∧
      (field (gGet (getCore b 0) 4) 16 4 + 1) * laneBytesOf (fpForm (gGet (getCore b 0) 4)).fmt ≤ 64) ∧
    (xGet (getCore b 0) 0).ovf = false ∧ coreTile b 0 = some t ∧ outOfOrder (getCore b 0).tally 0 = false := by decide

theorem witness_MessageResults :
    let b := run { g := [(1, 0), (2, 0xFFFC0), (3, 255), (5, 16)],
                   credits := [{ target := 0, mbox := 0, flits := 1 }],
                   mbox := [(0, { size := 16 }), (1, { msgs := [{ sender := 1 }] })] }
    let b' : Block := { b with col := { b.col with mesh := [{ src := 1, bytes := zeroBytes 64 }], meshEv := [{ src := 1, input := 32, count := 1 }],
                                                   meshCredit := [{ sender := 0, receiver := 1, flits := 1 }] } }
    (coreRuns b 0 = true ∧ (getCore b 0).wait = .none) ∧ relCore b 0 (gGet (getCore b 0) 1).toNat = some 0 ∧
    (getCore b 0).lostCredit.contains (0, 0) = false ∧ (gGet (getCore b 0) 2).toNat + 64 = 0x100000 ∧
    creditOf (getCore b 0) 0 0 = 1 ∧
    boxGranted (boxOf b 0 0) + boxHeld (boxOf b 0 0) + (gGet (getCore b 0) 5).toNat = (boxOf b 0 0).size ∧
    (boxOf b 0 1).msgs = [{ sender := 1 }] ∧ (boxOf b 0 2).msgs = [] ∧ boxGranted (boxOf b 0 2) = 0 ∧
    (gGet (getCore b 0) 3).toNat = 255 ∧ coreGone b' 0 = false ∧
    takeFirst (fun x : MeshMsg => x.src == 1 && x.dst == 0 && x.mbox == 0) b'.col.mesh = some ({ src := 1, bytes := zeroBytes 64 }, []) ∧
    takeFirst (fun x : MeshEv => x.src == 1 && x.dst == 0 && x.input == 32) b'.col.meshEv =
      some ({ src := 1, input := 32, count := 1 }, []) ∧
    takeFirst (fun x : MeshCredit => x.sender == 0 && x.receiver == 1 && x.mbox == 0) b'.col.meshCredit =
      some ({ sender := 0, receiver := 1, flits := 1 }, []) := by decide

theorem witness_EventInstructionResults :
    let t : Tile := { hdr := { recLen := 65536 } }
    let b : Block := { run { g := [(1, 1), (2, 0xF0000), (4, 65536)], tin := [(0, { count := 1 })], timerAt := some 5, tile := some 0,
                             dma := [(1, { busy := true })] } with ver := { tiles := [t] } }
    (coreRuns b 0 = true ∧ (getCore b 0).wait = .none) ∧ firstInput (getCore b 0) (gGet (getCore b 0) 1) = some 0 ∧
    (getCore b 0).timerAt = some 5 ∧ (tabGet {} (getCore b 0).dma 0).busy = false ∧ coreTile b 0 = some t ∧
    dmaOk t (gGet (getCore b 0) 2).toNat (gGet (getCore b 0) 3).toNat (gGet (getCore b 0) 4).toNat = true ∧
    (tabGet {} (getCore b 0).dma 1).busy = true ∧ (run {}).col.cores.any (fun x => x.2.dma.any fun y => y.2.busy) = false := by decide

/-- Tiles whose only record passes, one bounded; one that has just run one cycle past its slot's limit; an idle core. -/
theorem witness_CoreTileEnds :
    let t : Tile := { hdr := { subM := 1, subN := 1 } }
    let pass : Block := { run { tile := some 0, tally := { matched := 1 } } with ver := { tiles := [t] } }
    let bounded : Block := { run { tile := some 0, tally := { bounded := 1 } } with ver := { tiles := [t] } }
    let past : Block := { run { tile := some 0, tileStart := 5, cycle := BitVec.ofNat 64 (6 + slotLimit (run {}) 0 0) } with
                          ver := { tiles := [{ purpose := .recollate }] } }
    (coreRuns pass 0 = true ∧ (getCore pass 0).wait = .none) ∧ (getCore pass 0).progSlot < 8 ∧ (getCore pass 0).tdone = false ∧
    findTile pass.ver.tiles 0 = some t ∧ t.purpose = .first ∧ (getCore pass 0).evOvf = false ∧ (getCore pass 0).trimAtTdone = false ∧
    tallySum (getCore pass 0).tally = t.hdr.subM * t.hdr.subN ∧ tallyVerdict (getCore pass 0).tally = .pass ∧
    tallySum (getCore bounded 0).tally = t.hdr.subM * t.hdr.subN ∧ tallyVerdict (getCore bounded 0).tally = .passBounded ∧
    ((getCore past 0).progSlot < 8 ∧ (getCore past 0).tile = some 0 ∧ findTile past.ver.tiles 0 = some { purpose := .recollate } ∧
      (getCore past 0).tdone = false ∧
      (getCore past 0).tileStart.toNat + slotLimit past (clusterOf 0) (getCore past 0).progSlot + 1 = (getCore past 0).cycle.toNat) ∧
    (coreRuns (run {}) 0 = true ∧ (getCore (run {}) 0).wait = .none ∧ (getCore (run {}) 0).tile = none) := by
  intro t pass bounded past
  refine ⟨by decide, by decide, by decide, by decide, by decide, by decide, by decide, by decide, by decide, by decide, by decide,
    ⟨by decide, by decide, by decide, by decide, ?_⟩, by decide⟩
  have h := (Config.ucodeLimit (tabGet {} past.col.microcode 0).raw 0).isLt
  have m : slotLimit past 0 0 < 2 ^ 32 := Nat.max_lt.2 ⟨by decide, h⟩
  change 5 + slotLimit past 0 0 + 1 = (6 + slotLimit past 0 0) % 2 ^ 64
  omega

/-- A core under its specimen, which may pass and may fail; a trim that has waited 1 ms to the nanosecond. -/
theorem witness_CoreErrorsAndTrims :
    let t : Tile := {}
    let b : Block := { run { specimen := true } with ident := { adminPf := 3 } }
    let c : Block := { run { trimAtTdone := true, tile := some 0 } with ver := { tiles := [t] }, time := { nsec := 1000000 } }
    (getCore b 0).progSlot < 8 ∧ (getCore b 0).tile = none ∧ (recent600 b (getCore b 0).coreFaults).length < 2 ∧
    (getCore b 0).specimen = true ∧ b.fw.specTurn = [] ∧
    (∃ v first bad, specPassed (getCore b 0).specWant v first bad = true) ∧
    (∃ v first bad, specPassed (getCore b 0).specWant v first bad = false) ∧ b.ident.adminPf = (3 : Fin 4).val ∧
    (getCore c 0).trimAtTdone = true ∧ (getCore c 0).tile = some 0 ∧ (getCore c 0).progSlot < 8 ∧
    findTile c.ver.tiles 0 = some t ∧ t.purpose = .first ∧ (getCore c 0).trimAskedAt + 1000000 = nowNs c := by
  refine ⟨?_, ?_, ?_, ?_, ?_, ⟨0, 0, 0, ?_⟩, ⟨1, 0, 0, ?_⟩, ?_, ?_, ?_, ?_, ?_, ?_, ?_⟩ <;> decide

/-- `n` bytes that hold `w`, least significant first. -/
abbrev bytesOf (w n : Nat) : List Byte := (List.range n).map fun i => BitVec.ofNat 8 (w >>> (8 * i))

/-- The smallest program image (Table 3.11): 640 bytes, one instance of 1 × 1 cores, key slot 1, one section of 32 bytes loaded
at 0 and entered there, one MATCH entry, and 96 bytes of signature. -/
abbrev smallImage : List Byte :=
  bytesOf 0x50524743 4 ++ bytesOf 1 4 ++ bytesOf 640 4 ++ bytesOf 0 4 ++ bytesOf 0x01010101 4 ++ bytesOf 0 4 ++ bytesOf 4096 4 ++
  bytesOf 0x0101 4 ++ (bytesOf 512 4 ++ bytesOf 0 4 ++ bytesOf 32 4) ++ List.replicate 596 0

set_option maxRecDepth 20000 in
/-- One queued tile; a load into the lowest user slot (the image's signature is the manual's own open answer), an unload of
the highest; a load 10 ms old; a draining slot whose one placed core runs nothing. -/
theorem witness_DispatchAndPrograms :
    let b : Block := { ver := { tiles := [{}] } }
    let c : Block := { withTen ten with col := { slots := [(63, { state := .active, tenant := 1 }), (9, { state := .draining, origins := [0] }),
                                                           (10, { state := .loading, loadIss := some pf0 })] },
                                        time := { nsec := 10000000 } }
    b.col.dispatchEn = true ∧ (untrimmed b).isEmpty = false ∧ nextTile b = some {} ∧
    fromCreator c pf0 = true ∧ (getPslot c 8).state = .empty ∧
    (Config.signatureOk 1 (smallImage.take (smallImage.length - 96)) (smallImage.drop (smallImage.length - 96)) = true →
      imageSigned smallImage (getPslot c 8).minSvn = true) ∧
    imageOk smallImage 640 = true ∧ freeRects c (readImage smallImage) ≠ [] ∧
    (getPslot c 63).state = .active ∧ (getPslot c 63).tenant = pf0.tenant.val ∧
    (getPslot c 10).state = .loading ∧ (getPslot c 10).loadStart + 10000000 = nowNs c ∧ (getPslot c 10).loadIss = some pf0 ∧
    (getPslot c 9).state = .draining ∧
    ((getPslot c 9).origins.any fun o => (instCores c o).any fun c' => (getCore c c').tile.isSome) = false := by
  refine ⟨?_, ?_, ?_, ?_, ?_, ?_, ?_, ?_, ?_, ?_, ?_, ?_, ?_, ?_, ?_⟩
  case refine_6 =>
    intro h
    have k : (readImage smallImage).keySlot = 1 := by decide
    simp only [imageSigned, k, h]; decide
  all_goals decide

/-- A slot of tenant 1: a record in time, one after the slot's marker, a lost tile, the interval's close, the deadline to the
nanosecond, a policy that changes nothing and a read of no verdict. -/
theorem witness_RecordsAndVerdicts :
    let h : TileHdr := { tap := { accDesc := 0x55 } }
    let b := withTen { ten with gatherings := [{ n := 1 }] }
    let late := withTen { ten with gatherings := [{ n := 1, markers := [0] }] }
    let due : Block := { b with time := { sec := 1 } }
    slotTenant? b 0 = some 1 ∧ lateRecord b 1 0 (ownHdr b 1 0 h).gathering = false ∧
    tabGet 0 (getSlot b 0).editionCopy (ownHdr b 1 0 h).domain.val = (ownHdr b 1 0 h).edition ∧
    judgeable (ownHdr b 1 0 h).strict (ownHdr b 1 0 h).tap = true ∧ (untrimmed b).isEmpty = false ∧
    queueFull b 1 (ownHdr b 1 0 h).recLen = false ∧ slotTenant? late 0 = some 1 ∧
    lateRecord late 1 0 (ownHdr late 1 0 h).gathering = true ∧ isSeal .fetch = false ∧
    (getG b 1 (ownHdr b 1 0 h).gathering).deadlinePassed = false ∧ (ownHdr b 1 0 h).tenant.val = 1 ∧
    findTile b.ver.tiles b.ver.nextId = none ∧ hasG b 1 1 = true ∧ (getG due 1 1).deadlinePassed = false ∧
    (getG due 1 1).rolledBack = false ∧ (getG due 1 1).startTime + due.ver.waitMs * 1000000 = nowNs due ∧
    (due.ver.tiles.any fun x => ofInterval 1 1 x && !tileFinal x) = false ∧
    fromCreator b pf0 = true ∧ policyOk b {} (getTen b pf0.tenant) = true ∧
    fromTenant b pf0 = true ∧ verdictsGone b 1 1 = false := by decide

/-- A sentinel with a declaration: 255 descriptors out, the limit of accepted ones; a class that samples at exponent 0, which
every draw meets, one that does not sample; a page's bytes, its last ones, the last block of a tile with its seal, a read that
fails and reads that are exactly 1 ms old. -/
theorem witness_TapsAndReads :
    let d : Declare := {}
    let sn (x : Sentinel) : Block := { sn := [(0, x)], time := { nsec := 1000000 } }
    let a := sn { decl := some d, tapOut := 255, rates := [some 0, none] }
    let t : TapDesc := {}
    let page := sn { pageReads := [{}], reqs := [{ tag := 1, use := .page, bytes := 128, got := 64 }] }
    let q : HingeReq := { tag := 1, use := .page, bytes := 128, got := 64 }
    let k : TileBlock := { elemBytes := 8 }
    let data := zeroBytes 8 ++ leBytes 8 (sealOf { k with got := zeroBytes 8 }).toNat
    let f : Fetch := { cur := some k }
    let q' : HingeReq := { tag := 2, bytes := 16 }
    let tile := sn { fetches := [f], reqs := [q'], tetherUp := true, shipQ := [.fetching f.hdr.tapSeq] }
    (getSn (sn {}) 0).decl = none ∧ (getSn a 0).decl = some d ∧ (getSn a 0).tapOut < 256 ∧ tapOk t = true ∧
    tapOk { t with m := 0 } = false ∧ nthD none (getSn a 0).rates t.cls.toNat = some 0 ∧
    nthD none (getSn a 0).rates ({ t with cls := 1 } : TapDesc).cls.toNat = none ∧
    outFmtOk (readAcc t.accDesc).outFmt = true ∧
    ((getSn page 0).reqs.find? fun y => y.tag == 1) = some q ∧ q.use = .page ∧ (getSn page 0).pageReads = [{}] ∧
    q.got + (zeroBytes 63).length + 1 = q.bytes ∧ q.got + (zeroBytes 64).length = q.bytes ∧
    q.at' + 1000000 = nowNs page ∧
    ((getSn tile 0).reqs.find? fun y => y.tag == 2) = some q' ∧ q'.use = .tile ∧ (getSn tile 0).fetches = [f] ∧ f.cur = some k ∧
    f.todo = [] ∧ f.discard = false ∧ q'.got + data.length = q'.bytes ∧ q'.at' + 1000000 = nowNs tile ∧
    blockNext (feedBlock k (q'.addr + q'.got) data) = none ∧ sealOk (feedBlock k (q'.addr + q'.got) data) = true ∧
    (getSn tile 0).tetherUp = true ∧ urgentFirst (getSn tile 0) = false ∧ f.lost = false ∧
    (getSn tile 0).shipQ = [.fetching f.hdr.tapSeq] ∧ ({} : PageRead).discard = false ∧ (1 : Byte) ≠ 0 := by decide +kernel

/-- The rate exponent 0 keeps every descriptor, whatever the generator draws. -/
theorem witness_TapsAndReads_draw (seed : W64) (k : Nat) : Config.draw seed k % 2 ^ 0 = 0 := Nat.mod_one _

/-- The last bytes that complete a page of 65,536 bytes. -/
theorem witness_TapsAndReads_page :
    65536 ≤ (zeroBytes 65472).length + (zeroBytes 64).length := by simp only [zeroBytes, List.length_replicate]; decide

/-- A declaration accepted and one refused; engines of each kind; an event code of 127 and one of 128; acknowledgements; a
reset; the last write of a restored page; an arrival that another local rank's arrival is still to follow. -/
theorem witness_HingeMessages :
    let d : Declare := { domains := [{ valid := true }] }
    let up : Block := { sn := [(0, { phase := .running, decl := some d, engines := [(0, { busy := true, progress := 1 })], tetherUp := true,
                                     restore := [{ tags := [7] }], reachWait := true }), (1, { phase := .waitDeclare, decl := some d })],
                        tenants := [(1, { exists' := true, ranks := 2, places := [0x1000000000, 0x1000001000] })] }
    let w : RestoreWork := { tags := [7] }
    snFirmware (getSn up 0) = true ∧ declReason (getSn up 0) d = 0 ∧ declReason (getSn up 0) { d with nUnits := 0 } = 0 + 1 ∧
    (getSn up 0).decl = some d ∧ (1 : W32) = (tabGet {} (getSn up 0).engines 0).progress ∧ (tabGet {} (getSn up 0).engines 0).busy = true ∧
    (tabGet {} (getSn up 0).engines 1).busy = false ∧ (127 : Byte).toNat < 128 ∧ 128 ≤ (128 : Byte).toNat ∧ (getSn up 0).reachWait = true ∧
    (getSn up 1).reachWait = false ∧ 63 ∉ (getSn up 0).inReset ∧ (getSn up 0).restore = [w] ∧ 7 ∈ w.tags ∧ 8 ∉ w.tags ∧
    (getSn up 1).tetherUp = false ∧ (getSn up 0).tetherUp = true ∧ slotTenant? up 0 = some 1 ∧
    slotRank? up (getTen up 1) 0 = some 0 ∧ barConfigured up 1 0 = true ∧ 0 ∈ barLocal up 1 0 ∧
    (getBar up 1 0).round % 65536 = (0 : W16).toNat ∧ (getBar up 1 0).lap = {} ∧ (getLink up (8 + 0)).slotPending = false ∧
    1 ∈ barLocal up 1 0 ∧ 1 ∉ (getBar up 1 0).arrived := by decide

/-- Every hypothesis of the sentinel's own events, each at its last nanosecond and its lowest temperature. -/
theorem witness_SentinelEvents :
    let sn (x : Sentinel) : Block := { sn := [(0, x)], slots := [(0, { pwren := true })], links := [(8, { width := 4 })],
                                       time := { nsec := 100000000 } }
    let now : Ns := 100000000
    let a := sn {}
    let p := sn { powered := true, decl := some {}, lastDecl := some {}, holdPending := [now], releaseDue := some now, tetherUp := true,
                  reachWait := true, raisedAt := 99994900, hangLimitMs := 100, engines := [(255, { busy := true })],
                  trimWait := [(4095, true, 99000000)], fwSwitchAt := some now, fwSecond := some {} }
    let q := sn { powered := true }
    let x := getSn p 0
    (getSn a 0).powered = false ∧ (getSlot a 0).pwren = true ∧ x.powered = true ∧ x.tetherUp = true ∧ x.shipQ = [] ∧ x.fetches = [] ∧
    (x.holdPending.find? fun u => decide (u ≤ snNow p 0)) = some now ∧ now = snNow p 0 ∧ urgentFirst x = false ∧ x.sntHold = false ∧ x.releaseDue = some now ∧
    x.decl = some {} ∧ x.reachWait = true ∧ x.raisedAt + ({} : Declare).holdReach + 5000 = snNow p 0 ∧
    ((getSn q 0).powered = true ∧ (getSn q 0).holdOnLossEn = true ∧ (getSn q 0).tetherUp = false ∧
      (getSn q 0).tetherDownAt + 100000000 = nowNs q) ∧ (getLink p (8 + 0)).width = 4 ∧
    x.hangEn = true ∧ (tabGet {} x.engines 255).busy = true ∧ (tabGet {} x.engines 255).hung = false ∧
    (tabGet {} x.engines 255).unit.toNat ∉ x.trimBits ∧ (tabGet {} x.engines 255).changedAt + x.hangLimitMs * 1000000 = nowNs p ∧
    (x.trimWait.find? fun y => y.1 == (4095 : BitVec 12).toNat) = some ((4095 : BitVec 12).toNat, true, 99000000) ∧
    99000000 + 1000000 = nowNs p ∧ x.fwSwitchAt = some now ∧ x.fwSecond = some {} ∧ (400 : Int) ≤ 400 := by decide

/-- A command that hands its cell on, the next SEQ, a copy of the last SEQ and of the farthest one, and the two ends of the
cells that wait; the census and folds of a ring, and a folded hop's times at their last nanosecond. -/
theorem witness_CellsRingsAndFolds :
    let h : CellHdr := { seq := 8 }
    let hop : Hop := { seqRx := 7, rxAny := true }
    let b : Block := { mid with spine := { mid.spine with hops := [(0, hop)] } }
    let head : Block := { spine := { ports := [(1, { state := .active })] } }
    let fold : Block := { mid with spine := { mid.spine with hops := [(0, { folded := true })],
                                                             ports := [(0, { state := .active, grade := .good })] },
                                   time := { sec := 10 } }
    let held : Block := { fold with spine := { fold.spine with unfoldAuto := false } }
    let offer : Block := { mid with spine := { mid.spine with hops := [(0, { folded := true, unfoldOffer := some 9 })] } }
    let due : Block := { mid with spine := { mid.spine with hops := [(0, { folded := true, unfoldAt := some 5 })] }, time := { nsec := 5 } }
    (∀ s, exec (.fold 0 ⟨h, 63⟩) s = act s (receiveCell (0 : Fin 8).val h (.fold 63) 0)) ∧ hasSeq h (.fold 63) = true ∧
    nextCell b 0 h ∧ (getHop b (portHop (0 : Fin 8))).rxAny = true ∧ seqAhead hop 7 = 0 ∧ seqAhead hop (7 + 32768) = 32768 ∧
    seqAhead hop 9 = 2 ∧ seqAhead hop (7 + 32767) = 32767 ∧ (∀ w ∈ hop.waiting, w.hdr.seq ≠ 9) ∧
    ringMember b h.level = true ∧ portRing b (0 : Fin 8) = h.level.val ∧
    (0 : BitVec 64).getLsbD (memberNo 0 (ownPlace b)) = false ∧ hopUsable b (eastHop 0) = true ∧
    ¬((getRing b 0).map = 3 ∧ (getRing b 0).epoch = 0) ∧ (63 : Fin 64).val ≠ memberNo 0 (ownPlace b) ∧
    nextCell b 0 h ∧ nextCell b 0 { h with lap2 := true } ∧
    nextCell head 0 { lap2 := true } ∧ portRing head (0 : Fin 8) = 0 ∧ isHead head 0 = true ∧ hopUsable head (eastHop 0) = true ∧
    nextCell fold 0 {} ∧ (getHop fold (portHop (0 : Fin 8))).folded = true ∧ foldIsHeld fold (portHop (0 : Fin 8)) = false ∧
    (getHop fold 0).unfoldOffer = none ∧ foldIsHeld held (portHop (0 : Fin 8)) = true ∧ (getHop held (portHop (0 : Fin 8))).folded = true ∧
    foldIsHeld offer (portHop (0 : Fin 8)) = false ∧ (getHop offer (portHop (0 : Fin 8))).folded = true ∧
    (getHop offer (portHop (0 : Fin 8))).unfoldOffer = some 9 ∧ (hopPorts 0).find? (goodFor10 fold) = some 0 ∧
    (getHop due 0).folded = true ∧ foldIsHeld due 0 = false ∧ (getHop due 0).unfoldAt = some 5 ∧ 5 = nowNs due := by
  refine ⟨fun s => rfl, ?_⟩
  unfold nextCell
  decide

/-- A standby rail without errors, a rail in self-test, the rails of a failover, a window and a failback at their last
nanosecond, with and without a cell that waits. -/
theorem witness_RailsAndFailover :
    let ports : Tab SpPort := [(0, { state := .active }), (2, { state := .standby, grade := .good })]
    let b : Block := { spine := { ports := ports, hops := [(0, { failoverSent := true })] } }
    let c (h : Hop) : Block :=
      { spine := { ports := [(0, { state := .standby, grade := .good }), (2, { state := .active })], hops := [(0, h)] },
        time := { sec := 10 } }
    let now : Ns := 10000000000
    ((getPort b 2).state = .standby ∧ (getPort b 2).lastUncorr = none ∧ hopPort b (portHop (2 : Fin 8)) ≠ (2 : Fin 8).val ∧
      (getHop b (portHop (2 : Fin 8))).folded = false ∧ (getPort b 2).grade ≠ .failed ∧ (getPort b 2).selftest = true) ∧
    (hopPort b (portHop (0 : Fin 8)) = (0 : Fin 8).val ∧ (getHop b (portHop (0 : Fin 8))).failoverSent = true) ∧
    standbyOk b (portHop (0 : Fin 8)) = true ∧ b.ident.adminPf = (0 : Fin 4).val ∧
    ((getHop (c { dualUntil := some now }) 0).dualUntil = some now ∧ now = nowNs (c {}) ∧
      (getHop (c { dualUntil := some now }) 0).waiting = [] ∧ (getHop (c { dualUntil := some now, waiting := [{}] }) 0).waiting ≠ []) ∧
    (let e := c { railB := true }
     e.spine.failbackAuto = true ∧ (getHop e 0).railB = true ∧ (getHop e 0).folded = false ∧ (getHop e 0).dualUntil = none ∧
      (getHop e 0).failbackOffer = none ∧ (getPort e (hopRail 0 false)).state = .standby ∧ goodFor10 e (hopRail 0 false) = true) ∧
    (let e := c { railB := true, failbackOffer := some 1 }
     (getHop e (portHop (0 : Fin 8))).folded = false ∧ (getHop e (portHop (0 : Fin 8))).railB = true ∧ e.spine.failbackAuto = true ∧
      (getHop e (portHop (0 : Fin 8))).failbackOffer = some 1) ∧
    (let e := c { railB := true, failbackAt := some now }
     (getHop e 0).failbackAt = some now ∧ (getHop e 0).railB = true ∧ (getHop e 0).folded = false ∧ standbyOk e 0 = true) := by decide

/-- Posts of the highest operation and of one rank among two or alone; partials that pass or return; a lap and a post at
their last nanosecond. -/
theorem witness_Reductions :
    let lone : Block := { withTen { ten with places := [0x1000050000] } with ident := { tray := 5 } }
    let two : Block := { withTen { ten with ranks := 2, places := [0x1000050000, 0x1000051000] } with ident := { tray := 5 } }
    let p : ReducePostP := { op := 6, resultAddr := 64 }
    let r : RedRound := { posts := [{ iss := pf0 }] }
    let x : RedBody := { count1 := 1 }
    let wait : RedRound := { waitSince := some 0, lap := { waiting := [({}, x)] } }
    let at' (n : Nat) (r : RedRound) : Block :=
      { mid with spine := { mid.spine with chans := [(n, { rounds := [r] })] },
                 tenants := [(1, { exists' := true, ranks := 1, places := [midSlot] })], time := { nsec := 200000000 } }
    (fromTenant two pf0 = true ∧ postOk p = true ∧ p.chan = 0xFF ∧ tenantHeld two pf0.tenant = false ∧
      (getChan two pf0.tenant).rounds = [] ∧ roundEnded (getChan two pf0.tenant) 0 = false ∧ p.rank ∈ localRanks two (getTen two pf0.tenant) ∧
      1 ∈ localRanks two (getTen two pf0.tenant) ∧ 1 ≠ p.rank ∧ uplinkLevel two = none) ∧
    ((getTen lone 1).places.length = 1 ∧ loneMember lone ∧ fromTenant lone pf0 = true ∧ tenantHeld lone 1 = false ∧ roundEnded (getChan lone 1) 0 = false ∧ p.rank ∈ localRanks lone (getTen lone 1) ∧
      ({ p with op := 5 } : ReducePostP).op ≠ 6 ∧ postOk { p with op := 5 } = true) ∧
    (nextCell mid 0 { chan := 1023 } ∧ plainMember mid ∧ x.count1.toNat < 2 ∧ roundOf (getChan mid 1023) x.round = some 0 ∧
      (1023 : BitVec 11).toNat < 1024 ∧ (getChan mid 1023).rounds = [] ∧ localRanks mid (getTen mid 1023) = [] ∧
      1024 ≤ (1024 : BitVec 11).toNat ∧ roundOf (getChan mid 1024) x.round = some 0) ∧
    (nextCell (at' 1 r) 0 { chan := 1, lap2 := true } ∧ plainMember (at' 1 r) ∧ roundOf (getChan (at' 1 r) 1) x.round = some r.round ∧
      (getChan (at' 1 r) 1).rounds = [r] ∧ localRanks (at' 1 r) (getTen (at' 1 r) 1) ≠ [] ∧
      roundOf (getChan (at' 1024 r) 1024) x.round = some r.round ∧ (getChan (at' 1024 r) 1024).rounds = [r]) ∧
    (plainMember (at' 1 wait) ∧ (getChan (at' 1 wait) 1).rounds = [wait] ∧ wait.waitSince = some 0 ∧
      100000000 + redTimeoutNs (at' 1 wait) = nowNs (at' 1 wait)) ∧
    (0 + 2 * redTimeoutNs (at' 1 r) = nowNs (at' 1 r)) := by
  unfold nextCell plainMember loneMember
  decide

/-- Groups 1 and 0 of a tenant: set, removed, an arrival before another local rank; cells that pass and that bring T_r; a
release at its nanosecond. -/
theorem witness_Barriers :
    let iss : Issuer := { tenant := 1 }
    let b : Block := { mid with tenants := [(1, { exists' := true, ranks := 2, places := [midSlot, 0x1000051000], s := 0 })] }
    let far : Block := { mid with tenants := [(1, { exists' := true, ranks := 1, places := [0x1000000000] })] }
    let due : Block := { mid with tenants := [(1, { exists' := true, ranks := 2, places := [midSlot, 0x1000051000], s := 0,
                                                    barriers := [(0, { release := some 5, arriveIss := [(0, iss, 64)] })] })],
                                  time := { nsec := 5 } }
    let p : BarrierArmP := { action := 1 }
    (isPf iss = true ∧ iss.pf.val = (getTen b 1).creatingPf ∧ barBusy b 1 3 = false ∧ within 1 32768 p.membersLen = true ∧
      (∀ k ∈ [0, 1], k < (getTen b 1).ranks)) ∧
    (fromTenant b iss = true ∧ p.resultAddr % 16 = 0 ∧ p.rank ∈ barLocal b 1 0 ∧ tenantHeld b 1 = false ∧ (getBar b 1 0).lap = {} ∧
      uplinkLevel b = none ∧ 1 ∈ barLocal b 1 0 ∧ 1 ≠ p.rank ∧ 1 ∉ (getBar b 1 0).arrived) ∧
    (nextCell far 0 {} ∧ plainMember far ∧ (getTen far 1).exists' = true ∧ 0 = (getBar far 1 0).round % 65536 ∧
      (getBar far 1 0).lap = {} ∧ (getBar far 1 0).release = none ∧ localRanks far (getTen far 1) = [] ∧
      isParticipant far (getTen far 1) = false) ∧
    (nextCell b 0 { lap2 := true } ∧ plainMember b ∧ (getBar b 1 0).release = none ∧ barLocal b 1 0 ≠ [] ∧ nowNs b < 1) ∧
    ((getBar due 1 0).release = some 5 ∧ 5 = nowNs due ∧ (getBar due 1 0).withheld = false ∧ heldBack (getTen due 1).hold 5 = false ∧
      (getBar due 1 0).early = [] ∧ (getBar due 1 0).arriveIss = [(0, iss, 64)] ∧ barLocal due 1 0 ≠ [] ∧ uplinkLevel due = none ∧
      (getTen due 1).s = 0) := by
  unfold nextCell plainMember
  decide

/-- A vote to post, cells of a vote before and after this GLT's own, a failed vote, a sewn one; both actions of SEW_VOTE. -/
theorem witness_SewVotes :
    let g : Gathering := { n := 1, phase := .voting, colophonOk := true, markers := [0] }
    let b : Block := { mid with tenants := [(1, { exists' := true, ranks := 1, places := [midSlot], started := 1, gatherings := [g] })] }
    let h : CellHdr := { chan := 1 }
    unposted b 1 = [1] ∧ isParticipant b (getTen b 1) = true ∧ prevEnded b 1 1 = true ∧ (getG b 1 1).failDue = false ∧
    canPass b 1 1 = true ∧ plainMember b ∧ (getG b 1 1).lap = {} ∧ h.chan.toNat % 1024 = 1 ∧ nextCell b 0 h ∧
    (getTen b 2).exists' = false ∧ (getTen b 1).exists' = true ∧ (getG b 1 1).localVote = .notPosted ∧
    nextCell b 0 { h with abort := true } ∧ hasG b 1 1 = true ∧ (getG b 1 1).round = .pending ∧ (getG b 1 1).rolledBack = false ∧
    (getTen b 1).coldEvery = 0 ∧ (getTen b 1).rec'.candidates = [] ∧ (getBar b 1 0).lap = {} ∧
    fromTenant b pf0 = true ∧ isPf pf0 = true ∧ pf0.pf.val = (getTen b 1).creatingPf ∧ openGathering b 1 = some 1 := by
  unfold nextCell plainMember
  decide

/-- A broadcast to a load area whose one participant is this tray, of a length at the bound, one of a held tenant, and one that
goes out in one frame; frames that pass on, that arrive with and without their trailer's check, and one whose load area is
absent; acknowledgements of both kinds and the timeout of a broadcast at its nanosecond. -/
theorem witness_Broadcasts :
    let p : BroadcastP := { length := 64 * gib, hostBytes := [1] }
    let ty : FrameType := .bcast { use := .loadArea 0 }
    let r : TenantRec := { ten with places := [midSlot] }
    let area : Extent := { kind := .loadArea, tenant := 1, length := 64 }
    let b : Block := { mid with tenants := [(1, r)], bd := { extents := [area] } }
    let held : Block := { mid with tenants := [(1, { r with hold := { phase := .held } })] }
    let none' : Block := { b with bd := {} }
    let f := sealFrame ty { tenant := 1, dest := tenantScope b 1, src := 0x1000010000, payload := zeroBytes 64 }
    let x : BcastSrc := { expected := [0x1000010000], deadline := 5 }
    let e : Block := { mid with spine := { mid.spine with bcasts := [x] }, time := { nsec := 5 } }
    let ack (n : Byte) : DataFrame := sealFrame .bcastAck { tenant := 1, dest := ownPlace mid, src := 0x1000010000, payload := n :: zeroBytes 63 }
    (b.spine.bcastWait = [] ∧ p.scope = 0 ∧ fromCreator b pf0 = true ∧ p.rsv = false ∧ p.sourceKind = 0 ∧ p.source % 64 = 0 ∧
      p.length % 64 = 0 ∧ p.length ≤ 64 * gib ∧ p.resultAddr % 16 = 0 ∧ b.spine.bcasts = [] ∧ tenantHeld b 1 = false) ∧
    (tenantHeld held 1 = true ∧ fromCreator held pf0 = true) ∧
    (uplinkLevel b = none ∧ hopUsable b 1 = true ∧ nextMember b 0 true ≠ placeTray (ownPlace b) ∧
      (cutFrames ty (frameOf b 1 (tenantScope b 1) b.spine.nextStream) p.hostBytes).length = 1) ∧
    ((writeLoad b 1 p.destOffset p.hostBytes).isSome = true ∧ participants (getTen b 1) = [ownPlace b]) ∧
    (freshFrame b 0 f ∧ f.src ≠ ownPlace b ∧ portHop (0 : Fin 8) = 0 ∧ nextMember b 0 true ≠ bcastEntry 0 (ownPlace b) f.src) ∧
    (bcastTarget b { use := .loadArea 0 } f = true ∧ f.crc + 1 ≠ frameCrc ty { f with crc := f.crc + 1 } ∧ wholeFrame b ty f ∧
      (writeLoad b f.tenant 0 f.payload).isSome = true) ∧
    (bcastTarget none' { use := .loadArea 0 } f = true ∧ wholeFrame none' ty f ∧ writeLoad none' f.tenant 0 f.payload = none) ∧
    (e.spine.bcastWait = [] ∧ e.spine.bcasts = [x] ∧ arrives e 0 .bcastAck (ack 0) ∧ (ack 0).stream = x.stream ∧ (ack 0).src ∈ x.expected ∧
      nthD 0 (ack 0).payload 0 = 0 ∧ (∀ q ∈ x.expected, q = (ack 0).src ∨ q ∈ x.acked) ∧ x.isCommand = true) ∧
    (arrives e 0 .bcastAck (ack 255) ∧ nthD 0 (ack 255).payload 0 ≠ 0 ∧ (ack 255).src ∉ x.acked ∧ x.deadline = nowNs e) := by
  unfold arrives freshFrame wholeFrame
  intro p ty r area b held none' f x e ack
  refine ⟨by decide, by decide, by decide, ⟨by decide, by decide⟩, ⟨⟨rfl, by decide⟩, by decide, by decide, by decide⟩,
    ⟨by decide, resealed _ _, ⟨sealed_crc _ _, rfl, rfl, rfl, rfl⟩, by decide⟩, ⟨by decide, ⟨sealed_crc _ _, rfl, rfl, rfl, rfl⟩, by decide⟩,
    ⟨by decide, by decide, ⟨⟨rfl, by decide⟩, ⟨sealed_crc _ _, rfl, rfl, rfl, rfl⟩, by decide⟩, rfl, .head _, rfl, fun q h => .inl (List.mem_singleton.1 h), rfl⟩,
    ⟨⟨rfl, by decide⟩, ⟨sealed_crc _ _, rfl, rfl, rfl, rfl⟩, by decide⟩, (by decide : (255 : Byte) ≠ 0), List.not_mem_nil, by decide⟩

/-- The counter's loads at the last nanosecond of a second, rates at both ends of their range and beside them, a slew at its
bound and beyond, its last nanosecond, and the three actions of TIME_SET. -/
theorem witness_TimeCounter :
    let b : Block := { time := { state := .root, setNsec := 999999999, spanLeft := 1 } }
    let roll : Block := { ck := { plls := [(0, { state := .ready }), (2, { state := .ready })] },
                          time := { nsec := 999999999, frac := 0xFFFFFFFF, loadPending := true, loadIss := some pf0 } }
    let now' : Block := { time := { loadNow := some (7, some pf0) } }
    (b.ident.adminPf = (0 : Fin 4).val ∧ b.time.setNsec.toNat = 999999999) ∧
    ((0x0 : W32).getLsbD 2 = false ∧ (0x0 : W32).getLsbD 1 = false ∧ (0x2 : W32).getLsbD 1 = true ∧ (0x2 : W32).getLsbD 0 = false) ∧
    (timeRuns roll = true ∧ roll.time.loadPending = true ∧ rollsOver roll = true ∧ roll.time.setNsec.toNat ≤ 999999999 ∧
      roll.time.loadIss = some pf0 ∧ roll.time.loadNow = none ∧ now'.time.loadNow = some (7, some pf0) ∧ now'.time.loadIss = none) ∧
    (within incrLow incrHigh (field (0x00FFDF3B65 : W64) 0 40) = true ∧ within incrLow incrHigh (field (0x010020C49B : W64) 0 40) = true ∧
      within incrLow incrHigh (field (0x00FFDF3B64 : W64) 0 40) = false ∧ within incrLow incrHigh (field (0x010020C49C : W64) 0 40) = false ∧
      within incrLow incrHigh (field (1 : W64) 0 8 * 2 ^ 32 + b.time.incrLoHeld.toNat) = true) ∧
    (mayAdd b (1000 : W32).toInt b.time.adjSpan = true ∧ mayAdd b (1001 : W32).toInt b.time.adjSpan = false ∧
      mayAdd b (-1000 : W32).toInt b.time.adjSpan = true ∧ mayAdd b (-1001 : W32).toInt b.time.adjSpan = false) ∧
    (b.time.spanLeft = 1 ∧ 0 ≤ (counter b : Int) + b.time.adjRem ∧
      (counter b : Int) + b.time.adjRem < 2 ^ 80 * (nsPerSec : Int)) ∧
    (isAdmin b pf0 = true ∧ b.time.state = .root ∧ b.time.loadNow = none ∧ ({ slewIss := [pf0] } : SpineTime).slewIss = [pf0] ∧ mayAdd b 1 1000 = true ∧ mayAdd b 0 (2 ^ 32 - 1) = true ∧
      liveTenants b = [] ∧ b.time.loadPending = false ∧ 999999999 < nsPerSec) := by decide

/-- An interval without a SYNC after three, cells of the upstream, an exchange at the bounds of the offset, and holdover at its
nanosecond. -/
theorem witness_SyncExchanges :
    let e : Exchange := {}
    let b (t : SpineTime) : Block := { mid with time := t }
    let up : Block := b { upValid := true, exchange := some e }
    let out : SpineTime := { upValid := true, exchange := some e, state := .locked, missedSync := 3, badRun := 3 }
    let acq : SpineTime := { upValid := true, exchange := some e, state := .acquiring, goodRun := 15 }
    let offset (t4 : Nat) : Int := (((e.t2 : Int) - e.t1) - ((t4 : Int) - e.t3)) / 2 - tabGet 0 up.time.asym (0 : Fin 8)
    let lost : Block := b { state := .holdover, sec := 60 }
    let head : Block := { spine := { ports := [(1, { state := .active, nbr := 0x2000010000 })] } }
    (head.time.syncEn = true ∧ hopUsable head (1 : Fin 4) = true ∧ takesFromUs head (1 : Fin 4) = true) ∧
    ((b out).time.state = .locked ∧ (b out).time.syncSeen = false ∧ 3 = (b out).time.missedSync) ∧
    (nextCell up 0 {} ∧ up.time.syncEn = true ∧ up.time.upValid = true ∧ up.time.upPort = (0 : Fin 8).val ∧
      up.time.exchange = some e ∧ up.time.discard = 0 ∧ up.time.followDue = false ∧ (b { discard := 1 }).time.discard = 0 + 1) ∧
    ((b acq).time.state = .acquiring ∧ (offset 1310720).natAbs = 655360 ∧ 15 = (b acq).time.goodRun ∧
      (offset 3276802).natAbs = 1638401 ∧ 3 = (b out).time.badRun ∧ (offset 3276800).natAbs = 1638400) ∧
    (lost.time.state = .holdover ∧ lost.time.holdoverAt + lost.time.holdoverLimitS * nsPerSec = nowNs lost) := by
  unfold nextCell
  decide

/-- Queues of 15 and of 16 entries, launches 1 µs ahead and less, 63 in the queue, one of each kind that is due now, and the pins at
their bounds. -/
theorem witness_TimedEvents :
    let b (t : SpineTime) : Block := { spine := { ports := [(0, { state := .active })] }, time := t }
    let one (k : Byte) : Block := b { launches := [{ kind := k, stamp := true }], ppsOutMode := 2 }
    let pin : Block := b { ppsInEn := true, ppsAny := true, state := .root, sec := 2, ppsOutMode := 1, syncOut := true }
    (nextCell (b {}) 0 {} ∧ (b { rxq := List.replicate 15 {} }).time.rxq.length < 16 ∧
      16 = (b { rxq := List.replicate 16 {} }).time.rxq.length ∧ (b {}).ident.adminPf = (0 : Fin 4).val) ∧
    (isAdmin (b {}) pf0 = true ∧ timeOk 1000 0 = true ∧ nowNs (b {}) + 1000 = secNs 0 1000 ∧
      (b { launches := List.replicate 63 {} }).time.launches.length < 64 ∧ timeOk 999 0 = true ∧ secNs 0 999 < nowNs (b {}) + 1000) ∧
    ((one 0).time.launches.find? fun z => z.id == 0 && z.iss.pf == pf0.pf) = some { stamp := true } ∧
    ((one 0).time.launches = [{ stamp := true }] ∧ ({ stamp := true } : Launch).at' = nowNs (one 0) ∧
      (one 1).time.launches = [{ kind := 1, stamp := true }] ∧ (one 1).time.ppsOutMode = 2 ∧
      (one 2).time.launches = [{ kind := 2, stamp := true }] ∧ (getPort (one 2) 0).state = .active ∧
      tooClose (one 2) 0 (nowNs (one 2)) = false ∧ (one 2).time.tsq.length < 16) ∧
    (pin.time.ppsInEn = true ∧ pin.time.ppsAny = true ∧ 899999999 * 65536 - pin.time.ppsIn < 900000000 * 65536 ∧
      (b { ppsInEn := true }).time.ppsAny = false ∧ pin.time.ppsSince + 2 * nsPerSec * 65536 = nowSub pin ∧ pin.time.state = .root ∧
      pin.time.ppsOutMode = 1 ∧ sincePulse (counter pin) pin.time.ppsOffset < tickIncr pin ∧
      pin.time.syncOut = true ∧ pin.time.syncOutEnd ≤ nowNs pin) := by
  unfold nextCell
  decide

/-- A release that arms, first writes outside every region, to the last byte of one, before and after its copy; a push of each
priority. -/
theorem witness_GatheringAtTheSentinel :
    let x : Sentinel := { decl := some {}, armed := true, regions := [{ base := 65536 }], copied := [], tetherUp := true,
                          pushBuf := [{ region := 1 }], preCredit := 1 }
    pageAt x.regions 65535 = none ∧ pageAt x.regions 131071 = some (0, 0) ∧ pageAt x.regions 131072 = none ∧ x.decl = some {} ∧
    uncopied x (0, 0) = true ∧ uncopied { x with copied := [(0, 0)] } (0, 0) = false ∧
    x.tetherUp = true ∧ x.shipQ = [] ∧ x.fetches = [] ∧ urgentFirst x = false ∧ nextPush x = some { region := 1 } ∧
    nextPush { x with pushBuf := [{ urgent := true }], urgentCredit := 1 } = some { urgent := true } := by decide

/-- A push of an abandoned gathering, pushes with and without their CRC, a page whose signature has another page to come, digests of
other members, and the deadlines at their nanosecond. -/
theorem witness_GatheringAtTheGlt :
    let p : PagePush := { gathering := 1 }
    let w : SigWork := { pages := 4096, groupSize := 3, digest := some 0 }
    let g : Gathering := { n := 1, sigs := [w], map := [{}] }
    let r : TenantRec := { ten with gatherings := [g] }
    let sl : SlotRec := { gphase := .copying, gathering := 1, regions := [{}], decl := some {} }
    let e : Extent := { tenant := 1, gathering := 1, handle := mkHandle 1 1 0 }
    let b : Block := { withTen r with slots := [(0, sl)], bd := { extents := [e] }, sn := [(0, { decl := some {} })], time := { sec := 2 },
                                      gt := { staging := [{ tenant := 1, gathering := 1 }] } }
    let d : DigestMsg := { handle := mkHandle 1 1 0, member := 1, groupSize := 1, length := 65536 }
    (pushStale {} p = true ∧ pushStale sl p = false ∧ (p.region.val, p.page) ∉ sl.staged ∧ crc32c p.data = p.crc ∧
      crc32c p.data ≠ ({ p with crc := 1 } : PagePush).crc ∧ crcFailed { sl with crcFails := [(0, 0, 1)] } 0 0 = 2) ∧
    (b.gt.staging = [{ tenant := 1, gathering := 1 }] ∧ sigOfPage b { tenant := 1, gathering := 1 } = some w ∧ w.owned = true ∧
      getG b 1 1 = g ∧ g.bindStopped = false ∧ g.noMap = false ∧ sigIndex b 1 g w = some 0 ∧
      sigExtent b 1 1 (mkHandle 1 1 0) = some e ∧ (tabPut w.digests 0 (0 : BitVec 256)).length ≠ w.pages) ∧
    (freshFrame b 0 (sealFrame .digest (frameTo (ownPlace b) [])) ∧ trayOf (ownPlace b) = ownPlace b) ∧
    (arrives b 0 .digest (sealFrame .digest (frameTo (ownPlace b) (digestPayload d))) ∧ digestOf (digestPayload d) = d ∧
      g.released = false ∧ g.sigs = [w] ∧ w.owned = true) ∧
    (hasG b 1 1 = true ∧ g.rolledBack = false ∧ handleTenant d.handle = 1 ∧
      handleGathering d.handle = 1 ∧ sigIndex b 1 g w = some (handleIndex d.handle) ∧ sigRegion b 1 w = some {} ∧
      ({} : RegionDesc).region = d.region ∧ ({} : RegionDesc).length = d.length ∧ ({} : RegionDesc).groupSize = d.groupSize ∧
      tabHas w.others d.member = false ∧ w.others.length + 2 < w.groupSize) ∧
    ((g.sigs.find? fun w => w.owned && sigIndex b 1 g w == some (handleIndex (mkHandle 1 1 0))) = some w ∧ w.digest.isSome = true ∧
      w.matched = false ∧ w.others.length + 1 < w.groupSize ∧ w.digestedAt + b.gt.digestTimeoutMs * 1000000 = nowNs b) ∧
    (fromCreator b pf0 = true ∧ 0 ∈ localRanks b r ∧ notStarted r 0 = true ∧ notStarted r 1 = true ∧
      (getSlot b (placeSlot (nthD 0 r.places 0))).decl = some {} ∧
      (getSn b (placeSlot (nthD 0 r.places 0))).decl.isSome = true ∧ within 1 64 1 = true ∧ [({} : RegionDesc)].all (regionOk 0 {}) = true ∧
      regionsApart [({} : RegionDesc)] = true ∧ r.started < 1 ∧ r.deepMark = 0) := by
  intro p w g r sl e b d
  refine ⟨by decide, by decide, ⟨⟨rfl, by decide⟩, by decide⟩,
    ⟨arrives_sealed _ _ _ _ ⟨rfl, by decide⟩ (by decide), by decide, by decide⟩, by decide, by decide, by decide⟩

/-- Frames for another tray and for this one, with their trailer and without. -/
theorem witness_BindingTransfers_frames :
    let c : DataFrame := frameTo 0x1000000000 (zeroBytes 64)
    (freshFrame mid 0 c ∧ trayOf c.dest ≠ ownPlace mid ∧ (∃ h, nextHop mid (trayOf c.dest) = some h ∧ hopUsable mid h = true)) ∧
    ∀ ty, let f := sealFrame ty { c with dest := midSlot }
      freshFrame mid 0 { f with crc := f.crc + 1 } ∧ trayOf f.dest = ownPlace mid ∧
        f.crc + 1 ≠ frameCrc ty { f with crc := f.crc + 1 } :=
  ⟨⟨⟨rfl, nofun⟩, by decide, 1, by decide, by decide⟩,
    fun _ => ⟨⟨rfl, nofun⟩, (by decide : trayOf midSlot = ownPlace mid), resealed _ _⟩⟩

/-- Transfers of a reserved kind, one seen before, one of each kind, and the entries of a participant that are not the last. -/
theorem witness_BindingTransfers_writes :
    let g : Gathering := { n := 1 }
    let b : Block := { withTen { ten with ranks := 2, places := [0x1000000000, 0x1000010000], gatherings := [g] } with
                         bd := { xfersSeen := [(5, 9)] } }
    let x (k : XferKind) : Xfer :=
      { kind := k, gathering := 1, digest := sha256 [], tenant := 1, src := 0x2000010000, dest := ownPlace b, stream := 9 }
    (arrives b 0 .bindWrite (sealFrame .bindWrite (frameTo (ownPlace b) (zeroBytes 64))) ∧
      xferOf (zeroBytes 64) 1 0x2000010000 (ownPlace b) 9 = none) ∧
    (∀ k, arrives b 0 .bindWrite (sealFrame .bindWrite (frameTo (ownPlace b) (xferBytes (x k)))) ∧
      xferOf (xferBytes (x k)) 1 0x2000010000 (ownPlace b) 9 = some (x k)) ∧
    ((5, 9) ∈ b.bd.xfersSeen ∧ ((0x2000010000 : Place), (9 : W32)) ∉ b.bd.xfersSeen ∧ g.bindStopped = false) ∧
    (getG b 1 1 = g ∧ hasG b 1 1 = true ∧ g.rolledBack = false ∧ isLead b (getTen b 1) = true ∧ g.round = .pending ∧
      g.colophon = none ∧ sha256 (x .entries).bytes = (x .entries).digest ∧ 0x2000000000 ∈ participants (getTen b 1) ∧
      (0x2000000000 : Place) ≠ 0x2000010000 ∧ ∀ y ∈ g.entries, y.1 ≠ 0x2000000000) := by
  intro g b x
  refine ⟨⟨arrives_here _ _ _ _ rfl rfl (by decide), by decide⟩,
    fun k => ⟨arrives_here _ _ _ _ rfl rfl (by decide), ?_⟩, by decide, by decide, by decide, by decide, by decide, by decide,
    by decide, rfl, by decide, by decide, by decide⟩
  exact xferOf_xferBytes (x k) (by simp [x]) (by simp [x]) (by simp [x]) rfl (by simp [x])

/-- Transfers and reads sent twice and three times, before and at their nanosecond, and streams of none. -/
theorem witness_BindingTransfers_timeouts :
    let o : ReadOut := { deadline := 5 }
    let b (t : Ns) : Block :=
      { bd := { xfersOut := [{ x := { stream := 3 }, sent := 2, deadline := 5 }, { x := { stream := 4 }, sent := 3, deadline := 5 }],
                readsOut := [{ o with tries := 2 }, { o with req := { replyStream := 6 }, tries := 3 }] }, time := { nsec := t } }
    ((b 5).bd.xfersOut.find? fun y => y.x.stream == 9) = none ∧
    ((b 5).bd.xfersOut.find? fun y => y.x.stream == 3) = some { x := { stream := 3 }, sent := 2, deadline := 5 } ∧
    ((b 5).bd.xfersOut.find? fun y => y.x.stream == 4) = some { x := { stream := 4 }, sent := 3, deadline := 5 } ∧
    ((b 5).bd.readsOut.find? fun o => o.req.replyStream == 9) = none ∧
    ((b 5).bd.readsOut.find? fun o => o.req.replyStream == 0) = some { o with tries := 2 } ∧
    ((b 5).bd.readsOut.find? fun o => o.req.replyStream == 6) = some { o with req := { replyStream := 6 }, tries := 3 } ∧
    nowNs (b 4) + 1 = 5 ∧ nowNs (b 5) = 5 := by decide

/-- A read of nothing, a read of the largest length from an extent that is sound, and one of a page that fails its check. -/
theorem witness_BindingTransfers_reads :
    let r : BindReadReq := { length := 4 * gib, replyStream := 7, tenant := 1, src := 0x2000010000 }
    let q : BindReadReq := { r with length := 65536, gathering := 1 }
    let e : Extent := { kind := .loadArea, tenant := 1, length := 4 * gib }
    let f : Extent := { tenant := 1, gathering := 1, length := 65536, badPages := [0] }
    let b (l : List Extent) : Block := { withTen { ten with gatherings := [{ n := 1 }] } with bd := { extents := l } }
    (∀ l q, arrives (b l) 0 .bindRead (sealFrame .bindRead (frameTo (ownPlace (b l)) (readPayload q)))) ∧
    readOf (readPayload r) 1 0x2000010000 = r ∧ readOf (readPayload q) 1 0x2000010000 = q ∧
    (r.offset % 65536 = 0 ∧ r.length % 65536 = 0 ∧ r.length ≤ 4 * gib ∧ q.length % 65536 = 0) ∧
    readExtent (b []) r = none ∧ readExtent (b [e]) r = some e ∧ badIn e (r.offset - e.offset) r.length = [] ∧
    readExtent (b [f]) q = some f ∧ badIn f (q.offset - f.offset) q.length ≠ [] := by
  refine ⟨fun l q => arrives_here _ _ _ _ rfl rfl (by decide : trayOf (ownPlace {}) = ownPlace {}),
    readOf_readPayload _ (by decide) (by decide) (by decide), readOf_readPayload _ (by decide) (by decide) (by decide),
    by decide, by decide, by decide, by decide, by decide, by decide⟩

/-- A reply of a stream that is stale, an acknowledgement, a reply that nobody waits for, and a restore's first byte. -/
theorem witness_BindingTransfers_data :
    let d : BitVec 256 := listDigest (pageDigestsOf [7])
    let o : ReadOut := { req := { length := 1, replyStream := 9 } }
    let j : RestoreJob := { cur := some { digest := d } }
    let b : Block := { bd := { readsOut := [o], jobs := [j] } }
    let x (k : XferKind) : Xfer :=
      { kind := k, length := 1, bytes := [7], digest := d, tenant := 1, src := 0x2000010000, dest := ownPlace b, stream := 9 }
    (∀ k, arrives b 0 .bindData (sealFrame .bindData (frameTo (ownPlace b) (xferBytes (x k)))) ∧
      xferOf (xferBytes (x k)) 1 0x2000010000 (ownPlace b) 9 = some (x k)) ∧
    (({ staleStreams := [9] } : BindEng).staleStreams.contains 9 = true ∧ b.bd.staleStreams.contains 9 = false ∧
      (({} : Block).bd.readsOut.find? fun o => o.req.replyStream == 9) = none) ∧
    ((b.bd.readsOut.find? fun o => o.req.replyStream == 9) = some o ∧ replyEnd o (x .readReply) = .bytes (x .readReply).bytes ∧
      digestIs (x .readReply).bytes d = true ∧ o.use = .job j.id ∧ b.bd.jobs = [j] ∧ j.cur = some { digest := d } ∧ j.action = 0 ∧
      j.group = false ∧ j.page = 0 ∧ j.tries = 0 ∧ (x .readReply).bytes ≠ []) := by
  intro d o j b x
  refine ⟨fun k => ⟨arrives_here _ _ _ _ rfl rfl (by decide), ?_⟩, by decide,
    ⟨rfl, ?_, ?_, rfl, rfl, rfl, rfl, rfl, rfl, rfl, by simp [x]⟩⟩
  · exact xferOf_xferBytes (x k) (by simp [x]) (by simp [x]) (by simp [x]) rfl (by simp [x])
  · simp [replyEnd, o, x, d]
  · simp [digestIs, x, d]

/-- A participant that is not the lead sends its entries; the lead's colophon is late to the nanosecond; a displaced binding; the
three actions of SEW at the ends of their ranges; a read of a colophon's last byte. -/
theorem witness_BindingsAndColophons :
    let g : Gathering := { n := 1, countsSent := true }
    let lead : Gathering := { n := 1, entriesSent := true }
    let old : Gathering := { n := 1, displaced := true, round := .sewn, colophon := some {} }
    let away : Block := withTen { ten with ranks := 2, places := [0x1000200000, 0x1000000000], gatherings := [g] }
    let away' : Block := { away with slots := [(0, { gathering := 1 })] }
    let b (g : Gathering) : Block := { withTen { ten with gatherings := [g] } with time := { sec := 5 } }
    let cold : Block := { b { old with displaced := false } with bd := { drives := [(3, { en := true, ready := true })] } }
    (((getTen away' 1).gatherings.find? fun g => decide (g.round = .pending) && !g.rolledBack && !g.entriesSent &&
        decide (g.localVote = .notPosted) && !g.bindStopped && !g.noMap) = some g ∧ getG away' 1 g.n = g ∧
      isParticipant away' (getTen away' 1) = true ∧ g.countsSent = true ∧ entriesReady away' 1 g.n = true ∧
      isLead away' (getTen away' 1) = false) ∧
    (((getTen (b lead) 1).gatherings.find? fun g => decide (g.round = .pending) && !g.rolledBack && g.entriesSent &&
        g.colophon.isNone) = some lead ∧ isLead (b lead) (getTen (b lead) 1) = true ∧ lead.localVote = .notPosted ∧
      lead.failDue = false ∧ lead.entriesAt + (b lead).bd.colophonTimeoutMs * 1000000 = nowNs (b lead)) ∧
    (hasG (b old) 1 1 = true ∧ (getG (b old) 1 1).displaced = true ∧ (getG (b old) 1 1).released = false ∧
      bindingBusy (b old) 1 1 = false) ∧
    (fromCreator cold pf0 = true ∧ sewPolicyOk cold { sigShift := 24, k := 4, m := 1, retain := 1 } = true ∧
      sewPolicyOk cold { sigShift := 32, k := 14, m := 4, retain := 4, coldEvery := 255 } = true ∧
      notStarted (getTen cold 1) 0 = true ∧ ({} : SewP).loadArea = (getTen cold 1).loadAreaGib ∧
      within 1 1048576 1 = true ∧ [({ rank := 262143, region := 63, firstIndex := 4194303 } : MapEntry)].all mapEntryOk = true ∧
      mapDistinct [{}, { region := 1 }] = true ∧ ((retained (getTen cold 1)).any fun g => g.n == 1) = true ∧ coldFree cold = true) ∧
    (fromTenant (b old) pf0 = true ∧ (64 : Nat) % 64 = 0 ∧ gib % 64 = 0 ∧ colophonOf (b old) 1 1 = some {} ∧
      64 ≤ (colophonBytes {}).length) := by decide +kernel

/-- A restore of no signature and of one that another GLT holds, page by page, and pushes, reads and cold copies at their bounds. -/
theorem witness_Restores :
    let d : DataEntry := { place := 0x2000010000, length := 65536 }
    let e : RegionEntry := { length := 65536 }
    let c : Colophon := { ranks := 1, regions := [e], data := [d] }
    let b (c : Colophon) : Block := { withTen { ten with gatherings := [{ n := 1, round := .sewn, colophon := some c }] } with
                                        slots := [(0, { regions := [{}] })],
                                        bd := { coldStore := [{ tenant := 1, gathering := 1 }], drives := [(3, { en := true, ready := true })],
                                                extents := [{ kind := .loadArea, tenant := 1, length := gib }] } }
    let j : RestoreJob := { cur := some d, tries := 2, ready := true }
    let push : RestoreJob := { cur := some d, tenant := 1, gathering := 1, pushWait := some 5 }
    let cold : ColdCopy := { drives := [0], left := 1 }
    (fromCreator (b c) pf0 = true ∧ colophonOf (b c) 1 1 = some c ∧ 0 ∈ localRanks (b c) (getTen (b c) 1) ∧ tenantHeld (b c) 1 = false ∧
      (getTen (b c) 1).released0 = false ∧ shapeOk (b c) 1 c (selected c 0 0) 0 = true ∧ (b c).bd.jobs = [] ∧
      (selected c 0 0).flatMap (regionSigs c) = [d] ∧ d.place ≠ ownPlace (b c) ∧
      shapeOk (b { ranks := 1 }) 1 { ranks := 1 } (selected { ranks := 1 } 0 0) 0 = true ∧
      (selected { ranks := 1 } 0 0).flatMap (regionSigs { ranks := 1 }) = []) ∧
    (fromCreator (b c) { pf := 1, tenant := 1 } = false ∧ (3 : Nat) < (4 : Byte).toNat) ∧
    (BitVec.ofNat 40 (ownPlace (b c)).toNat = ownPlace (b c) ∧ placeLevel (BitVec.ofNat 40 0x2000020000) = 2 ∧
      placeOk (BitVec.ofNat 40 0x2000020000) = true ∧ ∀ d ∈ c.data ++ c.parity, d.place ≠ BitVec.ofNat 40 0x2000020000) ∧
    (storedCopy (b c) 1 1 = some { tenant := 1, gathering := 1 } ∧ (b c).bd.cold = none ∧ coldDrives (b c) ≠ [] ∧
      (getDom (b c) 19).inReset = false ∧ (getDom (b c) 19).withdrawn = false) ∧
    (loadArea (b c) 1 = some { kind := .loadArea, tenant := 1, length := gib } ∧ gib - 65536 + 65536 ≤ gib ∧
      ((currentList (b c) 1 0).find? fun d => d.region.val == 0) = some {} ∧ 65536 % 65536 = 0 ∧ 65536 ≤ ({} : RegionDesc).length) ∧
    (restorePoint (getTen (b c) 1) = 1 ∧ localRanks (b c) (getTen (b c) 1) = [0]) ∧
    (j.slot = 0 ∧ j.addr = ({} : WrittenMsg).addr ∧ j.tries ≠ 0 ∧ j.tries < 3 ∧ j.action = 0 ∧ j.cur = some d ∧
      ({} : WrittenMsg).status = 0 ∧ ({} : WrittenMsg).crc = j.crc) ∧
    (push.cur = some d ∧ mkHandle push.tenant push.gathering d.index = mkHandle 1 1 0 ∧ push.pushWait = some 5 ∧
      5 = nowNs { time := { nsec := 5 } } ∧ d.place ≠ ownPlace {} ∧ push.ready = false) ∧
    ((∀ j ∈ ({} : Block).bd.jobs, j.action ≠ 2) ∧ (0 : Fin 4).val ∈ cold.drives ∧ 1 < ({ cold with left := 2 } : ColdCopy).left ∧
      cold.left ≤ 1 ∧ cold.step = .data ∧ ({ cold with step := .flush2 } : ColdCopy).step = .flush2) := by decide

theorem witness_Restores_page : (0 + 1) * 65536 < (zeroBytes 65537).length := by
  simp only [zeroBytes, List.length_replicate]; decide

/-- Segments of another edition, of the eighth and the ninth stream, one that is not complete and one that is; a stream whose timeout
ends now; acknowledgements of a stream the GLT keeps and of a page. -/
theorem witness_TetherStreams :
    let x (k : Nat) : Sentinel := { openIn := List.replicate k {}, openGlt := [{ stream := 7 }], sentG := [(3, .policy {})],
                                    pushBuf := [{ sentAs := some 4 }] }
    let g : Segment := { stream := 9, total := 2, payload := [1], fin := false }
    let b : Block := { sn := [(0, x 7)], time := { nsec := 2000000 } }
    (({ g with edition := 1 } : Segment).edition ≠ (x 7).portEdition ∧ g.edition = (x 7).portEdition ∧ g.start = true ∧
      g.stream ∉ brokenAt (x 7) false ∧ (openAt (x 7) false).length < 8 ∧ g.abort = false ∧ g.fin = false ∧
      g.payload.length < g.total ∧ g.kind = .control ∧ g.payload.head? ≠ some 0x09 ∧ 8 = (openAt (x 8) false).length) ∧
    (((openAt (getSn b 0) true).find? fun o => o.stream == 7) = some { stream := 7 } ∧ ({ g with stream := 7, start := false } : Segment).start = false ∧
      nowNs { b with time := { nsec := 1999999 } } < ({} : OpenStream).last + (x 7).streamTimeoutUs * 1000 ∧
      ((openAt (getSn b 0) true).find? fun o => o.stream == 8) = none ∧ 0 + g.payload.length < ({ total := 2 } : OpenStream).total) ∧
    (((openAt (getSn b 0) true).find? fun o => o.stream == 7) = some { stream := 7 } ∧
      ({} : OpenStream).last + (x 7).streamTimeoutUs * 1000 = nowNs b ∧ ({} : OpenStream).kind = .control) ∧
    ((x 7).sentG.find? fun y => y.1 == 3) = some (3, .policy {}) ∧
    ((x 7).pushBuf.any fun p => p.sentAs == some 4) = true := by decide

/-- Hold and release times on both sides of the sentinel's own time, firmware in each state it is taken in (whether a signature
verifies is open), restore pages and a register value at both ends of its range and beside them. -/
theorem witness_MessagesToSentinels :
    let sn (x : Sentinel) : Block := { sn := [(0, x)], time := { nsec := 10 } }
    let x : Sentinel := { holdPending := [11], phase := .running }
    let h : Sentinel := { sntHold := true, holdTime := some 5, armed := true, ucieWidth := 2, decl := some {} }
    let p : RestorePush := { data := [0], crc := crc32c [0] }
    (snNow (sn x) 0 < 11 ∧ ¬(x.sntHold = true ∧ x.holdTime = some 11) ∧ 10 ≤ snNow (sn x) 0 ∧ x.sntHold = false ∧
      h.sntHold = true ∧ h.holdTime = some 5) ∧
    (11 ∈ x.holdPending ∧ 11 ∉ h.holdPending ∧ h.holdPending = [] ∧ ({} : Sentinel).sntHold = false ∧ snNow (sn h) 0 < 11 ∧ 10 ≤ snNow (sn h) 0) ∧
    (63 ∉ x.inReset ∧ ({ phase := .rom } : Sentinel).phase = .rom ∧ ({ phase := .loading } : Sentinel).phase = .loading ∧
      x.phase = .running ∧ ({ phase := .waitDeclare } : Sentinel).phase = .waitDeclare) ∧
    (crc32c p.data ≠ ({ p with crc := 0 } : RestorePush).crc ∧ crc32c p.data = p.crc ∧ h.armed = true ∧ x.armed = false ∧
      memBusy x = false ∧ memBusy { x with reqs := [{}] } = true ∧ h.ucieWidth ≠ 0 ∧ h.decl.isSome = true ∧
      memBusy { h with armed := false } = false ∧ h.restore = [] ∧ p.data ≠ []) ∧
    (snFirmware x = true ∧ within 2 1000 (field (2 : W32) 0 10) = true ∧ within 2 1000 (field (1000 : W32) 0 10) = true ∧
      within 2 1000 (field (1 : W32) 0 10) = false ∧ within 2 1000 (field (1001 : W32) 0 10) = false) := by decide

theorem witness_MessagesToSentinels_image :
    let i : FwImage := { raw := fwRaw 2 0 }
    imageEnds i = true ∧ imageEnds { raw := zeroBytes 255 } = false ∧ imageEnds { raw := zeroBytes 256 } = true ∧
    snImageOk {} { raw := zeroBytes 256 } = false ∧ (Config.signatureOk 0 i.body i.sig = true → snImageOk {} i = true) := by
  refine ⟨by decide +kernel, by decide +kernel, by decide +kernel, ?_, ?_⟩
  · have h : FwImage.headerOk { raw := zeroBytes 256 } 2 (zeroBytes 256).length = false := by decide +kernel
    simp only [snImageOk, h, Bool.false_and]
  · intro h
    have e : FwImage.headerOk { raw := fwRaw 2 0 } 2 (fwRaw 2 0).length = true ∧ (fwRaw 2 0).length ≤ 262144 ∧
        FwImage.keySlot { raw := fwRaw 2 0 } = 0 := by decide +kernel
    simp only [snImageOk, e, h, Bool.and_true, Bool.true_and]
    decide +kernel

/-- Greetings of another stepping, in WAIT_DECLARE and running; notes and reports for a tenant's slot whose mark is the last. -/
theorem witness_MessagesFromSentinels :
    let b : Block := { withTen { ten with hold := { phase := .cutting, slotsDue := 1, iss := some pf0 } } with
                         slots := [(0, { mirrorPhase := .loading, editionCopy := [(63, 5)], on := true, trimIss := [(4095, true, pf0)] })] }
    (({ stepping := 0xB1 } : HelloMsg).stepping ≠ 0xA2 ∧ ({ phase := .waitDeclare } : HelloMsg).phase = .waitDeclare ∧
      (getSlot b 0).mirrorPhase = .loading ∧ tabHas (getSlot b 0).editionCopy 63 = true ∧ (getSlot b 0).on = true ∧
      ({ phase := .running } : HelloMsg).phase = .running ∧ (getSlot b 0).readmitting = false) ∧
    ((getSlot b 0).trimIss = [((4095 : BitVec 12).toNat, true, pf0)] ∧ b.hr.routes = [] ∧ (getSlot b 0).decl = none) ∧
    (slotTenant? b 0 = some 1 ∧ (getTen b 1).hold.phase = .cutting ∧ (getTen b 1).hold.marksDue = 0 ∧
      putBit (getTen b 1).hold.slotsDue 0 false = 0 ∧ holdOwners (getTen b 1).hold = [(pf0, 0)] ∧
      (getTen b 1).rec'.phase = .none) := by decide

/-- Hold times exactly SR_MIN_LEAD ahead, each phase of a hold, its last mark, the cut timeout and the release at their
nanosecond. -/
theorem witness_TenantHolds :
    let b (h : Hold) : Block := { mid with tenants := [(1, { exists' := true, ranks := 1, places := [midSlot], hold := h })],
                                           time := { nsec := 10000000 } }
    let now : Ns := 10000000
    let own : Hold := { phase := .scheduled, isOrigin := true, time := 10200000, iss := some pf0 }
    let cut : Hold := { phase := .cutting, iss := some pf0, marksDue := 1 }
    let held : Hold := { phase := .held, isOrigin := true, releaseAt := some now, releaseIss := some pf0 }
    (fromOwnerPf (b {}) pf0 = true ∧ timeOk 10200000 0 = true ∧ nowNs (b {}) + minLeadNs (b {}) = secNs 0 10200000 ∧
      (b {}).tenants.length = 1 ∧ (getTen (b {}) 1).hold.phase = .none ∧ (getTen (b own) 1).hold = own ∧
      nowNs (b own) + minLeadNs (b own) = own.time ∧ holdOwners own = [(pf0, 0)] ∧ own.phase = .scheduled ∧ own.isOrigin = true) ∧
    (nextCell (b {}) 0 {} ∧ nowNs (b {}) < now + 1 ∧ own.origin = ({} : HoldBody).place ∧ own.holdId = ({} : HoldBody).holdId ∧
      cut.phase = .cutting ∧ cut.marksDue &&& ~~~(hopBits (portHop (0 : Fin 8))) = 0 ∧ cut.holdId = ({} : HoldBody).holdId ∧
      cut.time = ({} : HoldBody).time ∧ own.time ≠ ({} : HoldBody).time ∧ cut.slotsDue = 0 ∧
      holdOwners cut = [(pf0, 0)] ∧ (getTen (b cut) 1).rec'.phase = .none ∧ holdActive held = true ∧
      ({ held with releaseAt := none } : Hold).releaseAt = none) ∧
    (({ own with time := now } : Hold).time = nowNs (b own) ∧ own.marksSeen = 0 ∧ markHops (b own) ≠ [] ∧
      hopUsable (b own) 1 = true ∧ cut.time + (b cut).hr.cutTimeoutMs * 1000000 = nowNs (b cut) ∧ held.releaseAt = some now ∧
      now = nowNs (b held) ∧ held.releaseIss = some pf0 ∧ held.restored = false ∧ (getBar (b held) 1 3).withheld = false) ∧
    (mayRelease held = true ∧ ({ held with releaseIss := none } : Hold).releaseIss = none ∧ mayRelease { held with releaseIss := none } = true) := by
  unfold nextCell
  decide

/-- A write from another PF; domains 0 and 48 in and out of reset, escalation at three resets and below, a pulse that ends now. -/
theorem witness_ResetDomains :
    let b (d : Domain) : Block := { hr := { domains := [(48, d)] }, pw := { porstN := true }, time := { nsec := 5 } }
    let three : Domain := { inReset := true, resets := [1, 2, 3], pulseEnd := some 5 }
    ((1 : Fin 4).val ≠ (b {}).ident.adminPf ∧ (0 : Fin 4).val = (b {}).ident.adminPf ∧ (getDom (b {}) 48).inReset = false ∧
      (48 : Fin 49) ≠ 0 ∧ (getDom (b three) 48).inReset = true ∧ ({ three with holdReset := true } : Domain).holdReset = true ∧
      three.withdrawn = false ∧ recentResets (b { three with resets := [1, 2] }) 48 < (b three).hr.escCount ∧
      ¬((48 : Fin 49).val < 2 ∨ recentResets (b three) 48 < (b three).hr.escCount) ∧
      ({ withdrawn := true } : Domain).withdrawn = true) ∧
    (selfResetDue (b {}) 48 = none ∧ selfResetDue (b {}) 23 = none ∧ three.holdReset = false ∧ three.pulseEnd = some 5 ∧
      5 = nowNs (b three) ∧ allHeld (b three) = false ∧ allHeld {} = true) := by decide

/-- The administrating PF's window and another route, free and busy; operands at their bounds; an operation that waits for a
sentinel at both timeouts (whether a token's signature verifies is open). -/
theorem witness_KettleOperations :
    let w : Route := .window 0
    let b : Block := { slots := [(15, { decl := some { nUnits := 4096 }, seqStart := some 0 })], sn := [(15, { tetherUp := true })],
                       fly := { ring := [{ seq := 1 }] }, time := { nsec := 1000000 } }
    let busy : Block := { b with hr := { routes := [(.mgmtPort, { phase := .busy, waitSlot := some (0, 500000) }),
                                                    (.i3c, { waitSlot := some (0, 800000) })], mgmtLastSeq := some 7 } }
    ((getRoute b w).phase ≠ .busy ∧ w = .window (Fin.ofNat 4 b.ident.adminPf) ∧ .i3c ≠ Route.window (Fin.ofNat 4 b.ident.adminPf) ∧
      (flyFind b fun q => q % 2 ^ 32 == 1) = some { seq := 1 }) ∧
    (kettleAllows b w 2 none = true ∧ 0 = field (0 : W32) 0 2 ∧ 1 = field (1 : W32) 0 2 ∧ (511 : W32).toNat < 512 ∧ (23 : W32).toNat < 24) ∧
    ((1 : W32).getLsbD 0 = true ∧ (0 : W32).getLsbD 0 = false ∧ (0xFFFF : W32).toNat / 4096 < 16 ∧
      (getSlot b ((0xFFFF : W32).toNat / 4096)).decl = some { nUnits := 4096 } ∧ (0xFFFF : W32).toNat % 4096 < 4096) ∧
    (field (4 : W32) 1 2 ≠ 3 ∧ field (2 : W32) 1 2 = 1 ∧ field (0 : W32) 1 2 ≠ 1 ∧ 48 < (49 : W32).toNat ∧
      routeDom (.window 3) = some (23 : W32).toNat ∧ (48 : W32) ≠ 0 ∧ (48 : W32).toNat ≤ 48 ∧ routeDom w ≠ some (48 : W32).toNat ∧
      (getDom b 48).inReset = false) ∧
    ((999999999 : W64).toNat % 2 ^ 30 < nsPerSec ∧ maskSlots (field (0x8000 : W32) 0 16) = [15] ∧ (getSn b 15).tetherUp = true) ∧
    ((getRoute busy .mgmtPort).phase = .busy ∧ (getRoute busy .mgmtPort).waitSlot = some (0, 500000) ∧ 500000 + 500000 = nowNs busy ∧
      (getRoute busy .i3c).waitSlot = some (0, 800000) ∧ (getSn busy 0).tetherUp = false ∧ 800000 + 200000 = nowNs busy ∧
      (getRoute b .i3c).waitSlot = none) ∧
    ((getRoute { b with hr := { mgmtLastSeq := some 7 } } .mgmtPort).phase ≠ .busy) ∧
    (busy.hr.mgmtLastSeq = some ({ seq := 7 } : MgmtFrame).seq ∧ b.hr.mgmtLastSeq ≠ some ({ seq := 7 } : MgmtFrame).seq) ∧
    ((getSlot b 15).seqStart = some 0 ∧ (getSlot b 15).on = false ∧ 0 + 1000000 = nowNs b) := by decide

/-- A token of every operation that never expires passes where its signature verifies. -/
theorem witness_KettleOperations_token :
    let t : Token := { ops := 0xFF }
    Config.signatureOk 0 (tokenBody t) t.sig = true → tokenOk {} (getRoute {} .i3c).nonce 1 t = true := by
  intro t h; simp only [tokenOk, h, t]; decide

/-- Reports of a target elsewhere and of a unit of this tray, the reporter rule at its fourth target, a probe of this tray and its
answer, a SUSPECT for a tenant led here and elsewhere, and an entry's window, probe and age at their nanosecond. -/
theorem witness_SuspectReports :
    let b (e : List (Nat × Entry)) : Block := { mid with tenants := [(1, { exists' := true, ranks := 1, places := [midSlot] })],
                                                         sus := { entries := e }, links := [(23, { downSince := some 0 })],
                                                         time := { sec := 60 } }
    let far : RepBody := { target := 0x1000000000 }
    let here : RepBody := { target := midSlot }
    let e : Entry := { state := .watch, target := 0x1000000000, windowEnd := 60000000000 }
    let t0 : Entry := { state := .opened, target := midSlot, probeUntil := some 60000000000, probed := true, reporters := [1, 2] }
    let led : Block := { b [] with tenants := [(1, { exists' := true, ranks := 1, places := [midSlot], rec' := { phase := .holding } })] }
    let gap : Block := { b [] with fw := { phase := .gap } }
    let other : Block := withTen { ten with places := [0x1000010000] }
    (nextCell (b []) 0 {} ∧ ¬(arbiterOf (b []) far.target = ownPlace (b [])) ∧ findEntry (b []) far.target = none ∧
      freeEntry (b []) = some 0 ∧ findEntry (b [(0, e)]) far.target = some 0 ∧ windowOpen e = true ∧
      arbiterOf (b []) here.target = ownPlace (b []) ∧ reporterRule (b []) { here with distinct := 3 } = false ∧
      recordedOnly here.kind = false ∧ findEntry (b []) here.target = none ∧ reporterRule (b []) { here with distinct := 4 } = true) ∧
    ((0x2000050000 : Place) = ownPlace (b []) ∧ findEntry (b [(0, t0)]) midSlot = some 0 ∧
      (getEntry (b [(0, t0)]) 0).probeUntil ≠ none ∧ t0.probed = true ∧ t0.state ≠ .suspect ∧ 2 = (t0.reporters.filter fun a => !t0.aside.contains a).length ∧
      t0.probeId = ({} : ProbeBody).probeId ∧ fwStalled (b []) = false ∧ fwStalled gap = true ∧ nextCell gap 0 {} ∧
      ({ e with merged := 1 } : Entry).merged ≠ 0 ∧ arbiterOf (b []) e.target ≠ ownPlace (b [])) ∧
    (placeLevel midSlot ≤ 1 ∧ tenantOfPlace (b []) midSlot = some 1 ∧ isLeader (b []) 1 = true ∧
      (getTen (b []) 1).rec'.phase = .none ∧ (getTen (b []) 1).hold.phase = .none ∧ isLeader led 1 = true ∧
      (getTen led 1).rec'.phase = .holding ∧ nextCell other 0 {} ∧ tenantOfPlace other 0x1000010000 = some 1 ∧
      isLeader other 1 = false) ∧
    (e.windowEnd = nowNs (b []) ∧ e.probeUntil = none ∧ t0.probeUntil = some 60000000000 ∧ e.state = .watch ∧
      windowOpen { e with windowEnd := 0 } = false ∧ e.lastTime + (b []).sus.ageS * nsPerSec = nowNs (b [])) ∧
    ((1 : Fin 4).val ≠ (b []).ident.adminPf ∧ (0x80000000 : W32).getLsbD 31 = true ∧ (4095 : W32).getLsbD 31 = false ∧
      (getEntry (b [(4095, { state := .suspect })]) (field (4095 : W32) 0 12)).state = .suspect ∧
      (getLink (b []) (8 + 15)).downSince = some 0 ∧ 59950000000 + (b []).sus.linkGraceMs * 1000000 = nowNs (b [])) := by
  unfold nextCell
  decide

/-- A leader's answers that lack one and that are all, its timers at their nanosecond; slots in each role, a unit at its bound, a
spare that is warm, and a tip-in to this tray and to another. -/
theorem witness_Recoveries :
    let b (r : TenantRec) : Block := { mid with tenants := [(1, r)] }
    let r (x : Recovery) : TenantRec := { exists' := true, ranks := 2, places := [midSlot, 0x1000060000], rec' := x }
    let all : Recovery := { phase := .restoring, restoredBy := [(0x2000060000, stOk)] }
    let lack : Recovery := { phase := .restoring }
    let wait : Recovery := { tip := some {}, failedVoteAt := some 0 }
    let slot (s : SlotRec) : Block := { slots := [(15, s)] }
    let d : Declare := { nUnits := 4096 }
    let u : TrimUnitP := { place := 0x000000FFFF }
    let spare : SlotRec := { role := roleSpare, mirrorPhase := .running, decl := some d }
    let tip : Block := { slots := [(15, spare)],
                         tenants := [(1, { exists' := true, ranks := 1, places := [0x1000010000], hold := { phase := .held } })] }
    (nextCell (b (r all)) 0 {} ∧ isLeader (b (r all)) 1 = true ∧ all.phase = .restoring ∧ all.tip = none ∧
      participants (r all) = [0x2000050000, 0x2000060000] ∧ 0x2000060000 ∈ all.restoredBy.map Prod.fst ∧
      0x2000060000 ∉ lack.restoredBy.map Prod.fst ∧ all.failedHost = false ∧ ({ all with failedHost := true } : Recovery).failedHost = true ∧
      isLeader {} 1 = false ∧ fwStalled (b (r all)) = false ∧ fwStalled { fw := { phase := .gap } } = true) ∧
    (all.restoreAt ≤ nowNs (b (r all)) ∧ wait.tip = some {} ∧ ({} : TipWait).answered = false ∧ ({} : TipWait).until' = nowNs (b (r wait)) ∧
      wait.failedVoteAt = some 0 ∧ 0 = nowNs (b (r wait)) ∧ isLeader (b (r wait)) 1 = true ∧ (r wait).hold.phase = .none ∧
      all.failedVoteAt = none) ∧
    (localSlot {} u.place = some 15 ∧ mayRecover {} pf0 (some 15) = true ∧ placeLevel u.place = 0 ∧
      (getSlot (slot { decl := some d }) 15).decl = some d ∧ placeUnit u.place = 4095 ∧ 4095 < d.nUnits ∧
      (getSlot (slot { decl := some d }) 15).role = roleIdle ∧ (getSlot (slot spare) 15).role = roleSpare ∧
      (getSlot (slot { role := roleActive }) 15).role = roleActive ∧ slotHeld (slot { role := roleActive }) 15 = false ∧
      slotHeld (withTen { ten with hold := { phase := .held } }) 0 = true) ∧
    (localSlot {} 0x100000F000 = some 15 ∧ placeLevel 0x100000F000 = 1 ∧ slotTenant? (slot spare) 15 = none ∧ spare.role ≠ roleActive ∧
      (getSlot (slot { role := roleWithdrawn, mirrorPhase := .running }) 15).role = roleWithdrawn ∧ spare.role ≠ roleWithdrawn ∧
      spare.specs = []) ∧
    (onTray {} 0x1000010000 = false ∧ warm {} 15 = false ∧ warm (slot spare) 15 = true ∧
      (getTen (b (r {})) 1).rec'.tip = none ∧ (getTen (b (r {})) 1).rec'.phase ≠ .acting ∧ onTray (b (r {})) midSlot = true) ∧
    (isAdmin tip pf0 = true ∧ 0 < (getTen tip 1).places.length ∧ placeLevel 0x100000F000 = 1 ∧ placeOk 0x100000F000 = true ∧
      tenantHeld tip 1 = true ∧ tenantHeld (b (r {})) 1 = false ∧ recBusy tip 1 = false ∧ (getTen tip 1).rec'.tip = none ∧
      onTray tip 0x100000F000 = true ∧ onTray tip 0x1000020000 = false ∧ placeOk 0x1000020000 = true ∧
      onTray tip (accelOf (nthD 0 (getTen tip 1).places 0)) = false ∧ warm tip (placeSlot 0x100000F000) = true ∧
      warm tip (placeSlot 0x100000E000) = false) := by
  unfold nextCell
  refine ⟨?_, ?_, ?_, ?_, ?_, ?_⟩ <;> decide

/-- A live link and one that is not; a frame in order, one that is not whole, an acknowledgement of a cell in the buffer, a NAK
outside it, and the seventh and the eighth replay without progress, due to the nanosecond. -/
theorem witness_LinkFrames :
    let u : TxUnit := .cell {} (.fold 0)
    let k : Link := { state := .up, txUnacked := [4095, 0], txUnits := [u, u], noProgress := 6 }
    let b (t : Ns) : Block := { links := [(0, k)], time := { nsec := t } }
    let f : LinkFrame := whole {}
    let a : LinkFrame := whole { kind := 0, ackValid := true }
    let n : LinkFrame := whole { kind := 0, ackValid := true, nak := true, ack := 4094 }
    (k.state = .up ∧ ¬(({} : Link).state = .up ∨ ({} : Link).state = .retuning ∨ ({} : Link).state = .changing)) ∧
    (frameWhole f = true ∧ f.kind = 1 ∧ f.ackValid = false ∧ f.fseq = k.rxFseq ∧
      frameWhole { f with correctable := false } = false ∧ ({ f with fseq := 4095 } : LinkFrame).fseq ≠ k.rxFseq ∧
      k.rxDiscard = false ∧ ({ k with rxDiscard := true } : Link).rxDiscard = true) ∧
    (frameWhole a = true ∧ a.ackValid = true ∧ a.nak = false ∧ a.kind ≠ 1 ∧ ackIndex k.txUnacked a.ack = some 1 ∧ k.txWait = [] ∧
      u ∈ k.txUnits.take (1 + 1)) ∧
    (frameWhole n = true ∧ n.nak = true ∧ ackIndex k.txUnacked n.ack = none ∧ k.noProgress + 1 < 8 ∧ k.txUnacked = [4095, 0] ∧
      8 = ({ k with noProgress := 7 } : Link).noProgress + 1) ∧
    ((getLink (b 1000) 0).waitFrom + (getLink (b 1000) 0).rtt + 1000 = nowNs (b 1000) ∧ ¬(k.waitFrom + k.rtt + 1000 ≤ nowNs (b 999)) ∧
      ({} : Link).txUnacked = []) :=
  ⟨by decide, ⟨whole_frameWhole _ rfl, rfl, rfl, rfl, uncorrectable_frameWhole _ rfl, by decide, rfl, rfl⟩,
    ⟨whole_frameWhole _ rfl, rfl, rfl, by decide, by decide, rfl, .head _⟩,
    ⟨whole_frameWhole _ rfl, rfl, by decide, by decide, rfl, rfl⟩, by decide⟩

/-- Every link control set is one of a kind, fresh with its check code and refused with another. -/
theorem witness_LinkWidths_sets (l : Fin 24) (x : Lcs) :
    lcsFresh {} l (lcsHdr { place := 0x2000010000 } x) x = true ∧ lcsFresh {} l (lcsBad { place := 0x2000010000 } x) x = false :=
  ⟨lcsHdr_fresh _ _ _ _ rfl, lcsBad_broken _ _ _ _⟩

/-- Lanes in use and not, the third bad event within 60 s, widths on both sides of a change, and a widening at its nanosecond. -/
theorem witness_LinkWidths :
    let on : Lane := { lock := true, inUse := true }
    let k : Link := { state := .up, width := 2, leader := true, widthReqSent := none, widenTo := some (0xF, 5),
                      lanes := [(0, on), (1, on), (2, { lock := true, selftest := true }), (3, { lock := true, clean := true })] }
    let one : Link := { state := .up, width := 1, lanes := [(0, on)] }
    let after (k : Link) (i : Nat) : Link := { k with lanes := tabPut k.lanes i { tabGet {} k.lanes i with isBad := true } }
    let clean : Link := { k with lanes := tabPut k.lanes 2 { lock := true, clean := true } }
    let own := formWidth (laneMask k laneReady) k.maxWidth
    ((tabGet {} k.lanes 2).inUse = false ∧ (tabGet {} k.lanes 0).inUse = true ∧ k.state = .up ∧
      (formWidth (laneMask (after k 0) laneReady) k.maxWidth).1 ≠ 0 ∧ (formWidth (laneMask (after one 0) laneReady) one.maxWidth).1 = 0 ∧
      3 = ((([1, 2] : List Ns).filter fun t => decide (3 < t + 60 * nsPerSec)) ++ [3]).length) ∧
    ((tabGet {} k.lanes 2).selftest = true ∧ (tabGet {} k.lanes 2).quarantined = false ∧ k.leader = true ∧
      k.width < (formWidth (laneMask clean laneReady) k.maxWidth).1 ∧ (tabGet {} k.lanes 2).cleanFrom + 10 * nsPerSec = nowNs { time := { sec := 10 } } ∧
      (tabGet {} k.lanes 3).selftest = false) ∧
    (own = (2, 3) ∧ (formWidth (laneMask k laneReady &&& 0) (min own.1 2)).1 = 0 ∧ formWidth (laneMask k laneReady &&& 1) (min own.1 2) = (1, 1) ∧
      formWidth (laneMask k laneReady &&& 0xF) (min own.1 4) = (k.width, laneMask k (·.inUse)) ∧ ({ k with width := 1 } : Link).width < own.1 ∧ ({ k with leader := false } : Link).leader = false ∧
      k.widthReqSent = none ∧ ({ k with widthReqSent := some (2, 3) } : Link).widthReqSent ≠ none ∧ (0xF : BitVec 4) ≠ 0 ∧
      ({ k with state := .changing } : Link).state = .changing) ∧
    (k.widenTo = some (0xF, 5) ∧ 5 = nowNs { time := { nsec := 5 } } ∧ nowNs { time := { nsec := 4 } } < 5) ∧
    ((0 : Fin 4).val = ({} : Block).ident.adminPf ∧ (1 : Fin 4).val ≠ ({} : Block).ident.adminPf ∧ (getLink {} (7 : Fin 8)).state = .down) := by
  decide

/-- Error ratios at both limits and beneath them, slots of their nanosecond, and the longest wait for one. -/
theorem witness_LinkRetunes :
    let k : Link := { state := .up, leader := true, slot := some 5, slotPending := true }
    let old : Link := { state := .up, slotPending := true }
    let b : Block := { withTen ten with links := [(8, { state := .up }), (9, { state := .up })], time := { sec := 10 },
                                        spine := { ports := [(0, { state := .active })] } }
    (∀ x, lcsFresh b 8 (lcsHdr {} x) x = true ∧ lcsFresh b 8 (lcsBad {} x) x = false) ∧
    (k.state = .up ∧ k.leader = true ∧ old.slot = none ∧ k.slot ≠ none ∧ old.leader = false ∧ old.retuneReqSent = false) ∧
    (({ k with marginEn := false } : Link).marginEn = false ∧ k.marginEn = true ∧ (getPort b (0 : Fin 24)).state = .active ∧
      (getPort b (0 : Fin 24)).lastUncorr = none ∧ 999999 < k.marginBer ∧ k.marginBer = 1000000 ∧ k.urgentBer = 100000000 ∧
      99999999 < k.urgentBer ∧ (getLink b (8 : Fin 24)).slotPending = false ∧ slotAtOnce b (8 : Fin 24) = false) ∧
    (k.slot = some 5 ∧ k.slotPending = true ∧ 5 = nowNs { time := { nsec := 5 } } ∧ nowNs { time := { nsec := 4 } } < 5) ∧
    (old.slotPending = true ∧ old.slotReqAt + old.slotMaxS * nsPerSec = nowNs b) ∧
    ((0 : Fin 4).val = b.ident.adminPf ∧ (1 : Fin 4).val ≠ b.ident.adminPf ∧ (getLink b (9 : Fin 24)).slotPending = false ∧
      slotAtOnce b (9 : Fin 24) = true) :=
  ⟨fun _ => ⟨lcsHdr_fresh _ _ _ _ rfl, lcsBad_broken _ _ _ _⟩, by decide⟩

/-- Tether 15 with its module present, below escalation; TRAIN from the neighbour and from a wrong port; the third full training that
fails, the second and the first fast one. -/
theorem witness_LinkTraining :
    let b : Block := { hr := { domains := [(39, { resets := [0] })] }, slots := [(15, { prsntN := false })],
                       links := [(23, { state := .training }), (0, { state := .training })] }
    let h : LcsHdr := { place := 0x2000010000, port := 1 }
    let k (f : Nat) : Link := { state := .training, trainFails := f, trainKind := .fast, fastFails := f }
    (∀ l x, getLink b l = {} ∨ (getLink b l).lcsSeen = none → lcsFresh b l (lcsHdr h x) x = true ∧ lcsFresh b l (lcsBad h x) x = false) ∧
    ((0 : Fin 4).val = b.ident.adminPf ∧ linkDom (23 : Fin 24) = 39 ∧ (getDom b 39).withdrawn = false ∧ (getDom b 39).holdReset = false ∧
      (getDom b 39).inReset = false ∧ recentResets b 39 + 1 < b.hr.escCount ∧ mayTrain b (23 : Fin 24) = true) ∧
    ((getLink b 23).state = .training ∧ (getLink b 23).trainKind = .full ∧ (getLink b 0).state = .training ∧ h.place ≠ ownPlace b ∧
      inRing b (hopRing b (portHop (0 : Fin 24))) h.place = true ∧ h.port.val = partnerPort (0 : Fin 24) ∧
      ({ h with port := 2 } : LcsHdr).port.val ≠ partnerPort (0 : Fin 24) ∧ (getLink b 5).state = .down ∧
      inOrder b (0 : Fin 24) h.place = true ∧ ({ state := .failed } : Link).state = .failed) ∧
    (∀ p ∈ hopPorts (portHop (0 : Fin 24)), p = (0 : Fin 24).val ∨ railDown b p = true ∧ railTrains b p = false) ∧
    ((getLink b 23).heldArrive = none ∧ (getSn b (23 - 8)).sentS = [] ∧ (k 1).trainFails + 1 < 3 ∧ 3 = (k 2).trainFails + 1 ∧
      (k 0).trainKind = .fast ∧ (k 0).fastFails + 1 < 2 ∧ ({ state := .retuning } : Link).heldArrive = none ∧
      ({ state := .retuning } : Link).txWait = []) := by
  refine ⟨fun l x h => ⟨lcsHdr_fresh _ _ _ _ ?_, lcsBad_broken _ _ _ _⟩, by decide⟩
  cases h with
  | inl h => rw [h]
  | inr h => exact h

/-- A temperature that has moved by the limit and one that has not, a channel that waits, 10 ms after the last retraining, and a
failed one 1 s old. -/
theorem witness_BindingMemory :
    let x : DdrCh := { pending := true, trained := true, failedAt := some 0 }
    let b : Block := { ck := { chs := [(7, x)], lastRetrain := 1 }, time := { nsec := 10000001 } }
    let old : Block := { ck := { chs := [(7, x)] }, time := { sec := 1 } }
    ((∃ t ∈ chTemps b [0, 0, 0, 0, 0, 0, 0, 10] (7 : Fin 8), b.ck.tempDelta ≤ (t - x.tempTrained).natAbs) ∧
      ¬(∃ t ∈ chTemps b [0, 0, 0, 0, 0, 0, 0, -9] (7 : Fin 8), b.ck.tempDelta ≤ (t - x.tempTrained).natAbs)) ∧
    (x.trained = true ∧ b.ck.autoRetrain = true ∧ ({} : DdrCh).pending = false ∧ x.pending = true) ∧
    ((getDom b 18).inReset = false ∧ (getPll b 3).stopped = false ∧ b.ck.lastRetrain + 10000000 = nowNs b) ∧
    (x.failedAt = some 0 ∧ 0 + nsPerSec = nowNs old ∧ (0 : Fin 4).val = b.ident.adminPf ∧ (1 : Fin 4).val ≠ b.ident.adminPf) ∧
    (∀ k, k < 8 → (getDdr {} k).failedAt = none) := by decide

/-- PLLs in each state, 100 µs after a loss; sources and their drift at 250 ppm and beyond; spread and frequency at their bounds. -/
theorem witness_ClockTree :
    let b (p : Pll) : Block := { ck := { plls := [(1, p), (2, { srcB := true })], refs := [(0, { present := true, drift := true }), (1, { ready := true })] },
                                 fw := { phase := .running }, time := { nsec := 100000 } }
    let ready : Pll := { state := .ready }
    let two : Block := { ck := { plls := [(2, ready)], refs := [(0, { ready := true }), (1, { ready := true })] } }
    ((getPll (b ready) 1).state = .ready ∧ (getRef (b ready) (bit (!ready.srcB))).ready = true ∧ ({} : Pll).state ≠ .ready ∧
      ({} : Pll).state ≠ .failed ∧ (b ready).fw.tasks = [] ∧ (getRef (b { srcB := true }) (bit true)).present = false ∧ nowNs {} < ({} : Pll).lostAt + 100000 ∧
      ({ state := .relocking } : Pll).state = .relocking ∧ (getRef (b ready) (bit ready.srcB)).present = true ∧
      ready.lostAt + 100000 = nowNs (b ready) ∧ (b ready).ck.mpllAuto = true ∧ (getRef {} 1).ready = false) ∧
    ((1 : Fin 4).val ≠ (b ready).ident.adminPf ∧ (0 : Fin 4).val = (b ready).ident.adminPf ∧ (0 : W32).getLsbD 4 = false ∧
      (0 : W32).getLsbD 0 = ready.srcB ∧ (1 : W32).getLsbD 0 ≠ ready.srcB ∧ (16 : W32).getLsbD 4 = true ∧
      (16 : W32).getLsbD 0 = ready.srcB ∧ ({ state := .failed } : Pll).state = .failed ∧ (getPll two 2).state = .ready ∧
      (getRef two (bit (getPll two 2).srcB)).ready = true ∧ (getRef two (bit (!(getPll two 2).srcB))).ready = true) ∧
    (fwRuns (b ready) = true ∧ ¬(10 * (b ready).ck.driftPpm < (b ready).ck.dAB.natAbs) ∧
      ¬(10 * (b ready).ck.driftPpm < (b ready).ck.dAS.natAbs) ∧ ¬(10 * (b ready).ck.driftPpm < (b ready).ck.dBS.natAbs) ∧ (getRef (b ready) (bit ready.srcB)).drift = true ∧
      (getRef (b ready) (bit (getPll (b ready) 2).srcB)).drift = false) ∧
    ((b ready).ck.driftEn = true ∧ 10 * (b ready).ck.driftPpm < (-2501 : Int).natAbs ∧ ¬(10 * (b ready).ck.driftPpm < (2500 : Int).natAbs)) ∧
    ((tabGet {} (b ready).ck.ssc (1 : Fin 2)).en = false ∧ field (0x28 : W32) 1 5 = 20 ∧ within 30 63 (field (0x780 : W32) 6 6) = true ∧
      within 30 63 (field (0xFC0 : W32) 6 6) = true ∧ ({ en := true } : Ssc).en = true ∧
      field (0x840 : W32) 6 6 = ({} : Ssc).freq ∧ field (0x842 : W32) 1 5 ≠ ({} : Ssc).depth) ∧
    (within 20 30 (field (19 : W32) 0 5) = false ∧ within 20 30 (field (20 : W32) 0 5) = true ∧ within 20 30 (field (30 : W32) 0 5) = true ∧
      within 20 30 (field (31 : W32) 0 5) = false ∧ (getPll { ck := { plls := [(0, ready)] } } 0).state = .ready ∧
      field (28 : W32) 0 5 = (b ready).ck.cpllFreq) := by decide

/-- Each split of the host links, domains that serve, VFs at both ends of their number and beyond, a cold copy on a drive. -/
theorem witness_HostLinksAndInterrupts :
    let b : Block := { host := { pfs := [(3, { sriov := true, numVfs := 256, vfs := [(1, { tenant := some 1 })], intPend := 0x8000 })] },
                       bd := { cold := some { drives := [3] } } }
    (linkPfs 0 0 = [0, 1, 2, 3] ∧ linkPfs 1 1 = [2, 3] ∧ linkPfs 2 2 = [3] ∧ linkPfs 3 3 = [3] ∧ (getDom b (20 + 3)).inReset = false) ∧
    (vfThere b 3 1 = true ∧ vfThere b 3 256 = true ∧ vfThere b 3 0 = false ∧ vfThere b 2 1 = false ∧
      (getVf b 3 1).tenant = some 1) ∧
    (b.bd.cold = some { drives := [3] } ∧ (3 : Fin 4).val ∈ ({ drives := [3] } : ColdCopy).drives ∧ (getDom b 19).inReset = false ∧
      (getDrive { bd := { drives := [(3, { trained := true })] } } (3 : Fin 4)).trained = true ∧ 0xEFFFFFFFFFFF < 0xF00000000000 ∧
      (0x8000 : W32).getLsbD 15 = true ∧ (getPf b 3).intPend.getLsbD 15 = true) := by decide

/-- A ring with 16 entries: its tail at the bound and beyond, control words that are taken and that are not, the next command to
fetch with each kind of header, replies of a command, of none and early ones, and a coalescing time that ends now. -/
theorem witness_CommandRings :
    let c : CRing := { sqBase := 64, cqBase := 64, en := true, sqTail := 1, coalPending := 1, coalUs := 1, coalSince := 0 }
    let k : CmdOut := { opcode := 0x0101, early := true }
    let full : CRing := { c with cqTail := 15 }
    let b : Block := { host := { rings := [(.pf 0, 0, c), (.vf 0 1, 4, c), (.pf 0, 1, full)], outstanding := [k], done := [{ opcode := 0x0101 }, { opcode := 0x0202 }] },
                       fw := { phase := .running }, time := { nsec := 1000 } }
    let idle : Block := { b with host := { b.host with outstanding := [], done := [{}] } }
    let early : Block := { b with host := { b.host with done := [] } }
    (ringThere b (.pf 0) 15 = true ∧ (15 : W32).toNat % 4096 < 2 ^ c.sqLog ∧ 2 ^ c.sqLog = (16 : W32).toNat % 4096 ∧ c.stalled = false ∧
      (0x00010001 : W32).getLsbD 0 = true ∧ ({} : CRing).sqBase = 0 ∧ ({ c with en := false } : CRing).en = false ∧ c.sqBase ≠ 0 ∧
      c.cqBase ≠ 0 ∧ c.sqLog ≤ c.cqLog ∧ field (0x00010001 : W32) 8 5 = 0 ∧ field (0x00010001 : W32) 16 8 ≠ 0 ∧
      (0x00010000 : W32).getLsbD 0 = false ∧ field (0x00010000 : W32) 16 8 ≠ 0 ∧ ringThere b (.vf 0 1) 0 = false) ∧
    (nextFetch idle = some (fnNo (.pf 0), (0 : Fin 16).val) ∧ nextFetch {} ≠ some (fnNo (.pf 0), (0 : Fin 16).val) ∧
      nextFetch b = some (fnNo (.pf 0), (0 : Fin 16).val) ∧
      ringOut b (.pf 0) 0 ≠ [] ∧ ringOut idle (.pf 0) 0 = [] ∧ headerFault idle (.pf 0) 0 { opcode := 0x0101 } = none ∧
      headerFault idle (.pf 0) 0 { opcode := 0x0101, rsv := true } = some (stBadParam, false) ∧
      headerFault b (.pf 0) 0 { opcode := 0x0101 } = some (stBadParam, true)) ∧
    ((b.host.done.find? fun r => ofRing (.pf 0) 0 r.iss) = some { opcode := 0x0101 } ∧ c.en = true ∧
      cmdOf b { opcode := 0x0101 } = some k ∧ cqFull c = false ∧ cqFull full = true ∧ cmdOf b { opcode := 0x0101 } ≠ none ∧
      (idle.host.done.find? fun r => ofRing (.pf 0) 0 r.iss) = some {} ∧ cmdOf idle {} = none ∧ ({} : Reply).dup = false) ∧
    ((early.host.done.find? fun r => ofRing (.pf 0) 0 r.iss) = none ∧ ((ringOut early (.pf 0) 0).find? fun c => c.early) = some k ∧
      ((ringOut {} (.pf 0) 0).find? fun c => c.early) = none) ∧
    (c.coalPending ≠ 0 ∧ c.coalSince + c.coalUs * 1000 = nowNs b ∧ ({} : CRing).coalPending = 0) := by
  refine ⟨?_, ?_, ?_, ?_, ?_⟩ <;> decide

/-- PFs and VFs, tenants that exist and do not, ranks and VFs at both ends of their range, places with their certificates (whether a
certificate verifies is open). -/
theorem witness_TenantCommands :
    let b (r : TenantRec) : Block := { withTen r with host := { pfs := [(0, { sriov := true, numVfs := 256 })], outstanding := [{ iss := { pf0 with tag := 1 }, opcode := 0x0301 }] } }
    let vf : Issuer := { tenant := 1, vf := 256 }
    let p : SetPlacesP := { places := [0x1000000000], certs := [(0x2000000000, {})] }
    (isPf pf0 = true ∧ isPf vf = false ∧ (getVf (b {}) vf.pf vf.vf).tenant = none ∧ (64 : Nat) % 64 = 0 ∧ (63 : Nat) % 64 ≠ 0) ∧
    ((getTen (b ten) pf0.tenant).exists' = true ∧ (getTen (b {}) pf0.tenant).exists' = false ∧ vfThere (b {}) pf0.pf 256 = true ∧
      vfThere (b {}) pf0.pf 1 = true) ∧
    (fromOwnerPf (b ten) pf0 = true ∧ fromOwnerPf (b ten) vf = false ∧
      (∃ c ∈ (b ten).host.outstanding, c.iss.tenant.val = 1 ∧ namesTenant c.opcode.toNat = true ∧ c.iss ≠ pf0)) ∧
    ((getTen (b ten) 1).vf = 0 ∧ (getVf (b ten) (getTen (b ten) 1).creatingPf 256).tenant = none ∧ p.count = ten.ranks ∧
      p.places.length = p.count ∧ 1 ≤ p.certs.length ∧ p.certs.length ≤ 16384 ∧ tenantHeld (b ten) 1 = false ∧
      ({ ten with released0 := true } : TenantRec).released0 = true ∧ ten.released0 = false ∧ placeOk 0x1000000000 = true ∧
      placeLevel 0x1000000000 = 1 ∧ certsCover p = true ∧
      certsCover { p with certs := [(0x2000010000, {})] } = false ∧ noRepeats (p.certs.map fun c => c.2.serial) = true ∧
      certOk { magic := 0 } = false) := by
  refine ⟨?_, ?_, ?_, ?_⟩ <;> decide

theorem witness_TenantCommands_certificate :
    let c : Cert := {}
    Config.certificateOk (certBody c) c.sig = true → certOk c = true := by
  intro c h; simp only [certOk, h, c]; decide

/-- A boot without an image (with one: the next theorem), pairs and heartbeats at 10 ms and beyond, images at the room of a bank,
rebinds of each kind and their deadlines at their nanosecond, a trial that ends and a cluster in turn. -/
theorem witness_FirmwareUpdates :
    let i : FwImage := { raw := fwRaw 0 0 }
    let j : FwImage := { raw := leBytes 4 0x4D495746 ++ leBytes 4 1 ++ leBytes 4 352 ++ zeroBytes 10 ++ leBytes 2 1 ++ zeroBytes 328 }
    let b (f : Firmware) : Block := { fw := f, pw := { porstN := true }, time := { nsec := 10000000 }, sus := { fwBeatAt := 0 } }
    let late : Block := { fw := { phase := .running }, time := { nsec := 10000001 } }
    let st' (k : Nat) : Firmware := { phase := .running, banks := [(k, true, i)] }
    let r : Rebind := { at' := 10000000 }
    let re : Firmware := { phase := .rebinding, rebind := some r }
    let gap : Firmware := { phase := .gap, rebind := some r, banks := [(0, true, i)] }
    ((b {}).fw.phase = .boot ∧ (b {}).fw.down = false ∧ (getDom (b {}) 1).inReset = false ∧ (b {}).pw.porstN = true ∧
      (bankImage (b {}) 0 false).filter (fwImageOk (b {}) 0) = none ∧ (bankImage (b {}) 0 true).filter (fwImageOk (b {}) 0) = none) ∧
    ((b (st' 0)).fw.single = false ∧ (b (st' 0)).fw.faultedPair = false ∧ (b (st' 0)).sus.fwBeatAt + 10000000 = nowNs (b (st' 0)) ∧
      late.sus.fwBeatAt + 10000000 < nowNs late ∧ mgmtLimit late = false ∧ mgmtLimit { late with hr := { domains := [(1, { resets := [0, 0, 0] })] } } = true ∧ ({ faultedPair := true } : Firmware).faultedPair = true ∧ fwRuns late = true) ∧
    (isAdmin (b {}) pf0 = true ∧ ({ length := 16777216 } : FwStageP).length = bankRoom 0 ∧ bankRoom 1 = 2097152 ∧ bankRoom 2 = 262144 ∧
      ((b {}).fw.rebind.map fun r => r.kind) ≠ some 0 ∧ nthD 0 (b {}).fw.minSvn 0 = i.svn ∧
      nthD 0 ({ minSvn := [1, 0, 0, 0] } : Firmware).minSvn 0 > i.svn ∧
      i.headerOk 0 352 = true ∧ i.keySlot = 0 ∧ i.headerOk 0 16777216 = false ∧ FwImage.headerOk { raw := fwRaw 0 1 } 0 352 = true ∧
      FwImage.keySlot { raw := fwRaw 0 1 } ≠ 0) ∧
    (999999999 < nsPerSec ∧ (b (st' 0)).fw.rebind = none ∧ stagedImage (b {}) 2 = none ∧ stagedImage (b (st' 0)) 0 = some i ∧
      stagedImage (b (st' 1)) 1 = some i ∧ stagedImage (b (st' 2)) 2 = some i ∧
      ((bankImage (b (st' 0)) 0 false).map fun i => i.handoverVer).getD 0 = i.handoverMin ∧
      ((bankImage (b (st' 0)) 0 false).map fun i => i.handoverVer).getD 0 < j.handoverMin ∧
      runningSlots (b {}) = [] ∧ runningSlots { sn := [(15, { tetherUp := true, phase := .running })] } = [15]) ∧
    (re.rebind = some r ∧ r.kind = 0 ∧ nowNs (b re) + 1000000 = ({ r with at' := 11000000 } : Rebind).at' ∧ r.readySeen = false ∧
      ({ r with readySeen := true } : Rebind).readySeen = true ∧ r.at' = nowNs (b re)) ∧
    (gap.rebind = some r ∧ stagedImage (b gap) 0 = some i ∧ nowNs (b gap) = ({ r with at' := 8000000 } : Rebind).at' + 2000000 ∧
      ({ r with at' := 9000000 } : Rebind).at' + 1000000 = nowNs (b gap) ∧ ({ r with kind := 1 } : Rebind).blockDone = false ∧
      (getDom (b gap) 2).inReset = false) ∧
    (({ trialEnd := some 10000000 } : Firmware).trialEnd = some (nowNs (b {})) ∧ ({} : Firmware).trialAdvance = false ∧
      ({ trialAdvance := true } : Firmware).minSvn ≠ []) ∧
    ((let k : Block := { col := { ucodeCluster := some 14 }, fw := { banks := [(1, false, i)] } }
      k.col.ucodeCluster = some (14 : Fin 16).val ∧ bankImage k 1 k.fw.ucodeBank = some i ∧ (getDom k (3 + 14)).inReset = false ∧
        k.col.ucodeCluster ≠ some (15 : Fin 16).val) ∧ ∀ c, (getCore {} c).tile = none) := by
  refine ⟨by decide +kernel, by decide +kernel, by decide +kernel, by decide +kernel, by decide +kernel, by decide +kernel,
    by decide +kernel, ⟨by decide +kernel, fun c => rfl⟩⟩

/-- An image of firmware is good where its signature verifies. -/
theorem witness_FirmwareUpdates_image :
    let i : FwImage := { raw := fwRaw 0 0 }
    let b : Block := { fw := { banks := [(0, false, i)] } }
    Config.signatureOk 0 i.body i.sig = true → (bankImage b 0 false).filter (fwImageOk b 0) = some i := by
  intro i b h
  have e : i.headerOk 0 i.raw.length = true ∧ i.keySlot = 0 ∧ nthD 0 b.fw.minSvn 0 ≤ i.svn := by decide +kernel
  have hi : fwImageOk b 0 i = true := by simp [fwImageOk, e, h]
  show (some i).filter _ = _
  simp [Option.filter, hi]

/-- Both actions of SPECIMEN_LOAD, a period that ends now and one off, a faulted pair, and the specimens of a unit and of an
accelerator: alone, before another one, and at a readmission. -/
theorem witness_Specimens :
    let b (r : SlotRec) : Block := { slots := [(15, r)], time := { sec := 3600 } }
    let i : FwImage := { raw := fwRaw 3 7 }
    let ok : SpecResult := .reads (List.replicate 64 0)
    let unit : SlotRec := { specs := [(some 4095, some pf0), (none, none)], specFrom := 3599000000000 }
    let all : SlotRec := { specs := [(none, none)], specFrom := 3599000000000, readmitting := true, readmitIss := some pf0 }
    (isAdmin (b {}) { pf := 1 } = false ∧ isAdmin (b {}) pf0 = true ∧ i.headerOk 3 352 = true ∧ 352 ≤ 8388608 ∧ i.keySlot = 7 ∧
      nthD 0 (b {}).fw.minSvn 3 ≤ i.svn) ∧
    ((b {}).fw.specPeriodS ≠ 0 ∧ (b {}).fw.specAt + (b {}).fw.specPeriodS * nsPerSec = nowNs (b {}) ∧
      nowNs {} < ({} : Firmware).specAt + 3600 * nsPerSec ∧ ({ specPeriodS := 0 } : Firmware).specPeriodS = 0 ∧
      (b {}).fw.faultedPair = false ∧ ({ faultedPair := true } : Firmware).faultedPair = true) ∧
    (({} : SlotRec).specs = [] ∧ unit.specs = [(some 4095, some pf0), (none, none)] ∧ specOk (b unit) 15 ok = true ∧
      specOk (b unit) 15 (.areas []) = false ∧ specOk (b { unit with specFrom := 3598999999999 }) 15 ok = false ∧
      all.specs = [(none, none)] ∧ all.readmitting = true ∧ all.readmitIss = some pf0 ∧ specOk (b all) 15 ok = true ∧
      specOk (b all) 15 (.areas []) = false ∧ all.heldByKettle = false ∧ ({ all with readmitting := false } : SlotRec).readmitting = false) := by
  decide +kernel

/-- The last counters of both views and one beyond, rings of each kind at their bounds, issuers that may and may not read. -/
theorem witness_CounterReads :
    let b : Block := { withTen ten with slots := [(15, { decl := some { nEngines := 256 }, stale := false })], sn := [(15, { tetherUp := true })] }
    let vf : Issuer := { tenant := 1, vf := 1 }
    (isAdmin b pf0 = true ∧ isAdmin b vf = false ∧ fromTenant b pf0 = true ∧ (getTen b pf0.tenant.val).exists' = true ∧
      4095 + 1 = 4096 ∧ 2047 + 1 = 2048 ∧ 4096 < 4096 + 1) ∧
    (marginOk b { index := 511, count := 1024 } = true ∧ marginOk b { kind := 1, index := 23 } = true ∧
      marginOk b { kind := 2, slot := 15, index := 255, count := 256 } = true ∧ mayMargin b pf0 {} = true ∧ mayMargin b vf {} = false ∧
      (getSn b 15).tetherUp = true ∧ (getSn {} 15).tetherUp = false ∧ snStale b 15 = false ∧
      snStale { slots := [(15, { stale := true })] } 15 = true) := by decide

/-- Records to read, to clear and to copy, a leaf bit that stays set for 1 ms, and the erasing and the scan of the mirror. -/
theorem witness_FlyleafCommands :
    let d : SummaryDue := { leaf := .col, bit := 2, count := 1 }
    let b : Block := { leaf := [(.col, 4)], fly := { dues := [d], ring := [{ seq := 1 }] }, time := { nsec := 1000000 } }
    let off : Block := { fly := { dues := [d] } }
    (isAdmin b pf0 = true ∧ isAdmin b { pf := 1 } = false ∧ (16 : Byte).toNat ≤ 16 ∧ tokenOk b b.fly.nonce 1 {} = false) ∧
    (b.fly.dues = [d] ∧ dueLive b d = true ∧ d.count ≠ 0 ∧ d.last + 1000000 = nowNs b ∧ b.fly.stopped = false ∧
      (leafType d.leaf d.bit).isSome = true ∧ dueLive off d = false) ∧
    (b.fly.mirrorEn = true ∧ (uncopiedRecs b).take 4 ≠ [] ∧ b.fly.mirror.length + ((uncopiedRecs b).take 4).length ≤ mirrorSlots ∧
      b.fly.lapFirst = none ∧ (uncopiedRecs off).take 4 = []) ∧
    (b.fly.clearing = false ∧ ({ clearing := true, eraseBlocks := 1 } : Flyleaf).eraseBlocks ≤ 1 ∧ b.fly.mirror.length ≤ mirrorKept ∧
      ({ scanned := true } : Flyleaf).scanned = true ∧ b.fly.scanned = false ∧ b.pw.aonUp = true ∧ b.fly.ring.length ≤ 60000 ∧
      (0 : Fin 4).val = b.ident.adminPf ∧ (1 : Fin 4).val ≠ b.ident.adminPf) := by decide

theorem witness_FlyleafCommands_full : mirrorKept < (List.replicate 130049 ({} : MirrorRec)).length := by
  simp only [List.length_replicate]; decide

/-- Both inputs of the supply in each state, the return to input A at 10 ms, hold-up tests at 15 mV and 16 mV, and rails 5 and 6. -/
theorem witness_AlwaysOnSupply :
    let b (p : Power) : Block := { pw := p, time := { nsec := 10000000 } }
    let both : Power := { aValid := true, bValid := true }
    let onB : Power := { both with aonSrc := 1 }
    let gone : Power := { aonSrc := 2 }
    (both.aonSrc = 0 ∧ both.aValid = true ∧ both.bValid = true ∧ onB.aonSrc = 1 ∧ ({} : Power).bValid = false) ∧
    (onB.preferA = true ∧ onB.aValidSince + 10000000 = nowNs (b onB) ∧ ({ onB with preferA := false } : Power).preferA = false ∧
      (b onB).fly.stopped = false ∧ onB.aonUp = true ∧ ({ stopped := true } : Flyleaf).stopped = true) ∧
    (both.holdTestDue = true ∧ 15 ≤ 15 ∧ 15 < 16 ∧ ({ holdTestDue := false } : Power).holdTestDue = false ∧
      (8 : W32).getLsbD 3 = true ∧ (8 : W32).getLsbD 4 = false ∧ (16 : W32).getLsbD 4 = true) ∧
    (gone.aonSrc = 2 ∧ gone.aValid = false ∧ gone.aonUp = true ∧ ({ aonUp := false } : Power).aonUp = false ∧ onB.aonSrc ≠ 2 ∧
      (5 : Fin 10).val < 6 ∧ 6 ≤ (6 : Fin 10).val) := by decide

/-- Throttling at its first and its last cluster and its intervals, slots in each state, and module classes at their bounds. -/
theorem witness_ThermalAndSlotPower :
    let b : Block := { col := { withheld := 14 }, time := { nsec := 100000000 }, ident := {} }
    let x : SlotRec := { on := true, role := roleActive, seqStart := some 0 }
    ((b.pw.throttleEn = true ∧ b.col.withheld < 15 ∧ b.pw.lastWithhold + 1000000 ≤ nowNs b ∧ ({} : Block).col.withheld = 0 ∧
      15 ≤ ({ withheld := 15 } : Collator).withheld ∧ b.col.withheld ≠ 0 ∧ Nat.max b.pw.lastReturn 90000000 + 10000000 = nowNs b ∧
      nowNs {} < ({} : Power).lastWithhold + 1000000 ∧
      ({ throttleEn := false, capEn := false } : Power).throttleEn = false ∧ b.pw.thermAlert = false) ∧
    ((1 : Fin 4).val ≠ b.ident.adminPf ∧ (0x8000 : W32).getLsbD (15 : Fin 16) = true ∧ ({} : SlotRec).on = false ∧
      ({ prsntN := false } : SlotRec).prsntN = false ∧ ({} : SlotRec).prsntN = true ∧ (0 : W32).getLsbD (15 : Fin 16) = false ∧
      x.on = true ∧ x.role = roleActive ∧ tenantHeld b x.tenant = false ∧ ({ x with role := roleSpare } : SlotRec).role ≠ roleActive)) ∧
    (x.readmitting = false ∧ x.seqStart = some 0 ∧ 0 + 100000000 = nowNs b ∧ x.pwren = false ∧
      (let r : SlotRec := { readmitting := true, readmitIss := some pf0, specs := [(some 3, none)] }
       r.readmitting = true ∧ r.readmitIss = some pf0 ∧ r.seqStart = none ∧ (∀ y ∈ r.specs, y.1 ≠ none) ∧ r.readmitAt ≤ nowNs b)) ∧
    (1 ≤ (1 : Fin 9).val ∧ (1 : Fin 9).val ≤ (getPort b 7).modClass ∧ (getPort b 7).modClass < (2 : Fin 9).val) := by decide

/-- Offsets at the ends of both windows, widths and PFs that may not write, values at the ends of their ranges, a policy register of
a tenant, and PLACE_CFG before and after it is valid. -/
theorem witness_RegisterWrites :
    let b (v : Bool) : Block := { withTen ten with ident := { valid := v } }
    (inWindow (.pf 0) 0xFFFFC = true ∧ inWindow (.pf 0) 0x100000 = false ∧ inWindow (.vf 0 1) 0xFFFC = true ∧
      inWindow (.vf 0 1) 0x10000 = false ∧ accessOk 0x20 4 = true ∧ accessOk 0x24 8 = false ∧ accessOk 0x20 2 = false ∧
      mayWrite (b false) (1 : Fin 4) 0x20 = false ∧ (0 : Fin 4).val = (b false).ident.adminPf) ∧
    (storageTarget 0x1FFFFFFC = some (3, false, 0x400FEFFFFC - 0x400000000 + 0x400000000) ∧ storageTarget bar2Base = some (0, true, 0) ∧
      storageTarget 0x10001000 = none ∧ (getDrive { bd := { drives := [(3, { trained := true })] } } 3).trained = true ∧
      srcIsPf (.vf 0 1) = false) ∧
    (within 50 100000 (field (50 : W32) 0 17) = true ∧ within 50 100000 (field (100000 : W32) 0 17) = true ∧
      within 50 100000 (field (49 : W32) 0 17) = false ∧ within 50 100000 (field (100001 : W32) 0 17) = false ∧
      within 2 30 (field (2 : W32) 0 5) = true ∧ within 2 30 (field (30 : W32) 0 5) = true ∧
      within 1 20 (field (0x00146232 : W32) 16 5) = true ∧ within 50 95 (field (0x00146232 : W32) 0 7) = true ∧
      within (field (0x00146232 : W32) 0 7 + 1) 98 (field (0x00146232 : W32) 8 7) = true) ∧
    ((getTen (b false) 1).exists' = true ∧ (getTen (b false) 1).creatingPf = (0 : Fin 4).val ∧ (1 : Fin 4).val ≠ (b false).ident.adminPf ∧
      (b false).ident.valid = false ∧ (b true).ident.valid = true ∧ (0x80000001 : W32).getLsbD 31 = true ∧ (0 : W32).getLsbD 31 = false ∧
      (0x80000001 : W32).extractLsb' 0 6 ≠ (b true).ident.rack ∧ spineDisabled (b true) = true ∧
      spineDisabled { spine := { enable := true } } = false ∧ (0 : W32).extractLsb' 0 6 = (b true).ident.rack ∧
      (0 : W32).extractLsb' 6 6 = (b true).ident.block ∧ (0 : W32).extractLsb' 12 3 = (b true).ident.hall) := by decide

/-- PORST_N low and high, temperatures just below the limit, a domain that leaves reset, straps that differ, and a slot's pins. -/
theorem witness_PinEvents :
    let up : Block := { pw := { porstN := true } }
    let low : Block := { hr := { domains := [(48, { inReset := true })] }, pw := { temps := [(0, 379)] } }
    (up.pw.porstN = true ∧ low.pw.porstN = false ∧ sensorsCool low = true ∧ (getDom low 48).inReset = true ∧
      (getDom low 48).holdReset = false ∧ (getDom low 48).withdrawn = false ∧ recentResets low 48 < low.hr.escCount ∧
      low.pw.thermTripN = true) ∧
    ((1 : BitVec 5) ≠ up.ident.geoPins ∧ up.fly.stopped = false ∧ (getSlot up 15).prsntN = true ∧
      ({ prsntN := false } : SlotRec).prsntN = false ∧ (getDom up (24 + 15)).inReset = false ∧ (getDom up (24 + 15)).withdrawn = false ∧
      (getSlot up 15).alertN = true ∧ ({ alertN := false } : SlotRec).alertN = false) := by decide

/-- One step of a queue of one command, and no step of an empty one. -/
theorem witness_QueueRuns :
    0 ≤ (st {}).pending.length ∧ 1 ≤ ({ pending := [.launchFire], blk := {} } : State).pending.length := by decide

/-- TPLL that is not READY and one that is: an immediate load, one due at the end of a second, a pulse at a second boundary, the last
nanosecond of a slew, and nothing for the links to send. -/
theorem witness_IdleStep :
    let b (t : SpineTime) : Block := { ck := { plls := [(2, { state := .ready })] }, time := t }
    let now := b { loadNow := some (7, some pf0) }
    let due := b { loadPending := true, nsec := 999999999, frac := 0xFFFFFFFF }
    let slew := b { slewIss := [pf0], spanLeft := 1 }
    let pulse := b { ppsOutMode := 1, nsec := 999999999, frac := 0xFFFFFFFF }
    (st {}).pending = [] ∧ ({} : Block).bd.repairDue = [] ∧ (∀ l, l < 24 → (getLink {} l).txWait = []) ∧
    ¬((getPll {} 2).state = .ready ∨ ({} : Block).time.degraded = true) ∧ (getPll due 2).state = .ready ∧
    now.time.loadNow = some (7, some pf0) ∧ due.time.loadNow = none ∧ (due.time.loadPending = true ∧ rollsOver due = true) ∧
    ¬(slew.time.loadPending = true ∧ rollsOver slew = true) ∧ slew.time.slewIss = [pf0] ∧ slew.time.spanLeft = 1 ∧
    (pulse.time.ppsOutMode = 1 ∧
      sincePulse (counter (clockTick pulse)) pulse.time.ppsOffset < (counter (clockTick pulse) : Int) - counter pulse) := by
  decide +kernel

/-- PORST_N low and high, a step that keeps it high, and pins that differ from the sampled ones. -/
theorem witness_TrayIsSampledOnce :
    let up : State := { pending := [.geoTrayChange 31], blk := { pw := { porstN := true } } }
    ({} : Block).pw.porstN = false ∧ up.blk.pw.porstN = true ∧ (31 : BitVec 5) ≠ up.blk.ident.geoPins ∧ up.blk.fly.stopped = false ∧
    (match step up with | .next t => t.blk.pw.porstN | .fault _ => false | .refused _ => false) = true := by decide

/-- A pass of the weight of BASE, one beneath it that loses bits and sums at both ends of VALUE and beyond. -/
theorem witness_WindowSumsAreExact :
    let b (v : BitVec 256) (p : Pass) : Block := run { xacc := [(0, { value := v })], passes := [p] }
    let top : BitVec 256 := BitVec.ofInt 256 (2 ^ 255 - 1)
    let low : BitVec 256 := BitVec.ofInt 256 (-(2 ^ 255))
    coreRuns (b 0 {}) 0 = true ∧ (getCore (b 0 { sum := 1 }) 0).passes = { sum := 1 } :: [] ∧ (xGet (getCore (b 0 {}) 0) 0).ovf = false ∧
    top.toInt + 0 = 2 ^ 255 - 1 ∧ low.toInt + 0 = -(2 ^ 255) ∧ 2 ^ 255 - 1 < top.toInt + 1 ∧ low.toInt + -1 < -(2 ^ 255) ∧
    (-1 : Int) < (xGet (getCore (b 0 {}) 0) 0).base.toInt ∧ (3 : Int) % 2 ^ (0 - (-1 : Int)).toNat ≠ 0 := by decide

/-- Counters at the ends of the windows that hold them, and offsets without one. -/
theorem witness_CountersThatReadsClear :
    (rcReg {} 0x31040).isSome = true ∧ (rcReg {} 0xF0038).isSome = true ∧ (rcReg {} 0x40208).isSome = true ∧
    rcReg {} 0x3103C = none ∧ (rcReg { ver := { lateCount := 5 } } 0x70014).map Prod.fst = some 5 := by
  refine ⟨by decide, by decide, by decide, rfl, by decide⟩

/-- Commands of both tables, and one of neither. -/
theorem witness_LocalFrames : localParts (.mbpop 0 0 0) = some [.col, .obs, .openValues] := rfl
theorem witness_ChapterFrames : chapterParts (.identify {} 0 false) = some [.replies] ∧ chapterParts .thermalTrip = none := ⟨rfl, rfl⟩

/-! ## Behaviour, against the manual's tables and examples -/

/-- What holds of the block that one command leaves. -/
abbrev after (i : Instr) (b : Block) (f : Block → Bool) : Bool :=
  match exec i (st b) with
  | .next t => f t.blk
  | .fault _ => false
  | .refused _ => false

/-- The value of a decoded element, times 2^k. -/
abbrev times (x : Fp) (k : Nat) : Dy := dyMul (fpDy x) (dyPow k)

/-- Table 2.1, largest finite values: INT8, E4M3, E5M2, binary16 and the elements of the MX formats. -/
theorem test_largest_finite :
    dyEq (times (decodeIn 0 false 0x7F) 0) (dyNat 127) && dyEq (times (decodeIn 1 false 0x7E) 0) (dyNat 448) &&
    dyEq (times (decodeIn 2 false 0x7B) 0) (dyNat 57344) && dyEq (times (decodeIn 4 false 0x7BFF) 0) (dyNat 65504) &&
    dyEq (times (decodeIn 0xA false 0x1F) 0) (dyNat 28) && dyEq (times (decodeIn 0xB false 0x1F) 1) (dyNat 15) &&
    dyEq (times (decodeIn 0xC false 7) 0) (dyNat 6) && dyEq (times (decodeIn 0xD false 0x7F) 6) (dyNat 127) = true := by decide

/-- Table 2.1, special values of E4M3 and E5M2. -/
theorem test_specials :
    decodeIn 1 false 0x7F = .nan ∧ decodeIn 1 false 0xFF = .nan ∧ decodeIn 2 false 0x7C = .inf false ∧ decodeIn 2 false 0xFC = .inf true ∧
    decodeIn 2 false 0x7D = .nan := by decide

/-- Table 3.8, cycles 102 and 103: TAKE of a count of 2 returns 2 and leaves 1; a signal of input 3 is refused and leaves it. -/
theorem test_take :
    after (.take 0 3 1) (run { tin := [(3, { count := 2 })] }) (fun b =>
      (tabGet {} (getCore b 0).tin 3).count == 1 && gGet (getCore b 0) 1 == 2) = true := by decide
theorem test_evsig_below_32 :
    after (.evsig 0 3 1 2) (run { g := [(2, 255)], tin := [(3, { count := 1 })] }) (fun b =>
      (tabGet {} (getCore b 0).tin 3).count != 256 && leafBit b .col 2) = true := by decide

/-- Table 6.4: the boundary tick takes the staged 1,000 s and counts a step; the launch for 100 s fires, marked late. -/
theorem test_boundary_load :
    let b : Block := { ck := { plls := [(2, { state := .ready })] },
                       time := { sec := 41, nsec := 999999999, setSec := 1000, loadPending := true, launches := [{ at' := 100000000000 }] } }
    after .stBoundaryLoad b (fun b => b.time.sec == 1000 && b.time.nsec == 0 && b.time.stepCount == 1 && b.time.launches.isEmpty) = true := by
  decide +kernel
theorem test_shadow :
    after (.stNsecRead (.pf 0)) { time := { sec := 41, nsec := 999995000 } } (fun b =>
      getShadow b (.pf 0) == { sec := 41 }) = true := by decide

/-- Table 12.6: the leader meets the collision and names lane 1 and the first frame to replay; the other end keeps its own
request as the answer. -/
theorem test_width_collision :
    let lane : Lane := { lock := true, inUse := true }
    let k : Link := { state := .changing, width := 4, leader := true, widthReqSent := some (2, 0xB), txUnacked := [0x3A5],
                      lanes := [(0, lane), (1, lane), (3, lane)] }
    after (.widthReq 1 (lcsHdr {} (.widthReq 2 0xE)) 2 0xE) { links := [(1, k)] } (fun b => (getLink b 1).width == 1 &&
      b.out.contains (.lcs 1 (lcsHdr { place := ownPlace {}, port := 1 } (.widthGo 0x2 false 0x3A5)) (.widthGo 0x2 false 0x3A5)) && leafBit b (.lkS 1) 1) = true ∧
    after (.widthReq 0 (lcsHdr {} (.widthReq 2 0xB)) 2 0xB) { links := [(0, { k with leader := false })] } (fun b => b.out == []) = true := by decide +kernel

/-- Table 11.3 at 5.060 ms: two reporters and no answer make a silent suspect. -/
theorem test_silent_suspect :
    let e : Entry := { state := .opened, target := 0x2000030000, probeUntil := some 5060000, probed := true,
                       reporters := [0x2000020000, 0x2000040000] }
    after (.probeTimeout 0) { sus := { entries := [(0, e)] }, time := { nsec := 5060000 } } (fun b =>
      (getEntry b 0).state == .suspect && (getEntry b 0).silent && leafBit b .sr 1) = true := by decide

/-- Table 10.5 at −250 µs: a time 250 µs ahead is accepted and tells the sentinel; one 199.999 µs ahead is not. -/
theorem test_hold_at :
    after (.holdAt pf0 { nsec := 250000 }) (withTen ten) (fun b =>
      (getTen b 1).hold.phase == .scheduled && b.out.contains (.toSentinel 0 (.holdAt 250000))) = true ∧
    after (.holdAt pf0 { nsec := 199999 }) (withTen ten) (fun b => (getTen b 1).hold.phase == .none) = true := by decide

/-- The queue is first in, first out, and an empty one ticks: a TPLL that is not READY holds the counter. -/
theorem test_fifo :
    (match step { pending := [.intPendWrite 0 0, .launchFire], blk := {} } with
     | .next t => decide (t.pending = [.launchFire])
     | .fault _ => false
     | .refused _ => false) = true := by decide
theorem test_idle_tick_holds : (match step State.reset with
     | .next t => decide (t = State.reset)
     | .fault _ => false
     | .refused _ => false) = true := by decide +kernel

/-- FIPS 180-4: the digest of no bytes; the check values of CRC-32C and CRC-16 over "123456789". -/
theorem test_check_codes :
    sha256 [] = 0xe3b0c44298fc1c149afbf4c8996fb92427ae41e4649b934ca495991b7852b855 ∧
    crc32c [0x31, 0x32, 0x33, 0x34, 0x35, 0x36, 0x37, 0x38, 0x39] = 0xE3069283 ∧
    crc16 [0x31, 0x32, 0x33, 0x34, 0x35, 0x36, 0x37, 0x38, 0x39] = 0x29B1 := by decide +kernel


end Sys2Proof.Tests
end

/-!
SUPPORT. Reads of BAR0, of a VF's window and through the storage window (R7-R9, R12, R27, R28, R340): one equation for each kind of
access, where the counters stand and what they hold once a read has cleared them, and the commands that read counters.
-/

namespace Sys2Proof.Machine

/-! ## Reads of registers (R7-R9, R12, R27, R28) -/

theorem answers_rcCounterRead_iff {src : Src} {off width : Nat} {same : BitVec 2} {s : State} {P : Block → Prop} :
    Answers (.rcCounterRead src ⟨off, width⟩ same) s P ↔ P (effRegRead src off width same s.blk) :=
  answers_iff_of_act rfl

theorem accessOk_word {off : Nat} (h : off % 4 = 0) : accessOk off 4 = true := by simp [accessOk, h]

theorem accessOk_pair {off : Nat} (h : off % 8 = 0) : accessOk off 8 = true := by simp [accessOk, h]

theorem inWindow_pf {pf : Fin 4} {off : Nat} : inWindow (.pf pf) off = decide (off < 0x100000) := rfl

theorem inWindow_vf {pf : Fin 4} {vf : Fin 257} {off : Nat} : inWindow (.vf pf vf) off = decide (off < 0x10000) := rfl

/-- BAR0 ends below the storage window. -/
theorem not_bar2Base_le {off : Nat} (h : off < 0x100000) : ¬bar2Base ≤ off := by simp only [bar2Base]; omega

/-- Below the storage window a PF reads its BAR0, if the access is naturally aligned. -/
theorem effRegRead_pf (b : Block) (pf : Fin 4) {off width : Nat} (same : BitVec 2) (h : off < 0x100000)
    (hw : accessOk off width = true) (hs : readsSensor (.pf pf) off = false) :
    effRegRead (.pf pf) off width same b =
      let lo := readReg (.pf pf) off (same.getLsbD 0) b
      let hi := readReg (.pf pf) (off + 4) (same.getLsbD 1) lo.2
      if width = 4 then emit lo.2 (.readData off (lo.1.setWidth 64)) else emit hi.2 (.readData off (hi.1 ++ lo.1)) := by
  simp [effRegRead, inWindow_pf, not_bar2Base_le h, h, hw, hs]

theorem effRegRead_pf_word (b : Block) (pf : Fin 4) {off : Nat} (same : BitVec 2) (h : off < 0x100000) (hw : off % 4 = 0)
    (hs : readsSensor (.pf pf) off = false) :
    effRegRead (.pf pf) off 4 same b =
      let r := readReg (.pf pf) off (same.getLsbD 0) b
      emit r.2 (.readData off (r.1.setWidth 64)) :=
  effRegRead_pf b pf same h (accessOk_word hw) hs

theorem effRegRead_pf_pair (b : Block) (pf : Fin 4) {off : Nat} (same : BitVec 2) (h : off < 0x100000) (hw : off % 8 = 0)
    (hs : readsSensor (.pf pf) off = false) :
    effRegRead (.pf pf) off 8 same b =
      let lo := readReg (.pf pf) off (same.getLsbD 0) b
      let hi := readReg (.pf pf) (off + 4) (same.getLsbD 1) lo.2
      emit hi.2 (.readData off (hi.1 ++ lo.1)) :=
  effRegRead_pf b pf same h (accessOk_pair hw) hs

/-- R7: any other access to BAR0 is aborted. -/
theorem effRegRead_pf_abort (b : Block) (pf : Fin 4) {off width : Nat} (same : BitVec 2) (h : off < 0x100000)
    (hw : accessOk off width = false) : effRegRead (.pf pf) off width same b = abortAccess b (.pf pf) off := by
  simp [effRegRead, inWindow_pf, not_bar2Base_le h, h, hw]

/-- R340: from `bar2Base` on a PF reads the storage window. -/
theorem effRegRead_pf_storage (b : Block) (pf : Fin 4) {off : Nat} (width : Nat) (same : BitVec 2) (h : bar2Base ≤ off) :
    effRegRead (.pf pf) off width same b = storageRead pf off width b := by
  simp [effRegRead, srcIsPf, srcPf, h]

/-- R28: a VF that is not there, and an offset beyond a VF's window, give no access. -/
theorem effRegRead_vf_outside (b : Block) (pf : Fin 4) (vf : Fin 257) {off : Nat} (width : Nat) (same : BitVec 2)
    (h : vfThere b pf vf = false ∨ 0x10000 ≤ off) : effRegRead (.vf pf vf) off width same b = b := by
  rcases h with h | h
  · simp [effRegRead, srcIsPf, h]
  · simp [effRegRead, srcIsPf, inWindow_vf, h]

theorem effRegRead_vf (b : Block) (pf : Fin 4) (vf : Fin 257) {off width : Nat} (same : BitVec 2) (ht : vfThere b pf vf = true)
    (h : off < 0x10000) (hw : accessOk off width = true) :
    effRegRead (.vf pf vf) off width same b =
      let lo := readVf b pf vf (.vf pf vf) off
      let hi := readVf b pf vf (.vf pf vf) (off + 4)
      if width = 4 then emit b (.readData off (lo.setWidth 64)) else emit b (.readData off (hi ++ lo)) := by
  simp [effRegRead, srcIsPf, inWindow_vf, readReg, readsSensor, ht, h, hw]

/-- A register that no counter stands at shows its value, and the read changes only what it latches. -/
theorem readReg_plain {b : Block} {pf : Fin 4} {off : Nat} (same : Bool) (h : rcReg b off = none) :
    readReg (.pf pf) off same b = (readAt (readLatch pf off b) pf off, readLatch pf off b) := by
  simp [readReg, h]

/-- R12: a counter shows its value, and holds 1 or 0 after the read. -/
theorem readReg_counter {b : Block} {pf : Fin 4} {off : Nat} {v : Nat} {put : Nat → Block → Block} (same : Bool)
    (h : rcReg b off = some (v, put)) : readReg (.pf pf) off same b = (w32 v, put (bit same) b) := by
  simp [readReg, h]

theorem readLatch_other (pf : Fin 4) {off : Nat} (b : Block) (h1 : off ≠ 0x20010) (h2 : off ≠ 0x200E8) :
    readLatch pf off b = b := by simp [readLatch, h1, h2]

/-! ### The storage window (R340) -/

theorem storageRead_other {b : Block} {pf off width : Nat} (h : pf ≠ b.ident.adminPf) : storageRead pf off width b = b := by
  simp [storageRead, h]

theorem storageRead_hole {b : Block} {pf off width : Nat} (h : pf = b.ident.adminPf) (ht : storageTarget off = none) :
    storageRead pf off width b = emit b (.readData off 0) := by
  simp [storageRead, h, ht]

/-- An access through the storage window goes out to a drive whose link is trained. -/
theorem storageAccess_drive {b : Block} {pf off : Nat} {d : Nat} {config : Bool} {addr : Nat} (width : Nat) (write : Bool) (v : W64)
    (h : pf = b.ident.adminPf) (ht : storageTarget off = some (d, config, addr)) (hd : (getDrive b d).trained = true) :
    storageAccess pf off width write v b = emit b (.drive d config write addr width v) := by
  simp [storageAccess, h, ht, hd]

theorem storageRead_drive {b : Block} {pf off width : Nat} {d : Nat} {config : Bool} {addr : Nat} (h : pf = b.ident.adminPf)
    (ht : storageTarget off = some (d, config, addr)) (hd : (getDrive b d).trained = true) :
    storageRead pf off width b =
      emit (takeFree (emit b (.drive d config false addr width 0))) (.readData off (BitVec.ofNat 64 (freeVal b % 256 ^ width))) := by
  have hf : freeVal (emit b (.drive d config false addr width 0)) = freeVal b := rfl
  rw [storageRead, if_neg (not_not_intro h), ht, storageAccess_drive width false 0 h ht hd, ← hf]

/-! ### Where the counters stand -/

theorem ite_eq_some_cases {α : Type} {c : Prop} [Decidable c] {o p : Option α} {x : α} (h : (if c then o else p) = some x) :
    (c ∧ o = some x) ∨ (¬c ∧ p = some x) := by
  by_cases hc : c
  · exact .inl ⟨hc, (if_pos hc).symm.trans h⟩
  · exact .inr ⟨hc, (if_neg hc).symm.trans h⟩

theorem rcSpine_offset {b : Block} {off : Nat} {x : RcReg} (h : rcSpine b off = some x) : off % 4 = 0 := by
  unfold rcSpine at h
  iterate 3
    rcases ite_eq_some_cases h with ⟨hc, -⟩ | ⟨-, h⟩
    · omega
  cases h

theorem rcLink_offset {b : Block} {l off : Nat} {x : RcReg} (h : rcLink b l off = some x) : off % 4 = 0 := by
  unfold rcLink at h
  iterate 3
    rcases ite_eq_some_cases h with ⟨hc, -⟩ | ⟨-, h⟩
    · omega
  cases h

theorem rcSnCount_offset {s : Sentinel} {off : Nat} {x : Nat × (Nat → Sentinel → Sentinel)} (h : rcSnCount s off = some x) :
    off % 4 = 0 ∧ 0x100 ≤ off := by
  unfold rcSnCount at h
  iterate 7
    rcases ite_eq_some_cases h with ⟨hc, -⟩ | ⟨-, h⟩
    · omega
  cases h

theorem rcSn_offset {b : Block} {n off : Nat} {x : RcReg} (h : rcSn b n off = some x) : off % 4 = 0 ∧ 0x100 ≤ off := by
  unfold rcSn at h
  split at h
  · cases h
  · next hc => exact rcSnCount_offset hc

theorem rcGt_offset {b : Block} {off : Nat} {x : RcReg} (h : rcGt b off = some x) : off % 4 = 0 := by
  simp only [rcGt] at h
  iterate 2
    rcases ite_eq_some_cases h with ⟨hc, -⟩ | ⟨-, h⟩
    · omega
  rcases ite_eq_some_cases h with ⟨-, h⟩ | ⟨-, h⟩
  · cases h
  iterate 3
    rcases ite_eq_some_cases h with ⟨hc, -⟩ | ⟨-, h⟩
    · omega
  cases h

theorem rcBd_offset {b : Block} {off : Nat} {x : RcReg} (h : rcBd b off = some x) : off % 4 = 0 := by
  unfold rcBd at h
  iterate 3
    rcases ite_eq_some_cases h with ⟨hc, -⟩ | ⟨-, h⟩
    · omega
  cases h

theorem readsSensor_pf_eq_false_iff {pf : Fin 4} {off : Nat} : readsSensor (.pf pf) off = false ↔
    (0x58000 ≤ off → off ≤ 0x5FFFF → 0xE0 ≤ off % 0x800 → 0xFF < off % 0x800) := by
  simp [readsSensor, srcIsPf, within]

/-- Every counter is a register of BAR0, and none is a sensor. -/
theorem rcReg_offset {b : Block} {off : Nat} {x : RcReg} (h : rcReg b off = some x) (pf : Fin 4) :
    off < 0x100000 ∧ off % 4 = 0 ∧ readsSensor (.pf pf) off = false := by
  rw [readsSensor_pf_eq_false_iff]
  simp only [rcReg, within_iff] at h
  rcases ite_eq_some_cases h with ⟨hc, h⟩ | ⟨-, h⟩
  · omega
  rcases ite_eq_some_cases h with ⟨hc, h⟩ | ⟨-, h⟩
  · omega
  rcases ite_eq_some_cases h with ⟨hc, h⟩ | ⟨-, h⟩
  · have := rcSpine_offset h; omega
  rcases ite_eq_some_cases h with ⟨hc, h⟩ | ⟨-, h⟩
  · have := rcLink_offset h; omega
  rcases ite_eq_some_cases h with ⟨hc, h⟩ | ⟨-, h⟩
  · have := rcLink_offset h; omega
  rcases ite_eq_some_cases h with ⟨hc, h⟩ | ⟨-, h⟩
  · have := rcSn_offset h; omega
  rcases ite_eq_some_cases h with ⟨hc, h⟩ | ⟨-, h⟩
  · omega
  rcases ite_eq_some_cases h with ⟨hc, h⟩ | ⟨-, h⟩
  · have := rcGt_offset h; omega
  rcases ite_eq_some_cases h with ⟨hc, h⟩ | ⟨-, h⟩
  · have := rcBd_offset h; omega
  iterate 7
    rcases ite_eq_some_cases h with ⟨hc, h⟩ | ⟨-, h⟩
    · omega
  cases h

@[simp] theorem getSn_modSlot (b : Block) (n : Nat) (f : SlotRec → SlotRec) (k : Nat) : getSn (modSlot b n f) k = getSn b k := rfl
@[simp] theorem getSlot_modSn (b : Block) (n : Nat) (f : Sentinel → Sentinel) (k : Nat) : getSlot (modSn b n f) k = getSlot b k := rfl
@[simp] theorem getSn_modSn_same (b : Block) (n : Nat) (f : Sentinel → Sentinel) : getSn (modSn b n f) n = f (getSn b n) := by
  simp [modSn]
@[simp] theorem getSlot_modSlot_same (b : Block) (n : Nat) (f : SlotRec → SlotRec) : getSlot (modSlot b n f) n = f (getSlot b n) := by
  simp [modSlot]
@[simp] theorem getLink_modLink_same (b : Block) (l : Nat) (f : Link → Link) : getLink (modLink b l f) l = f (getLink b l) := by
  simp [modLink]

/-! ### What a counter holds once it is written -/

/-- Writing 0 or 1 to the counters that `f` finds sends nothing, and `f` then finds the value written. -/
def ClearsTo (f : Block → Option RcReg) : Prop :=
  ∀ b v put, f b = some (v, put) → ∀ w, w ≤ 1 → (put w b).out = b.out ∧ (f (put w b)).map Prod.fst = some w

theorem ClearsTo.none : ClearsTo fun _ => none := fun _ _ _ h => by cases h

/-- Which counter stands at an offset does not depend on the block. -/
theorem ClearsTo.ite {c : Prop} [Decidable c] {f g : Block → Option RcReg} (hf : ClearsTo f) (hg : ClearsTo g) :
    ClearsTo fun b => if c then f b else g b := by
  by_cases hc : c
  · simpa only [if_pos hc] using hf
  · simpa only [if_neg hc] using hg

/-- A counter that is a field of the block stands at an offset, and the counters of `f` at the others. -/
theorem ClearsTo.fieldElse {c : Prop} [Decidable c] {get : Block → Nat} {put : Nat → Block → Block} {f : Block → Option RcReg}
    (hf : ClearsTo f) (hg : ∀ b w, w ≤ 1 → get (put w b) = w := by exact fun _ _ _ => rfl)
    (ho : ∀ b w, (put w b).out = b.out := by exact fun _ _ => rfl) :
    ClearsTo fun b => if c then some (get b, put) else f b := by
  refine .ite (fun b v p h w hw => ?_) hf
  cases h
  exact ⟨ho b w, congrArg some (hg b w hw)⟩

theorem clearsTo_rcSpine (off : Nat) : ClearsTo (rcSpine · off) := .fieldElse <| .fieldElse <| .fieldElse .none

theorem clearsTo_rcLink (l off : Nat) : ClearsTo (rcLink · l off) :=
  .fieldElse (hg := fun b w _ => by simp) <| .fieldElse (hg := fun b w _ => by simp) <|
    .fieldElse (hg := fun b w _ => by simp) .none

theorem clearsTo_rcBd (off : Nat) : ClearsTo (rcBd · off) := .fieldElse <| .fieldElse <| .fieldElse .none

theorem sat32_of_le_one {w : Nat} (h : w ≤ 1) : sat32 w = w := by simp only [sat32]; omega

theorem clearsTo_rcGt (off : Nat) : ClearsTo (rcGt · off) :=
  .fieldElse <| .fieldElse <| .ite .none <| .fieldElse (hg := fun b w _ => by simp) <|
    .fieldElse (hg := fun b w hw => by simp [sat32_of_le_one hw]) <|
    .fieldElse (hg := fun b w hw => by simp [sat32_of_le_one hw]) .none

/-- Each counter of a sentinel's window is a field of the sentinel, and none is the end of a firmware gap. -/
theorem rcSnCount_put {s : Sentinel} {off v : Nat} {put : Nat → Sentinel → Sentinel} (h : rcSnCount s off = some (v, put)) (w : Nat) :
    rcSnCount (put w s) off = some (w, put) ∧ (put w s).fwGapEnd = s.fwGapEnd := by
  unfold rcSnCount at h ⊢
  iterate 7
    rcases ite_eq_some_cases h with ⟨hc, h⟩ | ⟨hc, h⟩
    · cases h; exact ⟨if_pos hc, rfl⟩
    rw [if_neg hc]
  cases h

theorem snStale_congr {b c : Block} {n : Nat} (hs : (getSlot c n).stale = (getSlot b n).stale)
    (hg : (getSn c n).fwGapEnd = (getSn b n).fwGapEnd) (ht : nowNs c = nowNs b) : snStale c n = snStale b n := by
  simp [snStale, hs, hg, ht]

/-- The counter of a current window is the sentinel's. -/
theorem rcSn_current {b : Block} {n off v : Nat} {put : Nat → Sentinel → Sentinel} (hs : snStale b n = false)
    (h : rcSnCount (getSn b n) off = some (v, put)) : rcSn b n off = some (v, fun w b => modSn b n (put w)) := by
  simp [rcSn, h, hs]

/-- R256, R12: a stale window shows the mirror's amount, which a read takes from the sentinel's own counter. -/
theorem rcSn_stale {b : Block} {n off v : Nat} {put : Nat → Sentinel → Sentinel} (hs : snStale b n = true)
    (h : rcSnCount (getSn b n) off = some (v, put)) :
    rcSn b n off = some ((snMirrored b n off).toNat, fun w b' =>
      modSn (modSlot b' n fun r => { r with mirror := tabPut r.mirror off (w32 w) }) n
        (put (v - (snMirrored b n off).toNat + w))) := by
  simp [rcSn, h, hs]

theorem w32_toNat_of_le_one {w : Nat} (h : w ≤ 1) : (w32 w).toNat = w := by
  simp only [w32, BitVec.toNat_ofNat]; omega

theorem clearsTo_rcSn (n off : Nat) : ClearsTo (rcSn · n off) := by
  intro b v put h w hw
  change rcSn b n off = some (v, put) at h
  change _ ∧ (rcSn (put w b) n off).map Prod.fst = some w
  cases hc : rcSnCount (getSn b n) off with
  | none => simp [rcSn, hc] at h
  | some c =>
    cases hs : snStale b n with
    | false =>
      rw [rcSn_current hs hc] at h
      cases h
      obtain ⟨hv, hg⟩ := rcSnCount_put hc w
      have hs' : snStale (modSn b n (c.2 w)) n = false := hs ▸ snStale_congr rfl (by simpa using hg) rfl
      rw [rcSn_current hs' (v := w) (put := c.2) (by simpa using hv)]
      exact ⟨rfl, rfl⟩
    | true =>
      rw [rcSn_stale hs hc] at h
      cases h
      obtain ⟨hv, hg⟩ := rcSnCount_put hc (c.1 - (snMirrored b n off).toNat + w)
      refine ⟨rfl, ?_⟩
      rw [rcSn_stale (v := c.1 - (snMirrored b n off).toNat + w) (put := c.2) ?_ (by simpa using hv)]
      · simp [snMirrored, w32_toNat_of_le_one hw]
      · exact hs ▸ snStale_congr (by simp) (by simpa using hg) rfl

theorem clearsTo_rcReg (off : Nat) : ClearsTo (rcReg · off) :=
  .fieldElse <| .fieldElse <| .ite (clearsTo_rcSpine _) <| .ite (clearsTo_rcLink _ _) <| .ite (clearsTo_rcLink _ _) <|
    .ite (clearsTo_rcSn _ _) <| .fieldElse <| .ite (clearsTo_rcGt _) <| .ite (clearsTo_rcBd _) <| .fieldElse <| .fieldElse <|
    .fieldElse <| .fieldElse <| .fieldElse <| .fieldElse <| .fieldElse .none

theorem rcReg_emit (b : Block) (o : Out) (off : Nat) : rcReg (emit b o) off = rcReg b off := rfl

theorem bit_le_one (x : Bool) : bit x ≤ 1 := by cases x <;> decide

/-! ### The places of the counters that are read -/

theorem rcReg_spineLink (b : Block) {off p o : Nat} (hp : p < 8) (ho : o < 0x100) (h : off = 0x41000 + 0x100 * p + o) :
    rcReg b off = rcLink b p o := by
  have hd : (off - 0x41000) / 0x100 = p := by omega
  have hm : off % 0x100 = o := by omega
  have hs : ¬within 0x40200 0x40208 off = true := by rw [within_iff]; omega
  have hl : within 0x41000 0x417FF off = true := by rw [within_iff]; omega
  rw [rcReg, if_neg (by omega), if_neg (by omega), if_neg hs, if_pos hl, hd, hm]

theorem rcReg_sentinel (b : Block) {off n o : Nat} (hn : n < 16) (ho : o < 0x800) (h : off = 0x58000 + 0x800 * n + o) :
    rcReg b off = rcSn b n o := by
  have hd : (off - 0x58000) / 0x800 = n := by omega
  have hm : off % 0x800 = o := by omega
  have below {lo hi : Nat} (h : hi < 0x58000) : ¬within lo hi off = true := by rw [within_iff]; omega
  have hs : within 0x58000 0x5FFFF off = true := by rw [within_iff]; omega
  rw [rcReg, if_neg (by omega), if_neg (by omega), if_neg (below (by omega)), if_neg (below (by omega)), if_neg (below (by omega)),
    if_pos hs, hd, hm]

theorem rcReg_linkCorr (b : Block) (p : Fin 8) :
    rcReg b (0x41010 + 0x100 * p) = some ((getLink b p).corr, fun w b => modLink b p fun k => { k with corr := w }) :=
  rcReg_spineLink b p.isLt (o := 0x10) (by omega) (by omega)

theorem rcReg_linkUncorr (b : Block) (p : Fin 8) :
    rcReg b (0x41010 + 0x100 * p + 4) = some ((getLink b p).uncorr, fun w b => modLink b p fun k => { k with uncorr := w }) :=
  rcReg_spineLink b p.isLt (o := 0x14) (by omega) (by omega)

theorem rcReg_posted (b : Block) (n : Fin 16) : rcReg b (0x58100 + 0x800 * n) = rcSn b n 0x100 :=
  rcReg_sentinel b n.isLt (by omega) (by omega)

/-- R12: a read of a counter returns its value, and the counter then holds the events of the same cycle. -/
theorem effRegRead_counter {b : Block} {off v : Nat} {put : Nat → Block → Block} (pf : Fin 4) (same : BitVec 2)
    (h : rcReg b off = some (v, put)) :
    effRegRead (.pf pf) off 4 same b = emit (put (bit (same.getLsbD 0)) b) (.readData off ((w32 v).setWidth 64)) := by
  obtain ⟨hoff, h4, hsens⟩ := rcReg_offset h pf
  rw [effRegRead_pf_word _ _ _ hoff h4 hsens, readReg_counter _ h]

/-- R8, R12: a read of two counters in one cycle clears both. -/
theorem effRegRead_counters {b : Block} {off v v' : Nat} {put put' : Nat → Block → Block} (pf : Fin 4) (same : BitVec 2)
    (h8 : off % 8 = 0) (h : rcReg b off = some (v, put))
    (h' : rcReg (put (bit (same.getLsbD 0)) b) (off + 4) = some (v', put')) :
    effRegRead (.pf pf) off 8 same b =
      emit (put' (bit (same.getLsbD 1)) (put (bit (same.getLsbD 0)) b)) (.readData off (w32 v' ++ w32 v)) := by
  obtain ⟨hoff, -, hsens⟩ := rcReg_offset h pf
  rw [effRegRead_pf_pair _ _ _ hoff h8 hsens, readReg_counter _ h]
  simp only [readReg_counter _ h']

/-! ## Counters and margin rings (R373-R376, R388, R389) -/

theorem answers_countersRead_iff {iss : Issuer} {p : CountersReadP} {s : State} {P : Block → Prop} :
    Answers (.countersRead iss p) s P ↔ P (effCountersRead iss p s.blk) := answers_iff_of_act rfl

theorem answers_marginRead_iff {iss : Issuer} {p : MarginReadP} {s : State} {P : Block → Prop} :
    Answers (.marginRead iss p) s P ↔ P (effMarginRead iss p s.blk) := answers_iff_of_act rfl

/-- A command that writes bytes to host memory and completes OK: its reply, and what it sends. -/
theorem hostWrite_completes {b c : Block} (hd : c.host.done = b.host.done) (ho : c.out = b.out) (iss : Issuer) (addr : Nat)
    (l : List Byte) (op r0 r1 : Nat) (t : Ns) :
    let d := completeAt (hostWrite c iss addr l) iss op stOk r0 r1 t
    Replied iss op stOk b d ∧ d.out = b.out ++ [.hostWrite iss.pf addr l] := by
  obtain ⟨r, hr, h⟩ := replied_completeAt (hostWrite c iss addr l) iss op stOk r0 r1 t false
  exact ⟨⟨r, hd ▸ hr, h⟩, ho ▸ rfl⟩

/-- The block once its counters are latched, at the present spine time (R373). -/
def latched (b : Block) : Block := { b with obs := { b.obs with latchTime := nowNs b } }

/-- Whether COUNTERS_READ may read a view, and names only counters of it (Table 14.14). -/
def CountersNamed (b : Block) (iss : Issuer) (p : CountersReadP) : Prop :=
  (p.view = 0 ∧ isAdmin b iss = true ∧ p.first + p.count ≤ 4096) ∨
    (p.view = 1 ∧ fromTenant b iss = true ∧ (getTen b iss.tenant.val).exists' = true ∧ p.first + p.count ≤ 2048)

/-- R373: the counters named are latched at one spine time and written to host memory. -/
theorem effCountersRead_ok {b : Block} {iss : Issuer} {p : CountersReadP} (hr : p.rsv = false) (hd : p.dest % 64 = 0)
    (h1 : 1 ≤ p.count) (h2 : p.count ≤ 4096) (h : CountersNamed b iss p) :
    effCountersRead iss p b = completeAt (hostWrite (latched b) iss p.dest
      ((upFrom p.first p.count).flatMap fun i => leBytes 8 (viewCounter b p.view iss.tenant.val i).toNat))
      iss 0x0801 stOk p.count 0 (nowNs b) := by
  have hw : within 1 4096 p.count = true := (within_iff _ _ _).mpr ⟨h1, h2⟩
  rcases h with ⟨hv, ha, hc⟩ | ⟨hv, ha, ht, hc⟩
  · simp [effCountersRead, latched, hv, ha, hr, hd, hw, Nat.not_lt.mpr hc]
  · simp [effCountersRead, latched, hv, ha, ht, hr, hd, hw, Nat.not_lt.mpr hc]

theorem effCountersRead_notAuthorised {b : Block} {iss : Issuer} {p : CountersReadP} (hv : p.view = 0) (ha : isAdmin b iss = false) :
    effCountersRead iss p b = complete b iss 0x0801 stNotAuthorised := by
  simp [effCountersRead, hv, ha]

theorem effCountersRead_badParam {b : Block} {iss : Issuer} {p : CountersReadP} (hv : p.view = 0) (ha : isAdmin b iss = true)
    (h : 4096 < p.first + p.count) : effCountersRead iss p b = complete b iss 0x0801 stBadParam := by
  simp [effCountersRead, hv, ha, h]

/-- The records that MARGIN_READ names, from the newest backwards (R389). -/
def marginNamed (b : Block) (p : MarginReadP) : List (List Byte) :=
  ((marginRing b p.kind.toNat p.slot p.index).drop p.first).take p.count

theorem effMarginRead_ok {b : Block} {iss : Issuer} {p : MarginReadP} (hr : p.rsv = false) (hd : p.dest % 16 = 0)
    (hm : marginOk b p = true) (ha : mayMargin b iss p = true) (ht : p.kind ≠ 2 ∨ (getSn b p.slot).tetherUp = true) :
    effMarginRead iss p b = completeAt (hostWrite b iss p.dest ((marginNamed b p).flatMap id)) iss 0x0802 stOk
      (marginNamed b p).length 0 (nowNs b) := by
  have hup : ¬(p.kind = 2 ∧ (getSn b p.slot).tetherUp = false) := fun ⟨hk, hd⟩ => ht.elim (· hk) fun hu => by simp [hd] at hu
  simp only [effMarginRead, ha, hr, hd, hm, Bool.not_true, bne_self_eq_false, Bool.or_false, Bool.and_eq_true, decide_eq_true_eq,
    Bool.not_eq_true', hup, Bool.false_eq_true, if_false]
  rfl

theorem effMarginRead_timeout {b : Block} {iss : Issuer} {p : MarginReadP} (hr : p.rsv = false) (hd : p.dest % 16 = 0)
    (hm : marginOk b p = true) (ha : mayMargin b iss p = true) (hk : p.kind = 2) (ht : (getSn b p.slot).tetherUp = false) :
    effMarginRead iss p b = complete b iss 0x0802 stTimeout := by
  simp [effMarginRead, ha, hr, hd, hm, hk, ht]

theorem effMarginRead_notAuthorised {b : Block} {iss : Issuer} {p : MarginReadP} (ha : mayMargin b iss p = false) :
    effMarginRead iss p b = complete b iss 0x0802 stNotAuthorised := by
  simp [effMarginRead, ha]

/-! ## The statements of reads -/

/-- Settles O58: the counters, by the table of their registers (`clearsTo_rcReg`); the other registers, by the equations of a read. -/
theorem countersThatReadsClear : Obligations.CountersThatReadsClear := by
  unfold Obligations.CountersThatReadsClear
  intro s pf off same
  simp only [answers_rcCounterRead_iff]
  refine ⟨fun v put h => ?_, fun hoff hnone hsens => ⟨fun h4 => ?_, fun h8 hnsec hpps hhi => ?_⟩,
    fun width hoff hw => effRegRead_pf_abort _ _ _ hoff hw, fun width hoff => ?_, fun vf => ⟨fun h width => ?_, fun ht hoff => ?_⟩⟩
  · obtain ⟨hsent, hshows⟩ := clearsTo_rcReg off _ _ _ h (bit (same.getLsbD 0)) (bit_le_one _)
    rw [effRegRead_counter pf same h, emit_out, hsent, rcReg_emit]
    exact ⟨rfl, hshows⟩
  · rw [effRegRead_pf_word _ _ _ hoff h4 hsens, readReg_plain _ hnone]
  · rw [effRegRead_pf_pair _ _ _ hoff h8 hsens, readReg_plain _ hnone]
    simp only [readLatch_other pf s.blk hnsec hpps]
    rw [readReg_plain _ hhi, readLatch_other pf s.blk (by omega) (by omega)]
  · rw [effRegRead_pf_storage _ _ _ _ hoff]
    refine ⟨fun hpf => storageRead_other hpf, fun hpf ht => storageRead_hole hpf ht, fun d config addr hpf ht hd => ?_⟩
    rw [storageRead_drive hpf ht hd]
    exact ⟨_, List.append_assoc _ _ _⟩
  · exact effRegRead_vf_outside _ _ _ _ _ h
  · exact ⟨fun h4 => effRegRead_vf _ _ _ _ ht hoff (accessOk_word h4), fun h8 => effRegRead_vf _ _ _ _ ht hoff (accessOk_pair h8)⟩

/-- Settles O47: the commands by the equation of each of their outcomes, the counters by the place at which each stands. -/
theorem counterReads : Obligations.CounterReads := by
  unfold Obligations.CounterReads
  simp only [answers_rcCounterRead_iff, answers_countersRead_iff, answers_marginRead_iff]
  refine ⟨fun iss p s hr hd h1 h2 => ⟨fun hv ha hc => ?_, fun hv ha ht hc => ?_, fun hv ha => ?_, fun hv ha hc => ?_⟩,
    fun iss p s hr hd hm => ⟨fun ha ht => ?_, fun ha hk ht => ?_, fun ha => ?_⟩,
    fun pf same s => ⟨?_, ?_, fun p => ?_, fun p => ?_, fun n hs => ?_, fun n hs => ?_⟩⟩
  · rw [effCountersRead_ok hr hd h1 h2 (.inl ⟨hv, ha, hc⟩), hv]
    obtain ⟨hdone, hout⟩ := hostWrite_completes (b := s.blk) (c := latched s.blk) rfl rfl iss p.dest _ 0x0801 p.count 0 (nowNs s.blk)
    exact ⟨hdone, hout, rfl⟩
  · rw [effCountersRead_ok hr hd h1 h2 (.inr ⟨hv, ha, ht, hc⟩), hv]
    exact hostWrite_completes (b := s.blk) (c := latched s.blk) rfl rfl _ _ _ _ _ _ _
  · rw [effCountersRead_notAuthorised hv ha]
    exact replied_complete _ _ _ _
  · rw [effCountersRead_badParam hv ha hc]
    exact replied_complete _ _ _ _
  · rw [effMarginRead_ok hr hd hm ha ht]
    exact hostWrite_completes rfl rfl _ _ _ _ _ _ _
  · rw [effMarginRead_timeout hr hd hm ha hk ht]
    exact replied_complete _ _ _ _
  · rw [effMarginRead_notAuthorised ha]
    exact replied_complete _ _ _ _
  · rw [effRegRead_counter (off := 0xA000C) pf same rfl]
    exact ⟨rfl, rfl⟩
  · rw [effRegRead_counter (off := 0x70014) pf same rfl]
    exact ⟨rfl, rfl⟩
  · rw [effRegRead_counter pf same (rcReg_linkCorr s.blk p)]
    exact ⟨by simp, rfl⟩
  · rw [effRegRead_counters pf same (by omega) (rcReg_linkCorr s.blk p) (rcReg_linkUncorr _ p)]
    exact ⟨by simp, by simp⟩
  · rw [effRegRead_counter pf same ((rcReg_posted s.blk n).trans (rcSn_current hs rfl))]
    exact ⟨by simp, rfl⟩
  · rw [effRegRead_counter pf same ((rcReg_posted s.blk n).trans (rcSn_stale hs rfl))]
    exact ⟨by simp, rfl⟩

end Sys2Proof.Machine

/-!
SUPPORT. Writes of registers (R7, R10, R27): the watermarks of GT_WM, and how a write reaches its register.
-/

namespace Sys2Proof.Machine

/-! ## GT_WM (Table 7.7, R10) -/

/-- A unit that leaves a link touches nothing of the gathering engine. -/
theorem leaveUnit_gt (b : Block) (l : Nat) (u : TxUnit) : (leaveUnit b l u).gt = b.gt := by
  cases u with
  | cell hdr x => rfl
  | seg ty f i => simp only [leaveUnit, unitOut]; split <;> rfl
  | stream => rfl

theorem drainUnits_gt (n l : Nat) (b : Block) : (drainUnits n l b).gt = b.gt := by
  induction n generalizing b with
  | zero => rfl
  | succ n ih =>
    rw [drainUnits]
    split
    · rfl
    · rw [ih, leaveUnit_gt]

theorem tellSn_gt (b : Block) (slot : Nat) (m : TetherMsg) : (tellSn b slot m).gt = b.gt := drainUnits_gt _ _ _

theorem sendCredit_gt (b : Block) (n urgent pre : Nat) : (sendCredit b n urgent pre).gt = b.gt := tellSn_gt _ _ _

theorem payUrgent_backpressurePct (b : Block) : (payUrgent b).gt.backpressurePct = b.gt.backpressurePct :=
  each_field (·.gt.backpressurePct) b.gt.urgentWait (fun n c => congrArg (·.backpressurePct) (sendCredit_gt c n 1 0)) _

theorem payPre_backpressurePct (b : Block) : (payPre b).gt.backpressurePct = b.gt.backpressurePct :=
  each_field (·.gt.backpressurePct) b.gt.preWait (fun n c => congrArg (·.backpressurePct) (sendCredit_gt c n 0 1)) _

/-- A bit of GT_ERR is set. -/
def gtEvent (i : Nat) (b : Block) : Block := raise b .gt i (aboutGlt b)

/-- R192: a level that follows the fill is set, and then come its events and the credits that are owed. -/
theorem stageLevel_steps (b : Block) : ∃ (level : StageLevel) (isFull throttled backpressure filled urgent pre : Bool),
    stageLevel b = onlyIf pre payPre (onlyIf urgent payUrgent (onlyIf filled (gtEvent 3) (onlyIf backpressure (gtEvent 2)
      (onlyIf throttled (gtEvent 1) { b with gt := { b.gt with level := level, full := isFull } })))) := by
  refine ⟨levelNow b, fillAtLeast b 100, b.gt.level = .normal && levelNow b ≠ .normal,
    b.gt.level ≠ .backpressure && levelNow b = .backpressure, fillAtLeast b 100 && !b.gt.full, levelNow b ≠ .backpressure,
    levelNow b = .normal, ?_⟩
  simp only [stageLevel, onlyIf, gtEvent, decide_eq_true_eq]

theorem onlyIf_field {β : Type} (g : Block → β) {f : Block → Block} (hf : ∀ b, g (f b) = g b) (c : Bool) (b : Block) :
    g (onlyIf c f b) = g b :=
  onlyIf_keeps (P := fun d => g d = g b) c (hf b) rfl

/-- A level that follows the fill moves no watermark. -/
theorem stageLevel_backpressurePct (b : Block) : (stageLevel b).gt.backpressurePct = b.gt.backpressurePct := by
  have event (i : Nat) (c : Block) : (gtEvent i c).gt.backpressurePct = c.gt.backpressurePct :=
    congrArg (·.backpressurePct) (raise_gt c .gt i _)
  obtain ⟨level, isFull, throttled, backpressure, filled, urgent, pre, h⟩ := stageLevel_steps b
  rw [h, onlyIf_field (·.gt.backpressurePct) payPre_backpressurePct, onlyIf_field (·.gt.backpressurePct) payUrgent_backpressurePct,
    onlyIf_field (·.gt.backpressurePct) (event 3), onlyIf_field (·.gt.backpressurePct) (event 2),
    onlyIf_field (·.gt.backpressurePct) (event 1)]

/-- R10: GT_WM takes a BACKPRESSURE_PCT that lies above the THROTTLE_PCT that stood before the write. -/
theorem effGtWm_backpressurePct (v : W32) (b : Block) :
    (effGtWm v b).gt.backpressurePct =
      if within (b.gt.throttlePct + 1) 98 (field v 8 7) then field v 8 7 else b.gt.backpressurePct := by
  have throttle : (fieldIf (within 50 95 (field v 0 7)) .gt
      (fun b => { b with gt := { b.gt with throttlePct := field v 0 7 } }) b).gt.backpressurePct = b.gt.backpressurePct := by
    cases within 50 95 (field v 0 7)
    · exact congrArg (·.backpressurePct) (raise_gt _ _ _ _)
    · rfl
  have hyst (c : Block) : (fieldIf (within 1 20 (field v 16 5)) .gt
      (fun b => { b with gt := { b.gt with hystPct := field v 16 5 } }) c).gt.backpressurePct = c.gt.backpressurePct := by
    cases within 1 20 (field v 16 5)
    · exact congrArg (·.backpressurePct) (raise_gt _ _ _ _)
    · rfl
  rw [effGtWm, stageLevel_backpressurePct, hyst]
  cases within (b.gt.throttlePct + 1) 98 (field v 8 7)
  · exact (congrArg (·.backpressurePct) (raise_gt _ _ _ _)).trans throttle
  · rfl

/-! ## Writes of registers (R7, R27) -/

theorem answers_registerWrite_iff {src : Src} {off width : Nat} {v : W64} {s : State} {P : Block → Prop} :
    Answers (.registerWrite src off width v) s P ↔ P (effRegWriteAt src off width v s.blk) :=
  answers_iff_of_act rfl

/-- A PF's aligned write of 32 bits, of a register that it may write, reaches the register. -/
theorem effRegWriteAt_pf_word {b : Block} {pf : Fin 4} {off : Nat} (v : W32) (hoff : off < 0x100000) (h4 : off % 4 = 0)
    (hm : mayWrite b pf off = true) : effRegWriteAt (.pf pf) off 4 (v.setWidth 64) b = regAt pf off v b := by
  simp [effRegWriteAt, srcIsPf, srcPf, inWindow_pf, regWrite, not_bar2Base_le hoff, hoff, accessOk_word h4, hm]

/-- Refutes O51: GT_WM judges BACKPRESSURE_PCT by the THROTTLE_PCT that stood before the write (R10), where the statement takes
the one that the same write carries.  At reset THROTTLE_PCT is 85, so a write of 50, 60 and 20 leaves BACKPRESSURE_PCT at 95. -/
theorem not_registerWrites : ¬Obligations.RegisterWrites := by
  unfold Obligations.RegisterWrites
  rintro ⟨-, hadmin, -⟩
  obtain ⟨-, -, -, -, -, hwm⟩ := hadmin 0 0x00143C32 {} rfl
  have h := hwm (by decide) (by decide) (by decide)
  rw [answers_registerWrite_iff, effRegWriteAt_pf_word _ (by decide) (by decide) (by decide)] at h
  obtain ⟨-, hbp, -⟩ := h
  have hleft : (regAt 0 0x80018 0x00143C32 {}).gt.backpressurePct = 95 := effGtWm_backpressurePct 0x00143C32 {}
  rw [hleft] at hbp
  exact absurd hbp (by decide)

end Sys2Proof.Machine

/-!
SUPPORT. The block right after AON power-on.
-/

namespace Sys2Proof.Machine

/-- Settles O55: every field of `State.reset` stands at its default, and a table that lists nothing answers the default record. -/
theorem resetState : Obligations.ResetState := by
  unfold Obligations.ResetState
  refine ⟨rfl, rfl, fun _ => rfl, rfl, ?_, ?_, ?_, ?_, ?_, ?_, ?_, ?_, ?_, ?_, ?_, rfl, rfl, ?_, ?_⟩
  · decide
  · exact ⟨rfl, fun _ => ⟨rfl, rfl⟩, rfl, rfl⟩
  · exact ⟨rfl, rfl, rfl, rfl, rfl, rfl, rfl, fun _ => ⟨rfl, rfl, rfl⟩⟩
  · decide
  · decide
  · exact ⟨rfl, rfl, rfl, rfl, fun _ => ⟨rfl, rfl⟩⟩
  · exact fun _ => ⟨rfl, rfl, rfl, rfl⟩
  · exact ⟨rfl, rfl, rfl, rfl, fun _ => ⟨rfl, rfl⟩⟩
  · decide
  · exact fun _ => ⟨rfl, rfl, rfl, rfl, rfl⟩
  · exact fun _ => ⟨rfl, rfl⟩
  · decide
  · decide

end Sys2Proof.Machine

/-!
SUPPORT. What an instruction of a Collator core leaves (R54, R76): the cycles it takes, and the core that it makes.  Then the rules of
the core-local map within SRAM (Table 3.2) and of XACC_PASS_ADD (R37), and the results of the scalar, DPU and XACC instructions.
-/

namespace Sys2Proof.Machine

/-! ## Nothing but one core differs -/

theorem onlyCore_refl (c : Nat) (l : List Nat) (b : Block) : onlyCore c l b b := ⟨fun _ _ => rfl, fun _ _ => rfl, rfl⟩

theorem onlyCore_setCore {c : Nat} {l : List Nat} {b b' : Block} (h : onlyCore c l b b') (k : Core) :
    onlyCore c l b (setCore b' c k) := by
  obtain ⟨hcores, hcounters, hrest⟩ := h
  refine ⟨fun d hd => (getCore_setCore_ne b' k hd).trans (hcores d hd), hcounters, ?_⟩
  rw [hrest]; rfl

theorem onlyCore_takeFree {c : Nat} {l : List Nat} {b b' : Block} (h : onlyCore c l b b') : onlyCore c l b (takeFree b') := by
  obtain ⟨hcores, hcounters, hrest⟩ := h
  refine ⟨hcores, hcounters, ?_⟩
  rw [hrest]; rfl

theorem onlyCore_count {c i : Nat} {l : List Nat} {b b' : Block} (h : onlyCore c l b b') (hi : i ∈ l) (n : Nat) :
    onlyCore c l b (count b' i n) := by
  obtain ⟨hcores, hcounters, hrest⟩ := h
  refine ⟨hcores, fun j hj => ?_, ?_⟩
  · have hne : j ≠ i := fun e => hj (e ▸ hi)
    exact (tabGet_tabPut_ne _ _ _ hne).trans (hcounters j hj)
  · rw [hrest]; rfl

theorem onlyCore_mono {c : Nat} {l m : List Nat} {b b' : Block} (h : onlyCore c l b b') (hlm : l ⊆ m) : onlyCore c m b b' := by
  obtain ⟨hcores, hcounters, hrest⟩ := h
  exact ⟨hcores, fun i hi => hcounters i fun hl => hi (hlm hl), hrest⟩

/-! ## The cycles of an instruction -/

/-- Core `c` has taken its cycle and some stall cycles, which only its stall counter shows. -/
def Spent (c : Nat) (b b' : Block) : Prop :=
  (∃ n, getCore b' c = { getCore b c with cycle := (getCore b c).cycle + 1 + BitVec.ofNat 64 n }) ∧
    onlyCore c [coreCounter c 2] b b'

theorem spent_spend (b : Block) (c : Nat) : Spent c b (spend b c) := by
  refine ⟨⟨freeVal b, getCore_spend b c⟩, ?_⟩
  rw [spend_eq]
  exact onlyCore_count (onlyCore_setCore (onlyCore_takeFree (onlyCore_refl _ _ _)) _) (by simp) _

theorem Spent.takeFree {c : Nat} {b b' : Block} (h : Spent c b b') : Spent c b (takeFree b') := by
  obtain ⟨hcore, hframe⟩ := h
  exact ⟨hcore, onlyCore_takeFree hframe⟩

theorem Spent.reg_eq {c : Nat} {b b' : Block} (h : Spent c b b') (i : Nat) : reg b' c i = gGet (getCore b c) i := by
  obtain ⟨⟨n, hcore⟩, -⟩ := h
  rw [reg, hcore]; rfl

theorem Spent.pc_eq {c : Nat} {b b' : Block} (h : Spent c b b') : (getCore b' c).pc = (getCore b c).pc := by
  obtain ⟨⟨n, hcore⟩, -⟩ := h
  rw [hcore]

theorem Spent.passes_eq {c : Nat} {b b' : Block} (h : Spent c b b') : (getCore b' c).passes = (getCore b c).passes := by
  obtain ⟨⟨n, hcore⟩, -⟩ := h
  rw [hcore]

theorem Spent.sram_eq {c : Nat} {b b' : Block} (h : Spent c b b') : (getCore b' c).sram = (getCore b c).sram := by
  obtain ⟨⟨n, hcore⟩, -⟩ := h
  rw [hcore]

theorem Spent.tally_eq {c : Nat} {b b' : Block} (h : Spent c b b') : (getCore b' c).tally = (getCore b c).tally := by
  obtain ⟨⟨n, hcore⟩, -⟩ := h
  rw [hcore]

/-! ## The core after an instruction -/

/-- Core `c` has become `k` after the cycles of its instruction, and nothing else differs but its stall counter. -/
def Became (c : Nat) (k : Core) (b b' : Block) : Prop :=
  (∃ n, getCore b' c = afterCycles k (getCore b c) n) ∧ onlyCore c [coreCounter c 2] b b'

/-- What an instruction makes of the core does not depend on CYCLE: it may be taken of the core before the cycles that have
passed. -/
theorem became_setCore {c : Nat} {b b' : Block} {k : Core} {g : Core → Core} (hs : Spent c b b')
    (hg : ∀ t, g { getCore b c with cycle := t } = { k with cycle := t, wait := .none }) :
    Became c k b (setCore b' c (g (getCore b' c))) := by
  obtain ⟨⟨n, hcore⟩, hframe⟩ := hs
  refine ⟨⟨n, ?_⟩, onlyCore_setCore hframe _⟩
  rw [getCore_setCore_same, hcore, hg]; rfl

/-- An instruction that goes on to the next. -/
theorem became_stepCore {c : Nat} {b b' : Block} {k : Core} {g : Core → Core} (hs : Spent c b b')
    (hg : ∀ t, g { getCore b c with cycle := t } = { k with cycle := t }) : Became c (nextPc k) b (stepCore b' c g) := by
  rw [stepCore_eq]
  exact became_setCore (g := fun x => { g x with pc := (g x).pc + 4, wait := .none }) hs fun t => by rw [hg]; rfl

theorem setPc_modCore (b : Block) (c : Nat) (g : Core → Core) (pc : W32) :
    setPc (modCore b c g) c pc = setCore b c { g (getCore b c) with pc := pc, wait := .none } := by
  simp [setPc, modCore]

/-- An instruction that goes on elsewhere. -/
theorem became_setPc {c : Nat} {b b' : Block} {k : Core} {g : Core → Core} (hs : Spent c b b') (pc : W32)
    (hg : ∀ t, g { getCore b c with cycle := t } = { k with cycle := t }) :
    Became c { k with pc := pc } b (setPc (modCore b' c g) c pc) := by
  rw [setPc_modCore]
  exact became_setCore (g := fun x => { g x with pc := pc, wait := .none }) hs fun t => by rw [hg]

theorem gPut_cycle (k : Core) (i : Nat) (v t : W64) : gPut { k with cycle := t } i v = { gPut k i v with cycle := t } := by
  unfold gPut; split <;> rfl

/-- An instruction that puts a value into a g register and goes on to the next. -/
theorem became_gPut {c : Nat} {b b' : Block} (hs : Spent c b b') (i : Nat) (v : W64) :
    Became c (nextPc (gPut (getCore b c) i v)) b (stepCore b' c fun k => gPut k i v) :=
  became_stepCore hs fun _ => gPut_cycle _ _ _ _

/-! ## Issue -/

theorem answers_issue_iff {i : Instr} {c : Nat} {w : CoreWait → Bool} {g : Block → Block} {s : State} {P : Block → Prop}
    (hi : exec i s = act s (issue c w g)) (hr : coreReady s.blk c) : Answers i s P ↔ P (g (spend s.blk c)) := by
  rw [answers_iff_of_act hi, issue_ready hr]

/-- An instruction executes to what its effect makes of the core once its cycles have passed. -/
theorem executes_of_became {i : Instr} {c : Nat} {w : CoreWait → Bool} {g : Block → Block} {ok : Block → Prop} {f : Core → Core}
    (hi : ∀ s, exec i s = act s (issue c w g))
    (h : ∀ b b', Spent c b b' → ok b → Became c (f (getCore b c)) b (g b')) : Executes i c ok f := fun s hr hok =>
  (answers_issue_iff (hi s) hr).2 (h _ _ (spent_spend s.blk c) hok)

/-! ## Loads and stores within SRAM (Table 3.2) -/

theorem touchesBusy_sram (k : Core) {a n : Nat} (h : a + n ≤ 0x100000) : touchesBusy k a n = false := by
  simp [touchesBusy, Nat.not_lt.2 h]

theorem loadTo_sram {b : Block} {c a n : Nat} (h : a + n ≤ 0x100000) (f : List Byte → Core → Core) :
    loadTo b c a n f = stepCore b c (f (memGetBytes (getCore b c).sram a n)) := by
  simp [loadTo, touchesBusy_sram _ h, mapRead, h]

theorem mapStore_sram (k : Core) {a : Nat} {l : List Byte} (h : a + l.length ≤ 0x100000) :
    mapStore k a l = { k with sram := memPutBytes k.sram a l } := by
  induction l generalizing k a with
  | nil => rfl
  | cons v r ih =>
    rw [List.length_cons] at h
    rw [mapStore, if_pos (by omega), ih _ (by omega)]
    rfl

theorem storeTo_sram {b : Block} {c a : Nat} {l : List Byte} (h : a + l.length ≤ 0x100000) :
    storeTo b c a l = stepCore b c fun k => { k with sram := memPutBytes k.sram a l } := by
  have hw : mayStore a l.length = true := by simp only [mayStore, decide_eq_true_eq]; omega
  simp only [storeTo, touchesBusy_sram _ h, hw, mapStore_sram _ h, Bool.false_eq_true, if_false, if_true]

/-! ## The scalar instructions (Table 3.4) -/

section Scalar

variable {c : Nat} {b b' : Block} (hs : Spent c b b')
include hs

theorem became_load (n : Fin 4) (sg : Bool) (d a : Fin 32) (i : BitVec 10)
    (h : (gGet (getCore b c) a + immOf i).toNat + accessBytes n ≤ 0x100000) :
    Became c (nextPc (gPut (getCore b c) d (extendLoad (accessBytes n) sg
      (leNat (memGetBytes (getCore b c).sram (gGet (getCore b c) a + immOf i).toNat (accessBytes n)))))) b
      (effScalar c (.load n sg d a i) b') := by
  simp only [effScalar, hs.reg_eq, loadTo_sram h, hs.sram_eq]
  exact became_gPut hs _ _

theorem became_store (n : Fin 4) (a e : Fin 32) (i : BitVec 10)
    (h : (gGet (getCore b c) a + immOf i).toNat + accessBytes n ≤ 0x100000) :
    Became c (nextPc { getCore b c with
        sram := memPutBytes (getCore b c).sram (gGet (getCore b c) a + immOf i).toNat
          (leBytes (accessBytes n) (gGet (getCore b c) e).toNat) }) b (effScalar c (.store n a e i) b') := by
  have hl : (gGet (getCore b c) a + immOf i).toNat + (leBytes (accessBytes n) (gGet (getCore b c) e).toNat).length ≤ 0x100000 := by
    rwa [length_leBytes]
  simp only [effScalar, hs.reg_eq, storeTo_sram hl]
  exact became_stepCore hs fun _ => rfl

theorem became_branch (q : BrCond) (a e : Fin 32) (i : BitVec 20) :
    Became c (if condHolds q (gGet (getCore b c) a) (gGet (getCore b c) e) then
        { getCore b c with pc := Config.branchTarget (getCore b c).pc i } else nextPc (getCore b c)) b
      (effScalar c (.branch q a e i) b') := by
  simp only [effScalar, hs.reg_eq, hs.pc_eq]
  split
  · exact became_setCore (g := fun k => { k with pc := Config.branchTarget (getCore b c).pc i, wait := .none }) hs fun _ => rfl
  · exact became_setCore (g := fun k => { k with pc := k.pc + 4, wait := .none }) hs fun _ => rfl

theorem became_jump (d : Fin 32) (i : BitVec 20) :
    Became c { gPut (getCore b c) d (((getCore b c).pc + 4).setWidth 64) with pc := Config.branchTarget (getCore b c).pc i } b
      (effScalar c (.jump d i) b') := by
  simp only [effScalar, hs.pc_eq]
  exact became_setPc hs _ fun _ => gPut_cycle _ _ _ _

theorem became_jumpReg (d a : Fin 32) (i : BitVec 10) :
    Became c { gPut (getCore b c) d (((getCore b c).pc + 4).setWidth 64) with
        pc := (gGet (getCore b c) a + immOf i).setWidth 32 } b (effScalar c (.jumpReg d a i) b') := by
  simp only [effScalar, hs.reg_eq]
  exact became_setPc hs _ fun _ => gPut_cycle _ _ _ _

theorem became_loop (d : Fin 32) (i : BitVec 20) :
    Became c (if gGet (getCore b c) d - 1 = 0 then nextPc (gPut (getCore b c) d (gGet (getCore b c) d - 1))
        else { gPut (getCore b c) d (gGet (getCore b c) d - 1) with pc := Config.branchTarget (getCore b c).pc i }) b
      (effScalar c (.loop d i) b') := by
  simp only [effScalar, hs.reg_eq, hs.pc_eq]
  split
  · exact became_gPut hs _ _
  · exact became_setPc hs _ fun _ => gPut_cycle _ _ _ _

end Scalar

/-! ## The DPU instructions (Table 3.5) -/

theorem Spent.dpuOf_eq {c : Nat} {b b' : Block} (h : Spent c b b') (u : Nat) : dpuOf (getCore b' c) u = dpuOf (getCore b c) u := by
  obtain ⟨⟨n, hcore⟩, -⟩ := h
  rw [hcore]; rfl

/-- An instruction that changes a unit's configuration. -/
theorem became_modDpu {c : Nat} {b b' : Block} (hs : Spent c b b') (u : Nat) (f : Dpu → Dpu) :
    Became c (nextPc { getCore b c with dpu := tabPut (getCore b c).dpu u (f (dpuOf (getCore b c) u)) }) b (modDpu b' c u f) :=
  became_stepCore hs fun _ => rfl

theorem effDcfg_pairOk {c u a : Nat} {b : Block} (h : pairOk (field (reg b c a) 0 4) (field (reg b c a) 4 4) = true) :
    effDcfg c u a b = modDpu b c u fun d => { d with
      aFmt := BitVec.ofNat 4 (field (reg b c a) 0 4), bFmt := BitVec.ofNat 4 (field (reg b c a) 4 4), daz := (reg b c a).getLsbD 8 } :=
  if_pos h

theorem effDslice_inSlices {c u sa sb : Nat} {b : Block} (ha : sa < inSlices (dpuOf (getCore b c) u).aFmt.toNat)
    (hb : sb < inSlices (dpuOf (getCore b c) u).bFmt.toNat) :
    effDslice c u sa sb b = modDpu b c u fun d => { d with sliceA := sa, sliceB := sb } := by
  simp [effDslice, ha, hb]

/-- R60: a DPASS beside one of the other unit may share its cycle; CYCLE, of 64 bits, then stands as after 2⁶⁴ − 1 stall cycles. -/
theorem spent_spendPass (c u : Nat) (b : Block) : Spent c b (spendPass c u b) := by
  have later : Spent c b (spend (takeFree b) c) := by
    obtain ⟨hcore, hcores, hcounters, hrest⟩ := spent_spend (takeFree b) c
    exact ⟨hcore, hcores, hcounters, hrest⟩
  have shared : Spent c b (takeFree b) := by
    have hcycle (t : W64) : t + 1 + BitVec.ofNat 64 (2 ^ 64 - 1) = t := by bv_omega
    exact ⟨⟨2 ^ 64 - 1, by rw [hcycle, getCore_takeFree]⟩, onlyCore_takeFree (onlyCore_refl _ _ _)⟩
  unfold spendPass
  dsimp only
  split
  · exact spent_spend b c
  · split
    · exact shared
    · exact later

/-- The pass that a unit makes of its operands does not depend on the cycles that have passed. -/
theorem passOf_cycle (k : Core) (d : Dpu) (x va vb : Nat) (w t : W64) :
    passOf { k with cycle := t } d x va vb w = passOf k d x va vb w := rfl

theorem effDpass_evenPairs {c u x va vb d : Nat} {b : Block} (ha : (dpuOf (getCore b c) u).aFmt = 5 → va % 2 = 0)
    (hb : (dpuOf (getCore b c) u).bFmt = 5 → vb % 2 = 0) :
    effDpass c u x va vb d b = count (stepCore b c fun k => { k with
        passes := joinPass k.passes { passOf (getCore b c) (dpuOf (getCore b c) u) x va vb (gGet (getCore b c) d) with
          unit := u, cycle := (getCore b c).cycle } }) (coreCounter c 0) 1 := by
  have even {f : BitVec 4} {r : Nat} (h : f = 5 → r % 2 = 0) : (f.toNat == 5 && r % 2 == 1) = false := by
    by_cases hf : f = 5
    · simp [h hf]
    · have : f.toNat ≠ 5 := fun e => hf (BitVec.eq_of_toNat_eq e)
      simp [this]
  simp [effDpass, even ha, even hb]

theorem answers_dpass_iff {c : Fin 512} {u : Fin 2} {x : Fin 128} {va vb d : Fin 32} {s : State} {P : Block → Prop}
    (hr : coreReady s.blk c) :
    Answers (.dpass c u x va vb d) s P ↔ P (effDpass c u x va vb d (spendPass c u s.blk)) := by
  refine (answers_iff_of_act (f := fun b => if coreRuns b c && decide ((getCore b c).wait = .none) then
    effDpass c u x va vb d (spendPass c u b) else b) rfl).trans ?_
  obtain ⟨hruns, hwait⟩ := hr
  simp [hruns, hwait]

/-- R58-R60: a pass joins those issued before it, with its unit and CYCLE at its issue, and the core's passes are counted. -/
theorem dpass_joins {c : Nat} {b b' : Block} (hs : Spent c b b') {u x va vb d : Nat}
    (ha : (dpuOf (getCore b c) u).aFmt = 5 → va % 2 = 0) (hb : (dpuOf (getCore b c) u).bFmt = 5 → vb % 2 = 0) :
    (∃ n, getCore (effDpass c u x va vb d b') c = afterCycles (nextPc { getCore b c with passes := joinPass (getCore b c).passes (
        { passOf (getCore b c) (dpuOf (getCore b c) u) x va vb (gGet (getCore b c) d) with
          unit := u, cycle := (getCore (effDpass c u x va vb d b') c).cycle } : Pass) }) (getCore b c) n) ∧
      tabGet 0 (effDpass c u x va vb d b').obs.counters (coreCounter c 0) = tabGet 0 b.obs.counters (coreCounter c 0) + 1 ∧
      onlyCore c [coreCounter c 2, coreCounter c 0] b (effDpass c u x va vb d b') := by
  rw [← hs.dpuOf_eq] at ha hb
  obtain ⟨⟨n, hcore⟩, hframe⟩ := hs
  rw [effDpass_evenPairs ha hb, stepCore_eq]
  refine ⟨⟨n, ?_⟩, ?_, onlyCore_count (onlyCore_setCore (onlyCore_mono hframe (by simp)) _) (by simp) _⟩
  · simp only [getCore_count, getCore_setCore_same, hcore, passOf_cycle]; rfl
  · have hother : coreCounter c 0 ∉ [coreCounter c 2] := by simp [coreCounter]
    rw [← hframe.2.1 _ hother]
    exact tabGet_tabPut_same _ _ _ _

/-! ## The add of a pass (R37, R60) -/

theorem effPassAdd_oldest {c : Nat} {b : Block} {p : Pass} {r : List Pass} (hr : coreRuns b c = true)
    (hp : (getCore b c).passes = p :: r) :
    effPassAdd c b = setCore (takeFree b) c
      (xPut { getCore b c with passes := r } p.x (xAddPass (xGet (getCore b c) p.x) p (freeVal b))) := by
  simp [effPassAdd, hp, hr]

/-- The core that issued the oldest pass adds it, and nothing else differs. -/
theorem answers_xaccPassAdd_iff {c : Fin 512} {s : State} {p : Pass} {r : List Pass} {P : Block → Prop}
    (hr : coreRuns s.blk c = true) (hp : (getCore s.blk c).passes = p :: r) :
    Answers (.xaccPassAdd c) s P ↔ P (setCore (takeFree s.blk) c
      (xPut { getCore s.blk c with passes := r } p.x (xAddPass (xGet (getCore s.blk c) p.x) p (freeVal s.blk)))) := by
  rw [answers_iff_of_act (f := effPassAdd c) rfl, effPassAdd_oldest hr hp]

theorem onlyCore_setCore_takeFree (b : Block) (c : Nat) (k : Core) : onlyCore c [] b (setCore (takeFree b) c k) :=
  onlyCore_setCore (onlyCore_takeFree (onlyCore_refl _ _ _)) k

/-! ## The results of the scalar and DPU instructions (Tables 3.2, 3.4, 3.5) -/

theorem executes_scalar {c : Fin 512} {op : ScalarOp} {ok : Block → Prop} {f : Core → Core}
    (h : ∀ b b', Spent c b b' → ok b → Became c (f (getCore b c)) b (effScalar c op b')) :
    Executes (.scalarInstruction c op) c ok f :=
  executes_of_became (w := xaccStalled) (fun _ => rfl) h

/-- Settles O2: an instruction makes the core of the one before its cycles, and XACC_PASS_ADD adds the oldest pass that waits. -/
theorem scalarAndDpuResults : Obligations.ScalarAndDpuResults := by
  unfold Obligations.ScalarAndDpuResults
  refine ⟨fun c => ⟨?alu, ?aluImm, ?loadImm, ?load, ?store, ?branch, ?jump, ?jumpReg, ?loop⟩,
    fun c u => ⟨?dcfg, ?dslice, ?dmask, ?dpass, ?passAdd⟩⟩
  case alu =>
    refine fun o d a e => executes_scalar fun b b' hs _ => ?_
    simp only [effScalar, hs.reg_eq]
    exact became_gPut hs _ _
  case aluImm =>
    refine fun o d a i => executes_scalar fun b b' hs _ => ?_
    simp only [effScalar, hs.reg_eq]
    exact became_gPut hs _ _
  case loadImm => exact fun d i => executes_scalar fun b b' hs _ => became_gPut hs _ _
  case load => exact fun n sg d a i => executes_scalar fun b b' hs h => became_load hs n sg d a i h
  case store => exact fun n a e i => executes_scalar fun b b' hs h => became_store hs n a e i h
  case branch => exact fun q a e i => executes_scalar fun b b' hs _ => became_branch hs q a e i
  case jump => exact fun d i => executes_scalar fun b b' hs _ => became_jump hs d i
  case jumpReg => exact fun d a i => executes_scalar fun b b' hs _ => became_jumpReg hs d a i
  case loop => exact fun d i => executes_scalar fun b b' hs _ => became_loop hs d i
  case dcfg =>
    refine fun a => executes_of_became (w := neverStalled) (fun _ => rfl) fun b b' hs h => ?_
    rw [← hs.reg_eq] at h ⊢
    rw [effDcfg_pairOk h]
    exact became_modDpu hs _ _
  case dslice =>
    refine fun sa sb => executes_of_became (w := neverStalled) (fun _ => rfl) fun b b' hs ⟨ha, hb⟩ => ?_
    rw [← hs.dpuOf_eq] at ha hb
    rw [effDslice_inSlices ha hb]
    exact became_modDpu hs _ _
  case dmask =>
    refine fun a => executes_of_became (w := neverStalled) (fun _ => rfl) fun b b' hs _ => ?_
    rw [hs.reg_eq]
    exact became_modDpu hs _ _
  case dpass =>
    exact fun x va vb d s hr ha hb => (answers_dpass_iff hr).2 (dpass_joins (spent_spendPass c u s.blk) ha hb)
  case passAdd =>
    exact fun s p r hr hp => (answers_xaccPassAdd_iff hr hp).2
      ⟨⟨_, getCore_setCore_same _ _ _⟩, onlyCore_setCore_takeFree _ _ _⟩

/-! ## The XACC instructions (Table 3.6, R61) -/

theorem Spent.xBusy_eq {c : Nat} {b b' : Block} (h : Spent c b b') (x : Nat) : xBusy (getCore b' c) x = xBusy (getCore b c) x := by
  rw [xBusy, h.passes_eq]; rfl

theorem Spent.xGet_eq {c : Nat} {b b' : Block} (h : Spent c b b') (x : Nat) : xGet (getCore b' c) x = xGet (getCore b c) x := by
  obtain ⟨⟨n, hcore⟩, -⟩ := h
  rw [hcore]; rfl

/-- R61: an instruction on an XACC that no pass is bound for does not wait. -/
theorem answers_onXacc_iff {i : Instr} {c x : Nat} {g : Block → Block} {s : State} {P : Block → Prop}
    (hi : exec i s = act s (onXacc c x g)) (hr : coreReady s.blk c) (hx : xBusy (getCore s.blk c) x = false) :
    Answers i s P ↔ P (g (spend s.blk c)) := by
  rw [answers_issue_iff hi hr, (spent_spend s.blk c).xBusy_eq, hx]; rfl

/-- What an instruction on an XACC makes of the core, where it is ready, no pass is bound for the XACC and `ok` holds. -/
theorem executes_onXacc {i : Instr} {c x : Nat} {g : Block → Block} {ok : Block → Prop} {f : Core → Core}
    (hi : ∀ s, exec i s = act s (onXacc c x g)) (h : ∀ b b', Spent c b b' → ok b → Became c (f (getCore b c)) b (g b')) :
    Executes i c (fun b => xBusy (getCore b c) x = false ∧ ok b) f := fun s hr hok =>
  (answers_onXacc_iff (hi s) hr hok.1).2 (h _ _ (spent_spend s.blk c) hok.2)

section Xacc

variable {c : Nat} {b b' : Block} (hs : Spent c b b')
include hs

theorem became_xclr (x : Nat) (a : Fin 32) :
    Became c (nextPc (xPut (getCore b c) x { base := (gGet (getCore b c) a).setWidth 16 })) b
      (stepCore b' c fun k => xPut k x { base := (reg b' c a).setWidth 16 }) := by
  rw [hs.reg_eq]
  exact became_stepCore hs fun _ => rfl

theorem became_xadd (x : Nat) (a : Fin 32) (ha : (gGet (getCore b c) a).toNat < 128)
    (hb : xBusy (getCore b c) (gGet (getCore b c) a).toNat = false) :
    Became c (nextPc (xPut (getCore b c) x (xAddX (xGet (getCore b c) x)
      (xGet (getCore b c) (gGet (getCore b c) a).toNat) (freeVal b')))) b (effXadd c x a b') := by
  rw [← hs.reg_eq] at ha hb ⊢
  rw [← hs.xBusy_eq] at hb
  have hx : effXadd c x a b' = stepCore (takeFree b') c fun k =>
      xPut k x (xAddX (xGet k x) (xGet k (reg b' c a).toNat) (freeVal b')) := by
    rw [reg] at ha hb ⊢
    have hsrc : ¬(gGet (getCore b' c) a).toNat ≥ 128 := Nat.not_le.2 ha
    simp only [effXadd, if_neg hsrc, hb, Bool.false_eq_true, if_false]
  rw [hx]
  exact became_stepCore hs.takeFree fun _ => rfl

theorem became_xld (x : Nat) (a : Fin 32) (h : imageAt (gGet (getCore b c) a).toNat = true) :
    Became c (nextPc (xPut (getCore b c) x
      (xOfImage (BitVec.ofNat 512 (leNat (memGetBytes (getCore b c).sram (gGet (getCore b c) a).toNat 64)))))) b
      (effXld c x a b') := by
  simp only [effXld, hs.reg_eq, if_pos h]
  exact became_stepCore hs fun _ => rfl

theorem became_xst (x : Nat) (a : Fin 32) (h : imageAt (gGet (getCore b c) a).toNat = true) :
    Became c (nextPc { getCore b c with
        sram := memPutBytes (getCore b c).sram (gGet (getCore b c) a).toNat (leBytes 64 (xImage (xGet (getCore b c) x)).toNat) }) b
      (effXst c x a b') := by
  simp only [effXst, hs.reg_eq, if_pos h]
  exact became_stepCore hs fun _ => rfl

theorem became_xmv (x : Nat) (a d : Fin 32) (h : (gGet (getCore b c) a).toNat < 8) :
    Became c (nextPc (gPut (getCore b c) d
      (BitVec.ofNat 64 (laneGet (xImage (xGet (getCore b c) x)) 8 (gGet (getCore b c) a).toNat)))) b (effXmv c x a d b') := by
  simp only [effXmv, hs.reg_eq, if_pos h]
  exact became_stepCore hs fun _ => gPut_cycle _ _ _ _

theorem became_xrnd (x : Nat) (a d : Fin 32) (hfmt : (fpForm (gGet (getCore b c) a)).fmt ≤ 8)
    (hrnd : (fpForm (gGet (getCore b c) a)).rnd ≤ 4)
    (hlane : (field (gGet (getCore b c) a) 16 4 + 1) * laneBytesOf (fpForm (gGet (getCore b c) a)).fmt ≤ 64) :
    let k := getCore b c
    let f := fpForm (gGet k a)
    Became c (nextPc { vPut k d (lanePut (vGet k d) (laneBytesOf f.fmt) (field (gGet k a) 16 4)
        (encodeOut f.fmt (freeVal b') (roundTo f.fmt f.p f.rnd f.ftz false (xExact (xGet k x) f.rnd)))) with
      undec := k.undec || ambiguous (xGet k x) f.fmt f.p f.rnd f.ftz }) b (effXrnd c x a d b') := by
  have hform : (decide ((fpForm (gGet (getCore b c) a)).fmt > 8) || decide ((fpForm (gGet (getCore b c) a)).rnd > 4) ||
      decide ((field (gGet (getCore b c) a) 16 4 + 1) * laneBytesOf (fpForm (gGet (getCore b c) a)).fmt > 64)) = false := by
    simp [hfmt, hrnd, hlane]
  simp only [effXrnd, hs.reg_eq, hs.xGet_eq, hform, Bool.false_eq_true, if_false]
  exact became_stepCore hs.takeFree fun _ => rfl

end Xacc

/-! ## Judgement (R62, R73, R74) -/

/-- The cycles of an instruction leave the core's tile as it is. -/
theorem Spent.coreTile_eq {c : Nat} {b b' : Block} (h : Spent c b b') : coreTile b' c = coreTile b c := by
  obtain ⟨⟨n, hcore⟩, -, -, hrest⟩ := h
  have hver : b'.ver = b.ver := by rw [hrest]
  simp only [coreTile, windowTile, hcore, hver]

/-- R73: an element in order is judged on the XACC and the tile, and its outcome is added to the tally. -/
theorem became_judgeWith {c x e : Nat} {b b' : Block} (hs : Spent c b b') {t : Tile} (hovf : (xGet (getCore b c) x).ovf = false)
    (ht : coreTile b c = some t) (hord : outOfOrder (getCore b c).tally (gGet (getCore b c) e).toNat = false)
    {f : Tile → Core → Nat → Judged × Bool} {g : Core → Core} {undec : Bool}
    (hf : ∀ w, f t { getCore b c with cycle := w } (gGet (getCore b c) e).toNat = f t (getCore b c) (gGet (getCore b c) e).toNat)
    (hg : ∀ (w : W64) (y : Tally), g { getCore b c with cycle := w, tally := y } =
      { getCore b c with cycle := w, tally := y, undec := undec }) :
    let o := f t (getCore b c) (gGet (getCore b c) e).toNat
    Became c (nextPc { getCore b c with
      tally := tallyOne (getCore b c).tally (gGet (getCore b c) e).toNat o.1 o.2, undec := undec }) b (judgeWith c x e f g b') := by
  have hindex : gGet (getCore b' c) e = gGet (getCore b c) e := hs.reg_eq e
  simp only [judgeWith, hs.xGet_eq, hovf, hs.coreTile_eq, ht, hindex, hs.tally_eq, hord, Bool.false_eq_true, if_false]
  exact became_stepCore hs fun w => by simp only [hf, hg]

/-- Settles O4: an instruction on an XACC that no pass is bound for runs at once, and makes its core of the one before its cycles. -/
theorem xaccInstructionResults : Obligations.XaccInstructionResults := by
  unfold Obligations.XaccInstructionResults
  refine fun c x => ⟨?xclr, ?xadd, ?xld, ?xst, ?xmv, ?xrnd, ?judge⟩
  case xclr =>
    refine fun a s hr hx => (answers_onXacc_iff rfl hr hx).2 ?_
    exact became_xclr (spent_spend s.blk c) x a
  case xadd =>
    intro a s hr hx ha hb
    obtain ⟨⟨n, hcore⟩, hframe⟩ := became_xadd (spent_spend s.blk c) x a ha hb
    exact (answers_onXacc_iff rfl hr hx).2 ⟨⟨_, n, hcore⟩, hframe⟩
  case xld => exact fun a => executes_onXacc (fun _ => rfl) fun b b' hs h => became_xld hs x a h
  case xst => exact fun a => executes_onXacc (fun _ => rfl) fun b b' hs h => became_xst hs x a h
  case xmv => exact fun a d => executes_onXacc (fun _ => rfl) fun b b' hs h => became_xmv hs x a d h
  case xrnd =>
    intro a d s hr hx k w f n hfmt hrnd hlane
    obtain ⟨⟨i, hcore⟩, hframe⟩ := became_xrnd (spent_spend s.blk c) x a d hfmt hrnd hlane
    exact (answers_onXacc_iff rfl hr hx).2 ⟨⟨_, i, hcore⟩, hframe⟩
  case judge =>
    intro a e d s t hr hx k hovf ht hord i acc bounded strict gives
    have hs := spent_spend s.blk c
    constructor
    · refine (answers_onXacc_iff rfl hr hx).2 ?_
      exact became_judgeWith hs hovf ht hord (fun _ => rfl) fun _ _ => rfl
    · refine (answers_onXacc_iff rfl hr hx).2 ?_
      exact became_judgeWith hs hovf ht hord (fun _ => rfl) fun _ _ => rfl

/-! ## The exact add of a window sum (R37) -/

theorem natAbs_div_eq_tdiv (s : Int) (k : Nat) :
    (if s < 0 then -Int.ofNat (s.natAbs / k) else Int.ofNat (s.natAbs / k)) = s.tdiv k := by
  cases s with
  | ofNat m => exact if_neg (Int.not_lt.2 (Int.natCast_nonneg m))
  | negSucc m => exact if_pos (Int.negSucc_lt_zero m)

/-- R37: the window sum as a multiple of 2^BASE, truncated toward zero where its bits lie beneath. -/
theorem shiftIn_fst (s l base : Int) : (shiftIn s l base).1 =
    if base ≤ l then s * 2 ^ (l - base).toNat else s.tdiv (2 ^ (base - l).toNat) := by
  unfold shiftIn
  by_cases h : base ≤ l
  · simp [h, pow2]
  · rw [if_neg h, if_neg h]
    have hk : ((pow2 (base - l) : Nat) : Int) = 2 ^ (base - l).toNat := by simp [pow2]
    rw [← hk]
    exact natAbs_div_eq_tdiv s _

/-- R37: a bit is lost where the window lies beneath BASE and 2^BASE does not divide the sum. -/
theorem shiftIn_snd_iff (s l base : Int) : (shiftIn s l base).2 = true ↔ l < base ∧ s % 2 ^ (base - l).toNat ≠ 0 := by
  unfold shiftIn
  by_cases h : base ≤ l
  · have hl : ¬l < base := Int.not_lt.2 h
    simp [h, hl]
  · have hl : l < base := Int.not_le.1 h
    have hdvd : s % 2 ^ (base - l).toNat = 0 ↔ s.natAbs % 2 ^ (base - l).toNat = 0 := by
      rw [← Int.dvd_iff_emod_eq_zero, ← Nat.dvd_iff_mod_eq_zero, ← Int.ofNat_dvd_left, Int.natCast_pow]
      rfl
    simp [h, hl, pow2, hdvd]

/-- What the pass brings to VALUE. -/
def passTerm (a : Xacc) (p : Pass) : Int := (shiftIn p.sum p.l a.base.toInt).1

/-- Whether the add loses a bit beneath BASE. -/
def passCut (a : Xacc) (p : Pass) : Bool := (shiftIn p.sum p.l a.base.toInt).2

/-- TAIL with the bits that the pass lost beneath its own window (R34). -/
def passTail (a : Xacc) (p : Pass) : W64 := if p.lost = 0 then a.tail else addUp64 a.tail (toB64 (up64 { m := p.lost, e := p.l }))

section Add

variable {a : Xacc} {p : Pass}

theorem xAddPass_base (v : Nat) : (xAddPass a p v).base = a.base := rfl

theorem xAddPass_inx (v : Nat) : (xAddPass a p v).inx = (a.inx || decide (p.lost ≠ 0) || passCut a p) := rfl

theorem xAddPass_tail (v : Nat) :
    (xAddPass a p v).tail = if passCut a p then addUp64 (passTail a p) (pow64 a.base.toInt) else passTail a p := rfl

theorem xAddPass_ovf (v : Nat) : (xAddPass a p v).ovf =
    (a.ovf || (decide (a.value.toInt + passTerm a p < vMin) || decide (vMax < a.value.toInt + passTerm a p))) := rfl

theorem xAddPass_value (v : Nat) : (xAddPass a p v).value =
    if (decide (a.value.toInt + passTerm a p < vMin) || decide (vMax < a.value.toInt + passTerm a p)) || a.ovf then
      BitVec.ofNat 256 v else BitVec.ofInt 256 (a.value.toInt + passTerm a p) := rfl

/-- R37: a sum that VALUE holds is held exactly. -/
theorem xAddPass_exact (v : Nat) (ho : a.ovf = false) (hlo : vMin ≤ a.value.toInt + passTerm a p)
    (hhi : a.value.toInt + passTerm a p ≤ vMax) :
    (xAddPass a p v).value.toInt = a.value.toInt + passTerm a p ∧ (xAddPass a p v).ovf = false := by
  have hfits : (decide (a.value.toInt + passTerm a p < vMin) || decide (vMax < a.value.toInt + passTerm a p)) = false := by
    simp [hlo, hhi]
  rw [xAddPass_value, xAddPass_ovf, hfits, ho]
  exact ⟨BitVec.toInt_ofInt_eq_self (by decide) hlo (Int.lt_of_le_sub_one hhi), rfl⟩

/-- R37: a sum that VALUE does not hold sets OVF. -/
theorem xAddPass_beyond (v : Nat) (h : a.value.toInt + passTerm a p < vMin ∨ vMax < a.value.toInt + passTerm a p) :
    (xAddPass a p v).ovf = true := by
  rw [xAddPass_ovf]
  rcases h with h | h <;> simp [h]

theorem xAddPass_lost (v : Nat) (h : passCut a p = true) :
    (xAddPass a p v).inx = true ∧ (xAddPass a p v).tail = addUp64 (passTail a p) (pow64 a.base.toInt) := by
  rw [xAddPass_inx, xAddPass_tail, h]
  exact ⟨Bool.or_true _, rfl⟩

theorem xAddPass_kept (v : Nat) (h : passCut a p = false) :
    ((xAddPass a p v).inx = true ↔ a.inx = true ∨ p.lost ≠ 0) ∧ (xAddPass a p v).tail = passTail a p := by
  rw [xAddPass_inx, xAddPass_tail, h]
  exact ⟨by simp, rfl⟩

end Add

theorem xGet_xPut_same (k : Core) (x : Nat) (a : Xacc) : xGet (xPut k x a) x = a := tabGet_tabPut_same _ _ _ _

theorem xGet_xPut_ne (k : Core) {x y : Nat} (a : Xacc) (h : y ≠ x) : xGet (xPut k x a) y = xGet k y := tabGet_tabPut_ne _ _ _ h

/-- Settles O57: XACC_PASS_ADD puts `xAddPass` of the oldest pass into its XACC, whose VALUE, INX, OVF and TAIL the rules above give. -/
theorem windowSumsAreExact : Obligations.WindowSumsAreExact := by
  unfold Obligations.WindowSumsAreExact
  intro s c p r hr hp a base cut term sum lost t1
  have hterm : passTerm a p = term := shiftIn_fst _ _ _
  have hlost : passCut a p = true ↔ lost := shiftIn_snd_iff _ _ _
  have hnot : passCut a p = false ↔ ¬lost := by rw [← hlost, Bool.not_eq_true]
  rw [answers_xaccPassAdd_iff hr hp, getCore_setCore_same, xGet_xPut_same]
  refine ⟨rfl, rfl, ?exact, ?beyond, ?lost, ?kept, ?others, ?cores⟩
  case exact =>
    intro ho hlo hhi
    have h := xAddPass_exact (a := a) (p := p) (freeVal s.blk) ho (by rwa [hterm]) (by rwa [hterm])
    rwa [hterm] at h
  case beyond => exact fun h => xAddPass_beyond _ (by rwa [hterm])
  case lost => exact fun h => xAddPass_lost _ (hlost.2 h)
  case kept => exact fun h => xAddPass_kept _ (hnot.2 h)
  case others => exact fun x hx => xGet_xPut_ne _ _ hx
  case cores => exact fun d hd => getCore_setCore_ne _ _ hd

end Sys2Proof.Machine
